-- ==== Sys2Proof/Word.lean ====
section
/-! DEFINITION. The word types of the Orastyx 920 and the enumerations its encodings name. -/

namespace Sys2Proof

/-- A 64-bit instruction word, clause header or uniform register value (R69, R32). -/
abbrev Word := BitVec 64
/-- One lane of a vector register (R32). -/
abbrev Lane := BitVec 32
abbrev Byte := BitVec 8
/-- An execution or mask register: bit 32g + j is bit j of lane word g (R25). -/
abbrev Mask := BitVec 1024
/-- A label ID, an index into the context's label table (R44). -/
abbrev Lbl := Nat

/-- The type codes of R80. -/
inductive Ty where
  | b32 | i32 | n32 | i16 | n16 | i64 | f32 | f16 | bf16 | mk8 | sm8 | sm4
  deriving DecidableEq, Repr

/-- Rounding directions (R81). -/
inductive Rnd where
  | rn | rz | ru | rd
  deriving DecidableEq, Repr

/-- Compare conditions (R81). -/
inductive Cond where
  | eq | ne | lt | le | gt | ge | un | ord
  deriving DecidableEq, Repr

/-- Memory scopes (R81, R193). -/
inductive Scope where
  | core | clus | die | dev | sys
  deriving DecidableEq, Repr

/-- Memory orders (R81). -/
inductive Ord4 where
  | rlx | acq | rel | ar
  deriving DecidableEq, Repr

/-- Atomic operators (R223); the reduce operators of R97 are all but exch. -/
inductive AOp where
  | add | min | max | and | or | xor | exch
  deriving DecidableEq, Repr

/-- Mask logic operators (R112). -/
inductive MOp where
  | and | or | xor | andn
  deriving DecidableEq, Repr

/-- VSHUF modes (R142). -/
inductive ShufMode where
  | idx | xor | up | down
  deriving DecidableEq, Repr

/-- Condition kinds of a BRC (R79). -/
inductive BrKind where
  | nz | z | any | all
  deriving DecidableEq, Repr

/-- The fields of the fault record that FAULTR reads (R111). -/
inductive FaultField where
  | code | sub | pc | slot | plbl | addr | mask | info
  deriving DecidableEq, Repr

/-- The engine class of a clause (R70). -/
inductive Eng where
  | team | matrix | copy | supervisor
  deriving DecidableEq, Repr

/-- Privilege levels (R8). -/
inductive Priv where
  | user | ctxSup | devSup
  deriving DecidableEq, Repr

/-- The two addressing forms of a vector atomic: a uniform base or a register pair (R223). -/
inductive ABase where
  | uniform | pair
  deriving DecidableEq, Repr

/-- The agent that executes an instruction: a fragment of a crew's team, a sequencer context of a crew,
or a supervisor core (R192). The first number is the crew's key in the state. -/
inductive Agent where
  | frag (cid team frag : Nat)
  | seq (cid ctx : Nat)
  | sup (k : Nat)
  deriving DecidableEq, Repr

end Sys2Proof
end

