-- ==== Sys2Proof/Syntax.lean ====
section
/-! DEFINITION. The steps of the Orastyx 920 as syntax: one constructor for each row of the opcode table.
The first part are the rows that are instruction words (R96); register fields hold register numbers, and
WellFormed says which numbers the encoding admits. The second part are the rows that are events: steps of the
dispatcher, the engines, the Ladle, the host and the other agents of the module. -/

namespace Sys2Proof

/-- The fabric's operations on a module (R316, R382). -/
inductive FabricOp where
  | load
  | store (data : List Byte)
  | atomic (op : AOp) (ty : Ty) (operand : Word)
  deriving DecidableEq, Repr

/-- A fabric packet as it arrives: who sent it, under which job key, for which VF, and what it asks (R382); whether its load or
atomic is an acquire (R212). -/
structure FabricPacket where
  peer : Nat
  pvf : Nat
  jobkey : Word
  vf : Nat
  pa : Nat
  bytes : Nat
  op : FabricOp
  acq : Bool := false
  deriving DecidableEq, Repr

/-- A group handle's registration record (R383). -/
structure HandleRec where
  handle : BitVec 32
  jobkey : Word
  owners : BitVec 64
  ranks : List (Nat × Nat)
  deriving DecidableEq, Repr

/-- Who sends a packet of a collective: fabric ID, VF, job key and rank (R382, R383), and the code with which that rank's step has
failed, 0 while it has not (R298, log 41). -/
structure RankMsg where
  fab : Nat
  pvf : Nat
  jobkey : Word
  rank : Nat
  fc : Nat := 0
  deriving DecidableEq, Repr

/-- An image as a context supervisor's loader takes it (R16, R90): bytes to place, and in source order the
granule ranges with the owner sets their directives name. -/
structure Image where
  bytes : List (Nat × Byte)
  granules : List (Nat × Nat × BitVec 64)
  deriving DecidableEq, Repr

/-- What a register write that has no row of its own names (R12): a register of a VF's or the physical function's
BAR0, a memory controller register, or a table written over the management path. -/
inductive RegTarget where
  | poolLow (vf : Nat)
  | obuf (vf offset : Nat)
  | ctl (mc offset : Nat)
  | acl (vf entry quarter : Nat)
  | egress (vf entry quarter : Nat)
  | tdi (vf : Nat)
  | bar (vf : Nat)
  deriving DecidableEq, Repr

/-- What pipeline-error counting names as the unit whose check failed (R342): the issue slot of a team, or the matrix
array of a cluster. -/
inductive CheckUnit where
  | team (t : Nat)
  | array
  | record
  deriving DecidableEq, Repr

/-- What the register code finds in a word that it reads (R340): an uncorrectable error in a register of a team, or in a uniform
register of a sequencer context, or a single bad symbol, which it corrects and counts. -/
inductive RegErr where
  | uniform (t r : Nat)
  | context (x r : Nat)
  | corrected
  | mask (t r : Nat)
  | vector (t r g : Nat)
  deriving DecidableEq, Repr

/-- The two tiers of R375. -/
inductive Tier where
  | host
  | peer
  deriving DecidableEq, Repr

/-- The steps of the machine. -/
inductive Instr where
  -- control (R104)
  | nop
  | bra (tgt : BitVec 17)
  | brc (kind : BrKind) (a : Nat) (tgt join : BitVec 17)
  | brv (m : Nat) (tgt join : BitVec 17)
  | call (tgt : BitVec 17)
  | ret
  | exit
  | yield
  | loop (a : Nat) (tgt join : BitVec 17)
  | brx (a : Nat)
  | trap (n : BitVec 25)
  | tretRetry
  | tretSkip
  | bkpt (n : BitVec 25)
  | halt
  -- uniform integer (R101); i64 says TY 0x5
  | smov (d a : Nat)
  | smovi (d : Nat) (imm : BitVec 32)
  | smovh (d : Nat) (imm : BitVec 32)
  | sadd (i64 sat : Bool) (d a b : Nat)
  | ssub (i64 sat : Bool) (d a b : Nat)
  | smul (i64 sat : Bool) (d a b : Nat)
  | smulh (i64 : Bool) (d a b : Nat)
  | sand (d a b : Nat)
  | sor (d a b : Nat)
  | sxor (d a b : Nat)
  | sshl (d a b : Nat)
  | sshr (d a b : Nat)
  | ssar (d a b : Nat)
  | smin (i64 : Bool) (d a b : Nat)
  | smax (i64 : Bool) (d a b : Nat)
  | scmp (i64 : Bool) (c : Cond) (d a b : Nat)
  | ssel (d a b c : Nat)
  | saddi (i64 sat : Bool) (d a : Nat) (imm : BitVec 26)
  | sld (la : Nat) (ty : Ty) (sc : Scope) (o : Ord4) (d a b : Nat) (ofs : BitVec 18)
  | sst (ty : Ty) (sc : Scope) (o : Ord4) (d a b : Nat) (ofs : BitVec 18)
  | sclz (d a : Nat)
  | spopc (d a : Nat)
  | sbfe (d a b c : Nat)
  | slane (d a b : Nat)
  -- masks (R112)
  | mset (d a b : Nat)
  | mlog (op : MOp) (d a b : Nat)
  | mnot (d a : Nat)
  | mcmp (ty : Ty) (c : Cond) (d a b : Nat)
  | mfcmp (ty : Ty) (c : Cond) (d a b : Nat)
  | msave (d a : Nat)
  | mrest (d a : Nat)
  | mpopc (d a : Nat)
  | melect (d a : Nat)
  | mtest (d a b : Nat)
  | exmw (a : Nat)
  | exmr (d : Nat)
  -- vector integer (R128)
  | vmov (d a : Nat)
  | vmovi (d : Nat) (imm : BitVec 32)
  | vadd (ty : Ty) (sat : Bool) (d a b : Nat)
  | vsub (ty : Ty) (sat : Bool) (d a b : Nat)
  | vmul (ty : Ty) (sat : Bool) (d a b : Nat)
  | vmulh (ty : Ty) (d a b : Nat)
  | vmad (ty : Ty) (sat : Bool) (d a b c : Nat)
  | vand (d a b : Nat)
  | vor (d a b : Nat)
  | vxor (d a b : Nat)
  | vnot (d a : Nat)
  | vshl (d a b : Nat)
  | vshr (d a b : Nat)
  | vsar (d a b : Nat)
  | vmin (ty : Ty) (d a b : Nat)
  | vmax (ty : Ty) (d a b : Nat)
  | vabs (ty : Ty) (sat : Bool) (d a : Nat)
  | vneg (ty : Ty) (sat : Bool) (d a : Nat)
  | vsel (d a b c : Nat)
  | vclz (d a : Nat)
  | vpopc (d a : Nat)
  | vbfe (d a b c : Nat)
  | vbfi (d a b c : Nat)
  | vsat (ty : Ty) (d a : Nat)
  | vaddi (ty : Ty) (sat : Bool) (d a : Nat) (imm : BitVec 26)
  | vlane (d a : Nat)
  | vfroms (d a : Nat)
  -- vector float, conversion (R131, R136)
  | vfadd (ty : Ty) (r : Rnd) (d a b : Nat)
  | vfsub (ty : Ty) (r : Rnd) (d a b : Nat)
  | vfmul (ty : Ty) (r : Rnd) (d a b : Nat)
  | vfma (ty : Ty) (r : Rnd) (d a b c : Nat)
  | vfmin (ty : Ty) (d a b : Nat)
  | vfmax (ty : Ty) (d a b : Nat)
  | vfrcp (la : Nat) (r : Rnd) (d a : Nat)
  | vfrsq (la : Nat) (r : Rnd) (d a : Nat)
  | vfexp2 (la : Nat) (r : Rnd) (d a : Nat)
  | vflog2 (la : Nat) (r : Rnd) (d a : Nat)
  | vfabs (ty : Ty) (d a : Nat)
  | vfneg (ty : Ty) (d a : Nat)
  | vcvt (dt st : Ty) (sat : Bool) (r : Rnd) (d a : Nat)
  | vpack (ty : Ty) (sat : Bool) (r : Rnd) (d a b : Nat)
  | vunpk (ty : Ty) (hi : Bool) (d a : Nat)
  -- lane exchange (R141)
  | vshuf (mode : ShufMode) (d a b : Nat)
  | vbcast (d a b : Nat)
  | vred (la : Nat) (ty : Ty) (sat : Bool) (r : Rnd) (op : AOp) (d a : Nat)
  | vscan (la : Nat) (ty : Ty) (sat : Bool) (r : Rnd) (op : AOp) (excl : Bool) (d a : Nat)
  -- memory (R150); idx is the index register, none when NX is 1; sc says SC
  | vld (la : Nat) (ty : Ty) (scp : Scope) (o : Ord4) (sc : Bool) (d a : Nat) (idx : Option Nat) (ofs : BitVec 17)
  | vst (ty : Ty) (scp : Scope) (o : Ord4) (sc : Bool) (d a : Nat) (idx : Option Nat) (ofs : BitVec 17)
  | vldx (la : Nat) (ty : Ty) (scp : Scope) (o : Ord4) (d a : Nat) (ofs : BitVec 18)
  | vstx (ty : Ty) (scp : Scope) (o : Ord4) (d a : Nat) (ofs : BitVec 18)
  | vlds (la : Nat) (ty : Ty) (sc : Bool) (d a : Nat) (idx : Option Nat) (ofs : BitVec 17)
  | vsts (ty : Ty) (sc : Bool) (d a : Nat) (idx : Option Nat) (ofs : BitVec 17)
  | vpref (sc : Bool) (a : Nat) (idx : Option Nat) (ofs : BitVec 17)
  | spwait (a b : Nat) (ofs : BitVec 18)
  -- atomics (R223)
  | atom (la : Nat) (ty : Ty) (scp : Scope) (o : Ord4) (pb : ABase) (op : AOp) (d a b : Nat) (ofs : BitVec 14)
  | atomc (la : Nat) (scp : Scope) (o : Ord4) (pb : ABase) (d a b : Nat) (ofs : BitVec 14)
  | red (ty : Ty) (scp : Scope) (o : Ord4) (pb : ABase) (op : AOp) (a b : Nat) (ofs : BitVec 14)
  | satom (la : Nat) (i64 : Bool) (scp : Scope) (o : Ord4) (op : AOp) (d a b : Nat) (ofs : BitVec 14)
  | stashMap (d a b : Nat) (ofs : BitVec 18)
  | stashFlush (d a b : Nat) (ofs : BitVec 18)
  | stashUnmap (d a b : Nat) (ofs : BitVec 18)
  -- fences, barriers, claims (R230, R233, R162, R236)
  | fence (scp : Scope) (o : Ord4)
  | fencex (scp : Scope) (o : Ord4) (paths : BitVec 6)
  | bara (n : Nat)
  | barw (n : Nat)
  | baraw (n : Nat)
  | bari (n a : Nat)
  | wbara (scp : Scope) (a b : Nat) (ofs : BitVec 18)
  | wbarw (scp : Scope) (p : Bool) (d a b : Nat) (ofs : BitVec 18)
  | wbari (scp : Scope) (d a b : Nat) (ofs : BitVec 18)
  | ckpt
  | clm (sc : Bool) (a : Nat) (idx : Option Nat) (ofs : BitVec 17)
  | clmseal
  | clmdone
  | clmq (la : Nat) (d : Nat)
  -- labels and scopes (R117, R114)
  | lget (d a : Nat)
  | lraise (d a b : Nat) (ofs : BitVec 18)
  | decl (d a : Nat) (site : BitVec 16) (target : BitVec 8)
  | endorse (site : BitVec 16) (count : BitVec 10)
  | lchk (d a b : Nat)
  | lspan (d n a : Nat)
  | scopeo (n base : Nat)
  | scopec
  | rgrow (n : Nat)
  | rshrink (n : Nat)
  -- engines (R284 to R301)
  | fork (a b c : Nat)
  | rdv
  | tcopy (sh co ct : Nat)
  | xfer (red : Bool) (sh co ct : Nat)
  | mma (ty : Ty) (i32 : Bool) (tile : Nat) (sh co ct : Nat)
  | mzero (tile : Nat)
  | mdrain (la : Nat) (ty : Ty) (r : Rnd) (d tile b : Nat)
  | mfill (ty : Ty) (tile a b : Nat)
  | mrsclVector (tile a : Nat)
  | mrsclUniform (tile a : Nat)
  | shape (d a : Nat)
  | cast (a : Nat)
  | qput (a b : Nat) (ofs : BitVec 18)
  -- system (R353 to R359)
  | sysr (d reg : Nat)
  | sysw (reg a : Nat)
  | pkeyw (a : Nat)
  | tlbinvPage (a : Nat)
  | tlbinvCtx (a : Nat)
  | tlbinvAll (a : Nat)
  | frinv (a b : Nat)
  | faultr (f : FaultField) (d : Nat)
  | pgmap (a : Nat)
  -- events of the cores and the wave former
  | stashFill (cid line : Nat)
  | clauseStart (ag : Agent)
  | issueChoice (cl core slot : Nat)
  | longLatencyComplete (ag : Agent) (k : Nat)
  | storePerformed (ag : Agent)
  | redAcknowledged (ag : Agent)
  | fragmentFusion (cid team sid : Nat)
  | spillRestore (cid team frag : Nat)
  | trapEntry (ag : Agent)
  | sequencerFault (cid ctx : Nat)
  | registerGrant (cid team : Nat)
  | growDeadlock (cl core : Nat)
  -- events of the dispatcher
  | dispatchPacket (vf q : Nat)
  | waitWordRead (vf key : Nat)
  | priorityPeriodEnd (vf key : Nat)
  | crewPlace (vf key : Nat)
  | castCompletionRelease (vf key : Nat)
  | waveForm (vf key : Nat)
  -- events of commit windows and memory
  | commitPoint (cid : Nat)
  | timedCommitPoint (cid : Nat)
  | rollback (cid : Nat)
  | writeThrough (cl core line : Nat)
  | promotionRequest (line cl core : Nat)
  -- events of the engines
  | commandAccept (cl : Nat) (copy : Bool)
  | forkGrant (cid team : Nat)
  | tileFetchLine (cl op : Nat)
  | mmaKBlock (cl op : Nat)
  | mmaCompletion (cl op : Nat)
  | scratchpadLineArrival (cl op line : Nat)
  | copyCompletion (cl op : Nat)
  | xferChunk (cl op : Nat) (who : RankMsg) (data : List Byte)
  | xferStepCompletion (cl op : Nat)
  -- events of the fabric
  | eagerSlotWrite (vf handle : Nat) (who : RankMsg) (data : List Byte)
  | slotReleaseNotice (vf handle : Nat) (who : RankMsg) (head : Nat)
  | readyToReceive (cl op : Nat) (who : RankMsg) (dest : Nat) (owners : BitVec 64)
  | reductionSlotRequest (vf handle inUse : Nat)
  | fabricPacketReceive (p : FabricPacket)
  | peerQputReceive (peer pvf : Nat) (jobkey : Word) (vf queue : Nat) (record : Word)
  -- events of pairing and containment
  | windowCompare (cid : Nat)
  | pipelineError (cid : Nat) (u : CheckUnit)
  | uncorrectableRegister (cid : Nat) (r : RegErr)
  | poisonedDataConsumed (cid pa : Nat)
  | engineReset (cl : Nat)
  | l2TagParity (die slice : Nat) (lines : List Nat)
  -- events of slices and the Ladle
  | sliceEnd (part : Nat)
  | switchIn (part : Nat)
  | swapDown (vf page : Nat) (tier : Tier)
  | swapUp (vf page : Nat)
  | demandSwapUp (vf va : Nat)
  | supervisorPageMap (vf va : Nat)
  | bucketRefill
  | meteredRequest (mc vf bytes : Nat)
  | tbcWrite (mc vf : Nat) (val : Word)
  | pooladd (vf : Nat) (val : Word)
  | poolrel (vf : Nat) (val : Word)
  -- events of the host, the security controller and firmware
  | dbell (vf queue : Nat) (record : Word)
  | ownerRegister (vf : Nat)
  | nonceRead (vf : Nat)
  | handleRegister (vf : Nat) (rec : HandleRec)
  | vfRelease (vf : Nat)
  | moduleTurnover
  | supervisorRestart (k : Nat) (turnover : Bool)
  | fabricIdAssign (id : Nat)
  | getVersion
  | getCapabilities
  | negotiateAlgorithms
  | getDigests
  | getCertificate (slot : Nat)
  | challenge (slot : Nat)
  | getMeasurements
  | keyExchange
  | finish
  | heartbeat
  | keyUpdate
  | endSession
  | vendorDefinedRequest (payload : List Byte)
  | unsupportedRequest (code : Nat)
  | thermalThrottle (island : Nat)
  | coolantLoss
  | registerWrite (target : RegTarget) (val : Word)
  | imageLoad (vf : Nat) (img : Image)
  | debuggerResume (ag : Agent)
  | moduleReset
  | pcieLinkStateChange (link : Nat) (up : Bool)
  | fabricLinkStateChange (port : Nat) (up : Bool)
  | partitionTableWrite (entry : Nat) (clust : BitVec 128) (vfs : BitVec 256) (slice : BitVec 32) (flags : BitVec 8)
      (reserved : BitVec 88)
  | handleDeregister (vf handle : Nat)
  | tierWrite (vf base size : Nat)
  deriving DecidableEq, Repr

end Sys2Proof
end

