-- ==== Sys2Proof/Machine/Flags.lean ====
section
/-! DEFINITION. Readings of integer types, wrapping and saturation, and compare conditions (R81, R101, R113, R124, R129).
The machine has no flags: what a compare finds goes into a mask or a uniform register, and .sat is the only other trace
an overflow leaves. -/

namespace Sys2Proof.Machine

/-- The width of an integer type of a lane. -/
def tyWidth : Ty → Nat
  | .i16 | .n16 | .f16 | .bf16 => 16
  | .mk8 | .sm8 => 8
  | .sm4 => 4
  | .i64 => 64
  | _ => 32

/-- The range of an integer type (R129). -/
def tyLo : Ty → Int
  | .i32 => -(2 ^ 31)
  | .i16 => -(2 ^ 15)
  | .i64 => -(2 ^ 63)
  | .sm8 => -127
  | .sm4 => -7
  | _ => 0
def tyHi : Ty → Int
  | .i32 => 2 ^ 31 - 1
  | .i16 => 2 ^ 15 - 1
  | .n16 => 2 ^ 16 - 1
  | .i64 => 2 ^ 63 - 1
  | .sm8 => 127
  | .sm4 => 7
  | _ => 2 ^ 32 - 1

/-- A sign-magnitude code as an integer; negative zero is zero (R251). -/
def smVal (bits : Nat) (code : Nat) : Int :=
  let m := code % 2 ^ (bits - 1)
  if code / 2 ^ (bits - 1) % 2 = 1 then -(m : Int) else m
/-- The code of a sign-magnitude integer; zero has sign 0. -/
def smCode (bits : Nat) (v : Int) : Nat := if v < 0 then 2 ^ (bits - 1) + v.natAbs else v.natAbs

/-- A source lane as an integer of its type (R124). -/
def laneInt (t : Ty) (x : Lane) : Int :=
  match t with
  | .i32 => x.toInt
  | .i16 => (x.extractLsb' 0 16).toInt
  | .n16 => (x.toNat % 2 ^ 16 : Nat)
  | .sm8 => smVal 8 (x.toNat % 256)
  | .sm4 => smVal 4 (x.toNat % 16)
  | _ => (x.toNat : Int)

/-- The nearer bound of a value outside a range. -/
def satTo (v lo hi : Int) : Int := if v < lo then lo else if hi < v then hi else v

/-- The low w bits of an exact integer, extended into the lane by its type (R124, R129). -/
def placeInt (t : Ty) (v : Int) : Lane :=
  match t with
  | .i16 => (BitVec.ofInt 16 v).signExtend 32
  | .n16 => (BitVec.ofInt 16 v).zeroExtend 32
  | _ => BitVec.ofInt 32 v

/-- An exact integer narrowed to a lane: saturated or wrapped (R129). -/
def narrow (t : Ty) (sat : Bool) (v : Int) : Lane :=
  placeInt t (if sat then satTo v (tyLo t) (tyHi t) else v)

/-- A uniform operand as the integer its TY says (R101). -/
def wordInt (i64 : Bool) (x : Word) : Int := if i64 then x.toInt else (x.toNat : Int)
/-- A uniform result: wrapped modulo 2^64, or saturated under .sat (R101). -/
def narrow64 (sat : Bool) (v : Int) : Word := BitVec.ofInt 64 (if sat then satTo v (tyLo .i64) (tyHi .i64) else v)

/-- Integer comparison (R81); un and ord belong to floating-point compares alone. -/
def condInt (c : Cond) (a b : Int) : Bool :=
  match c with
  | .eq => a == b
  | .ne => a != b
  | .lt => decide (a < b)
  | .le => decide (a ≤ b)
  | .gt => decide (b < a)
  | .ge => decide (b ≤ a)
  | .un => false
  | .ord => true

def boolWord (b : Bool) : Word := if b then 1 else 0

/-- Leading zeros of a w-bit number. -/
def clz (w n : Nat) : Nat := if n = 0 then w else w - 1 - n.log2
/-- Set bits below bit w of a number. -/
def popc (w n : Nat) : Nat := ((List.range w).filter (fun k => n.testBit k)).length

end Sys2Proof.Machine
end

