-- ==== Sys2Proof/Decode.lean ====
section
/-! DEFINITION. Decoding: from a 64-bit instruction word and the engine class of its clause to an instruction, or to
the named cause of the illegal-instruction fault (R84). Every decoder makes its checks in the order of the
sub-codes, so the lowest that applies is the answer. The encoder after it gives each instruction's one word. -/

namespace Sys2Proof

/-- The causes of R84, by name. -/
inductive Illegal where
  | headerKey | reservedOpcode | wrongClass | badType | badModifier | badField | badLookahead | badPair | badScope
  deriving DecidableEq, Repr

/-- The sub-code of a cause (R84). -/
def illegalCode : Illegal → Nat
  | .headerKey => 1 | .reservedOpcode => 2 | .wrongClass => 3 | .badType => 4 | .badModifier => 5
  | .badField => 6 | .badLookahead => 7 | .badPair => 8 | .badScope => 9

/-- What a decoder answers. -/
abbrev Dec := Except Illegal

/-- A check that answers its cause when it fails. -/
def need (e : Illegal) (ok : Bool) : Dec Unit := if ok then .ok () else .error e

/-! ### Fields (R77) -/

def fOp (w : Word) : Nat := (w.extractLsb' 56 8).toNat
def fLa (w : Word) : Nat := (w.extractLsb' 52 4).toNat
def fTy (w : Word) : BitVec 4 := w.extractLsb' 48 4
def fMod (w : Word) : BitVec 6 := w.extractLsb' 42 6
/-- Bit 47, .sat of the arithmetic layout (R81). -/
def fSat (w : Word) : Bool := w.getLsbD 47
/-- Bits [46:45], rounding of the arithmetic layout. -/
def fRnd (w : Word) : BitVec 2 := w.extractLsb' 45 2
/-- Bits [44:42], the instruction-specific part of the arithmetic and compare layouts. -/
def fSel (w : Word) : BitVec 3 := w.extractLsb' 42 3
/-- Bits [47:45], condition or scope of the compare and memory layouts. -/
def fTop (w : Word) : BitVec 3 := w.extractLsb' 45 3
/-- Bits [44:43], order of the memory layout. -/
def fOrd (w : Word) : BitVec 2 := w.extractLsb' 43 2
/-- Bit 42, SC of the memory layout. -/
def fLow (w : Word) : Bool := w.getLsbD 42
def fD (w : Word) : Nat := (w.extractLsb' 34 8).toNat
def fA (w : Word) : Nat := (w.extractLsb' 26 8).toNat
def fB (w : Word) : Nat := (w.extractLsb' 18 8).toNat
def fC (w : Word) : Nat := (w.extractLsb' 10 8).toNat
def fX (w : Word) : BitVec 10 := w.extractLsb' 0 10
def fImm26 (w : Word) : BitVec 26 := w.extractLsb' 0 26
def fImm32 (w : Word) : BitVec 32 := w.extractLsb' 0 32
def fOfs18 (w : Word) : BitVec 18 := w.extractLsb' 0 18
def fOfs17 (w : Word) : BitVec 17 := w.extractLsb' 0 17
/-- NX, OFS18[17] of R146. -/
def fNx (w : Word) : Bool := w.getLsbD 17
def fAop (w : Word) : BitVec 4 := w.extractLsb' 14 4
def fOfs14 (w : Word) : BitVec 14 := w.extractLsb' 0 14
def fTgt (w : Word) : BitVec 17 := w.extractLsb' 17 17
def fJoin (w : Word) : BitVec 17 := w.extractLsb' 0 17

/-! ### Codes of modifiers (R79 to R81, R97) -/

def tyCode : Ty → BitVec 4
  | .b32 => 0 | .i32 => 1 | .n32 => 2 | .i16 => 3 | .n16 => 4 | .i64 => 5 | .f32 => 6 | .f16 => 7 | .bf16 => 8
  | .mk8 => 9 | .sm8 => 10 | .sm4 => 11

def tyOf (c : BitVec 4) : Option Ty :=
  match c.toNat with
  | 0 => some .b32 | 1 => some .i32 | 2 => some .n32 | 3 => some .i16 | 4 => some .n16 | 5 => some .i64
  | 6 => some .f32 | 7 => some .f16 | 8 => some .bf16 | 9 => some .mk8 | 10 => some .sm8 | 11 => some .sm4
  | _ => none

def rndCode : Rnd → BitVec 2
  | .rn => 0 | .rz => 1 | .ru => 2 | .rd => 3

def rndOf (c : BitVec 2) : Rnd :=
  match c.toNat with
  | 0 => .rn | 1 => .rz | 2 => .ru | _ => .rd

def condCode : Cond → BitVec 3
  | .eq => 0 | .ne => 1 | .lt => 2 | .le => 3 | .gt => 4 | .ge => 5 | .un => 6 | .ord => 7

def condOf (c : BitVec 3) : Cond :=
  match c.toNat with
  | 0 => .eq | 1 => .ne | 2 => .lt | 3 => .le | 4 => .gt | 5 => .ge | 6 => .un | _ => .ord

def scopeCode : Scope → BitVec 3
  | .core => 0 | .clus => 1 | .die => 2 | .dev => 3 | .sys => 4

def scopeOf (c : BitVec 3) : Option Scope :=
  match c.toNat with
  | 0 => some .core | 1 => some .clus | 2 => some .die | 3 => some .dev | 4 => some .sys | _ => none

def ordCode : Ord4 → BitVec 2
  | .rlx => 0 | .acq => 1 | .rel => 2 | .ar => 3

def ordOf (c : BitVec 2) : Ord4 :=
  match c.toNat with
  | 0 => .rlx | 1 => .acq | 2 => .rel | _ => .ar

def aopCode : AOp → BitVec 4
  | .add => 0 | .min => 1 | .max => 2 | .and => 3 | .or => 4 | .xor => 5 | .exch => 6

def aopOf (c : Nat) : Option AOp :=
  match c with
  | 0 => some .add | 1 => some .min | 2 => some .max | 3 => some .and | 4 => some .or | 5 => some .xor
  | 6 => some .exch | _ => none

def mopCode : MOp → BitVec 3
  | .and => 0 | .or => 1 | .xor => 2 | .andn => 3

def mopOf (c : BitVec 3) : Option MOp :=
  match c.toNat with
  | 0 => some .and | 1 => some .or | 2 => some .xor | 3 => some .andn | _ => none

def shufCode : ShufMode → BitVec 3
  | .idx => 0 | .xor => 1 | .up => 2 | .down => 3

def shufOf (c : BitVec 3) : Option ShufMode :=
  match c.toNat with
  | 0 => some .idx | 1 => some .xor | 2 => some .up | 3 => some .down | _ => none

def faultFieldCode : FaultField → BitVec 3
  | .code => 0 | .sub => 1 | .pc => 2 | .slot => 3 | .plbl => 4 | .addr => 5 | .mask => 6 | .info => 7

def faultFieldOf (c : BitVec 3) : FaultField :=
  match c.toNat with
  | 0 => .code | 1 => .sub | 2 => .pc | 3 => .slot | 4 => .plbl | 5 => .addr | 6 => .mask | _ => .info

def brKindCode : BrKind → BitVec 4
  | .nz => 1 | .z => 2 | .any => 3 | .all => 4

def brKindOf (c : BitVec 4) : Option BrKind :=
  match c.toNat with
  | 1 => some .nz | 2 => some .z | 3 => some .any | 4 => some .all | _ => none

/-- Engine classes of the header field ENG (R70). -/
def engOf (c : BitVec 3) : Option Eng :=
  match c.toNat with
  | 0 => some .team | 1 => some .matrix | 2 => some .copy | 3 => some .supervisor | _ => none

/-! ### Register kinds (R78) and shared checks -/

def isS (n : Nat) : Bool := decide (n < 64)
def isM (n : Nat) : Bool := decide (n < 16)
def isV (n : Nat) : Bool := decide (n < 256)
def isTile (n : Nat) : Bool := decide (n < 8)
def isBar (n : Nat) : Bool := decide (n < 64)
def isEven (n : Nat) : Bool := n % 2 == 0

/-- LA must be zero outside the long-latency set (R84, sub-code 7). -/
def noLa (w : Word) : Dec Unit := need .badLookahead (fLa w == 0)
/-- No type is written: TY 0x0 (R80). -/
def noTy (w : Word) : Dec Unit := need .badType (fTy w == 0)
def noMod (w : Word) : Dec Unit := need .badModifier (fMod w == 0)
/-- C and X of format R unused. -/
def cx0 (w : Word) : Bool := fC w == 0 && fX w == 0

/-- A type from an instruction's row of R96. -/
def needTy (w : Word) (l : List Ty) : Dec Ty :=
  match tyOf (fTy w) with
  | some t => if l.contains t then .ok t else .error .badType
  | none => .error .badType

/-- TY of the uniform instructions with two readings: 0x0 or i64 (R101). -/
def needU (w : Word) : Dec Bool :=
  if fTy w == 0 then .ok false else if fTy w == 5 then .ok true else .error .badType

def needScope (w : Word) : Dec Scope :=
  match scopeOf (fTop w) with
  | some s => .ok s
  | none => .error .badModifier

/-- Scope and order of the memory layout, with the orders that R98 accepts. -/
def needMem (w : Word) (orders : List Ord4) : Dec (Scope × Ord4) := do
  let sc ← needScope w
  need .badModifier (orders.contains (ordOf (fOrd w)))
  pure (sc, ordOf (fOrd w))

/-- The optional index of a per-lane address: none when NX is 1, and then B must be zero (R146). -/
def fIdx (w : Word) : Option Nat := if fNx w then none else some (fB w)
def idxOk (w : Word) : Bool := !fNx w || fB w == 0

/-- Engine-class legality (R83); a supervisor clause admits every opcode. -/
def inClass (cls : Eng) (l : List Eng) : Dec Unit := need .wrongClass (cls == .supervisor || l.contains cls)
def cAll : List Eng := [.team, .matrix, .copy]
def cTeam : List Eng := [.team]
def cTC : List Eng := [.team, .copy]

/-! ### Decoders by shape -/

/-- Format R with no field at all. -/
def decNone (i : Instr) (w : Word) : Dec Instr := do
  noTy w; noMod w
  need .badField (fD w == 0 && fA w == 0 && fB w == 0 && cx0 w)
  noLa w
  pure i

/-- sD, sA and no type. -/
def decSS (k : Nat → Nat → Instr) (w : Word) : Dec Instr := do
  noTy w; noMod w
  need .badField (isS (fD w) && isS (fA w) && fB w == 0 && cx0 w)
  noLa w
  pure (k (fD w) (fA w))

/-- sD, imm32 in format L. -/
def decSImm (k : Nat → BitVec 32 → Instr) (w : Word) : Dec Instr := do
  noTy w; noMod w
  need .badField (isS (fD w) && w.extractLsb' 32 2 == 0)
  noLa w
  pure (k (fD w) (fImm32 w))

/-- sD, sA, sB with TY 0x0 or i64 and .sat for i64. -/
def decSSat (k : Bool → Bool → Nat → Nat → Nat → Instr) (w : Word) : Dec Instr := do
  let i64 ← needU w
  need .badModifier (fRnd w == 0 && fSel w == 0 && (!fSat w || i64))
  need .badField (isS (fD w) && isS (fA w) && isS (fB w) && cx0 w)
  noLa w
  pure (k i64 (fSat w) (fD w) (fA w) (fB w))

/-- sD, sA, sB with TY 0x0 or i64. -/
def decSU (k : Bool → Nat → Nat → Nat → Instr) (w : Word) : Dec Instr := do
  let i64 ← needU w
  noMod w
  need .badField (isS (fD w) && isS (fA w) && isS (fB w) && cx0 w)
  noLa w
  pure (k i64 (fD w) (fA w) (fB w))

/-- sD, sA, sB and no type. -/
def decSSS (k : Nat → Nat → Nat → Instr) (w : Word) : Dec Instr := do
  noTy w; noMod w
  need .badField (isS (fD w) && isS (fA w) && isS (fB w) && cx0 w)
  noLa w
  pure (k (fD w) (fA w) (fB w))

/-- sD, sA, sB, sC. -/
def decSSSS (k : Nat → Nat → Nat → Nat → Instr) (w : Word) : Dec Instr := do
  noTy w; noMod w
  need .badField (isS (fD w) && isS (fA w) && isS (fB w) && isS (fC w) && fX w == 0)
  noLa w
  pure (k (fD w) (fA w) (fB w) (fC w))

/-- A first operand and two more of given kinds, no type, no modifier. -/
def decABC (kd ka kb : Nat → Bool) (k : Nat → Nat → Nat → Instr) (w : Word) : Dec Instr := do
  noTy w; noMod w
  need .badField (kd (fD w) && ka (fA w) && kb (fB w) && cx0 w)
  noLa w
  pure (k (fD w) (fA w) (fB w))

/-- Two operands of given kinds in D and A, no type, no modifier. -/
def decDA (kd ka : Nat → Bool) (k : Nat → Nat → Instr) (w : Word) : Dec Instr := do
  noTy w; noMod w
  need .badField (kd (fD w) && ka (fA w) && fB w == 0 && cx0 w)
  noLa w
  pure (k (fD w) (fA w))

/-- One operand of a given kind in D. -/
def decD (kd : Nat → Bool) (k : Nat → Instr) (w : Word) : Dec Instr := do
  noTy w; noMod w
  need .badField (kd (fD w) && fA w == 0 && fB w == 0 && cx0 w)
  noLa w
  pure (k (fD w))

/-- One operand of a given kind in A. -/
def decA (ka : Nat → Bool) (k : Nat → Instr) (w : Word) : Dec Instr := do
  noTy w; noMod w
  need .badField (fD w == 0 && ka (fA w) && fB w == 0 && cx0 w)
  noLa w
  pure (k (fA w))

/-- sA and sB in their fields, D zero. -/
def decAB (k : Nat → Nat → Instr) (w : Word) : Dec Instr := do
  noTy w; noMod w
  need .badField (fD w == 0 && isS (fA w) && isS (fB w) && cx0 w)
  noLa w
  pure (k (fA w) (fB w))

/-- mD, vA, vB with a type and a condition. -/
def decCmp (tys : List Ty) (condOk : Ty → Cond → Bool) (k : Ty → Cond → Nat → Nat → Nat → Instr) (w : Word) :
    Dec Instr := do
  let t ← needTy w tys
  need .badModifier (fSel w == 0 && condOk t (condOf (fTop w)))
  need .badField (isM (fD w) && isV (fA w) && isV (fB w) && cx0 w)
  noLa w
  pure (k t (condOf (fTop w)) (fD w) (fA w) (fB w))

/-- vD, vA, vB with a type and perhaps .sat (R128). -/
def decVSat (k : Ty → Bool → Nat → Nat → Nat → Instr) (w : Word) : Dec Instr := do
  let t ← needTy w [.i32, .n32, .i16, .n16]
  need .badModifier (fRnd w == 0 && fSel w == 0)
  need .badField (isV (fD w) && isV (fA w) && isV (fB w) && cx0 w)
  noLa w
  pure (k t (fSat w) (fD w) (fA w) (fB w))

/-- vD, vA, vB with a type and no modifier. -/
def decVT (tys : List Ty) (k : Ty → Nat → Nat → Nat → Instr) (w : Word) : Dec Instr := do
  let t ← needTy w tys
  noMod w
  need .badField (isV (fD w) && isV (fA w) && isV (fB w) && cx0 w)
  noLa w
  pure (k t (fD w) (fA w) (fB w))

/-- vD, vA with a type and no modifier. -/
def decVT2 (tys : List Ty) (k : Ty → Nat → Nat → Instr) (w : Word) : Dec Instr := do
  let t ← needTy w tys
  noMod w
  need .badField (isV (fD w) && isV (fA w) && fB w == 0 && cx0 w)
  noLa w
  pure (k t (fD w) (fA w))

/-- vD, vA with i32 or i16 and .sat. -/
def decVSat2 (k : Ty → Bool → Nat → Nat → Instr) (w : Word) : Dec Instr := do
  let t ← needTy w [.i32, .i16]
  need .badModifier (fRnd w == 0 && fSel w == 0)
  need .badField (isV (fD w) && isV (fA w) && fB w == 0 && cx0 w)
  noLa w
  pure (k t (fSat w) (fD w) (fA w))

/-- vD, vA, vB, vC of no type; kc is the kind of C. -/
def decV4 (kc : Nat → Bool) (k : Nat → Nat → Nat → Nat → Instr) (w : Word) : Dec Instr := do
  noTy w; noMod w
  need .badField (isV (fD w) && isV (fA w) && isV (fB w) && kc (fC w) && fX w == 0)
  noLa w
  pure (k (fD w) (fA w) (fB w) (fC w))

def floatTys : List Ty := [.f32, .f16, .bf16]

/-- vD, vA, vB with a floating-point type and rounding (R131). -/
def decVF (k : Ty → Rnd → Nat → Nat → Nat → Instr) (w : Word) : Dec Instr := do
  let t ← needTy w floatTys
  need .badModifier (!fSat w && fSel w == 0)
  need .badField (isV (fD w) && isV (fA w) && isV (fB w) && cx0 w)
  noLa w
  pure (k t (rndOf (fRnd w)) (fD w) (fA w) (fB w))

/-- The four long-latency functions of R135. -/
def decVFn (k : Nat → Rnd → Nat → Nat → Instr) (w : Word) : Dec Instr := do
  let _ ← needTy w [.f32]
  need .badModifier (!fSat w && fSel w == 0)
  need .badField (isV (fD w) && isV (fA w) && fB w == 0 && cx0 w)
  pure (k (fLa w) (rndOf (fRnd w)) (fD w) (fA w))

/-- Rounding and .sat as R136 admits them for a destination and a source type. -/
def cvtModOk (dt st : Ty) (sat : Bool) (r : Rnd) : Bool :=
  let fl : Ty → Bool := fun t => t == .f32 || t == .f16 || t == .bf16 || t == .mk8
  (r == .rn || ((fl dt || fl st) && dt != .mk8)) && (!sat || !fl dt)

/-- VPACK's source type (R139). -/
def packSrc (t : Ty) : Ty := if t == .f16 || t == .bf16 || t == .mk8 then .f32 else .i32

def cvtTys : List Ty := [.i32, .n32, .i16, .n16, .f32, .f16, .bf16, .mk8, .sm8, .sm4]
def packTys : List Ty := [.i16, .n16, .f16, .bf16, .mk8, .sm8, .sm4]

/-- VRED's and VSCAN's operator with its type, .sat and rounding (R141). -/
def redModOk (t : Ty) (sat : Bool) (r : Rnd) (op : AOp) : Bool :=
  let bitwise := op == .and || op == .or || op == .xor
  op != .exch && !(bitwise && t == .f32) && (!sat || (t != .f32 && op == .add)) && (r == .rn || t == .f32)

/-- VRED and VSCAN; kd is the kind of D, xOk says which bits X may hold. -/
def decRed (kd : Nat → Bool) (xmax : Nat) (k : Nat → Ty → Bool → Rnd → AOp → Nat → Nat → Instr) (w : Word) :
    Dec Instr := do
  let t ← needTy w [.i32, .n32, .f32]
  match aopOf (fSel w).toNat with
  | none => .error .badModifier
  | some op =>
    need .badModifier (redModOk t (fSat w) (rndOf (fRnd w)) op)
    need .badField (kd (fD w) && isV (fA w) && fB w == 0 && fC w == 0 && decide ((fX w).toNat ≤ xmax))
    pure (k (fLa w) t (fSat w) (rndOf (fRnd w)) op (fD w) (fA w))

def isOneByte (t : Ty) : Bool := t == .mk8 || t == .sm8 || t == .sm4
def loadTys : List Ty := [.b32, .i16, .n16, .f16, .bf16, .mk8, .sm8, .sm4]
def storeTys : List Ty := [.b32, .i16, .f16, .bf16]

/-- SC must not stand without an index, nor on a one-byte access (R151). -/
def scOk (w : Word) (t : Ty) : Bool := !fLow w || (!fNx w && !isOneByte t)

/-- Uniform address with sB or sz as its index (R147). -/
def decMS (tys : List Ty) (orders : List Ord4) (la : Bool)
    (k : Nat → Ty → Scope → Ord4 → Nat → Nat → Nat → BitVec 18 → Instr) (w : Word) : Dec Instr := do
  let t ← needTy w tys
  let (sc, o) ← needMem w orders
  need .badModifier (!fLow w)
  need .badField (isS (fD w) && isS (fA w) && isS (fB w))
  need .badLookahead (la || fLa w == 0)
  pure (k (fLa w) t sc o (fD w) (fA w) (fB w) (fOfs18 w))

/-- Pair address of VLDX and VSTX (R146). -/
def decMX (tys : List Ty) (orders : List Ord4) (la : Bool)
    (k : Nat → Ty → Scope → Ord4 → Nat → Nat → BitVec 18 → Instr) (w : Word) : Dec Instr := do
  let t ← needTy w tys
  let (sc, o) ← needMem w orders
  need .badModifier (!fLow w)
  need .badField (isV (fD w) && isV (fA w) && fB w == 0)
  need .badLookahead (la || fLa w == 0)
  need .badPair (isEven (fA w))
  pure (k (fLa w) t sc o (fD w) (fA w) (fOfs18 w))

/-- A vector atomic's operator and type agree (R224). -/
def aopTyOk (op : AOp) (t : Ty) : Bool :=
  match op with
  | .add | .min | .max => t == .i32 || t == .n32 || t == .f32
  | .and | .or | .xor | .exch => t == .b32

def abaseOf (w : Word) : ABase := if fLow w then .pair else .uniform
/-- The base register of a vector atomic: a pair's low register, or an s register. -/
def abaseOk (w : Word) : Bool := fLow w || isS (fA w)
def abaseEven (w : Word) : Bool := !fLow w || isEven (fA w)

/-- A barrier word's address with a scope and one order (R162). -/
def decWb (o : Ord4) (low : Bool) (kd : Nat → Bool) (k : Scope → Nat → Nat → Nat → BitVec 18 → Instr) (w : Word) :
    Dec Instr := do
  noTy w
  let (sc, _) ← needMem w [o]
  need .badModifier (low || !fLow w)
  need .badField (kd (fD w) && isS (fA w) && isS (fB w))
  noLa w
  pure (k sc (fD w) (fA w) (fB w) (fOfs18 w))

def isZero (n : Nat) : Bool := n == 0

/-- System register numbers of R350. -/
def sysKnown (n : Nat) : Bool :=
  [0x000, 0x001, 0x002, 0x003, 0x004, 0x005, 0x006, 0x010, 0x011, 0x012, 0x013, 0x014, 0x015, 0x016, 0x017, 0x018,
    0x020, 0x030, 0x031, 0x032].contains n
/-- Registers that R350 marks RO at every privilege. -/
def sysReadOnly (n : Nat) : Bool := [0x000, 0x001, 0x002, 0x003, 0x004, 0x006, 0x018].contains n

/-- An engine command of format E (R284). -/
def decE (xmax : Nat) (k : Nat → Nat → Nat → Instr) (w : Word) : Dec Instr := do
  noTy w; noMod w
  need .badField (isS (fD w) && decide (fA w ≤ 60) && isS (fB w) && decide ((fOfs18 w).toNat ≤ xmax))
  noLa w
  pure (k (fD w) (fA w) (fB w))

/-! ### The opcode map, one function for each row of R82 -/

def decode0 (cls : Eng) (lo : Nat) (w : Word) : Dec Instr := do
  match lo with
  | 0x0 => decNone .nop w
  | 0x1 => do
    inClass cls cAll; noTy w; noMod w
    need .badField (fD w == 0 && fJoin w == 0); noLa w
    pure (.bra (fTgt w))
  | 0x2 => do
    inClass cls cAll
    match brKindOf (fTy w) with
    | none => .error .badType
    | some kd =>
      noMod w
      need .badField (if kd == .nz || kd == .z then isS (fD w) else isM (fD w)); noLa w
      pure (.brc kd (fD w) (fTgt w) (fJoin w))
  | 0x3 => do
    inClass cls cTeam
    need .badType (fTy w == 5)
    noMod w
    need .badField (isM (fD w) && fJoin w != 0); noLa w
    pure (.brv (fD w) (fTgt w) (fJoin w))
  | 0x4 => do
    inClass cls cAll; noTy w; noMod w
    need .badField (fD w == 0 && fJoin w == 0); noLa w
    pure (.call (fTgt w))
  | 0x5 => do inClass cls cAll; decNone .ret w
  | 0x6 => do inClass cls cAll; decNone .exit w
  | 0x7 => do inClass cls cAll; decNone .yield w
  | 0x8 => do
    inClass cls cAll
    need .badType (fTy w == 1)
    noMod w
    need .badField (decide (fD w < 63)); noLa w
    pure (.loop (fD w) (fTgt w) (fJoin w))
  | 0x9 => do inClass cls cAll; decA isS .brx w
  | 0xA => do
    inClass cls cAll; noTy w; noMod w
    need .badField (fD w == 0 && fA w == 0 && !w.getLsbD 25); noLa w
    pure (.trap (w.extractLsb' 0 25))
  | 0xB => do
    inClass cls []; noTy w
    need .badModifier (fTop w == 0 && fOrd w == 0)
    need .badField (fD w == 0 && fA w == 0 && fB w == 0 && cx0 w); noLa w
    pure (if fLow w then .tretSkip else .tretRetry)
  | 0xC => do
    inClass cls cAll; noTy w; noMod w
    need .badField (fD w == 0 && fA w == 0 && !w.getLsbD 25); noLa w
    pure (.bkpt (w.extractLsb' 0 25))
  | 0xD => do inClass cls []; decNone .halt w
  | _ => .error .reservedOpcode

def decode1 (cls : Eng) (lo : Nat) (w : Word) : Dec Instr := do
  inClass cls cAll
  match lo with
  | 0x0 => decSS .smov w
  | 0x1 => decSImm .smovi w
  | 0x2 => decSImm .smovh w
  | 0x3 => decSSat .sadd w
  | 0x4 => decSSat .ssub w
  | 0x5 => decSSat .smul w
  | 0x6 => decSU .smulh w
  | 0x7 => decSSS .sand w
  | 0x8 => decSSS .sor w
  | 0x9 => decSSS .sxor w
  | 0xA => decSSS .sshl w
  | 0xB => decSSS .sshr w
  | 0xC => decSSS .ssar w
  | 0xD => decSU .smin w
  | 0xE => decSU .smax w
  | 0xF => do
    let i64 ← needU w
    need .badModifier (fSel w == 0 && decide ((fTop w).toNat < 6))
    need .badField (isS (fD w) && isS (fA w) && isS (fB w) && cx0 w); noLa w
    pure (.scmp i64 (condOf (fTop w)) (fD w) (fA w) (fB w))
  | _ => .error .reservedOpcode

def decode2 (cls : Eng) (lo : Nat) (w : Word) : Dec Instr := do
  match lo with
  | 0x0 => do inClass cls cAll; decSSSS .ssel w
  | 0x1 => do
    inClass cls cAll
    let i64 ← needU w
    need .badModifier (fRnd w == 0 && fSel w == 0 && (!fSat w || i64))
    need .badField (isS (fD w) && isS (fA w)); noLa w
    pure (.saddi i64 (fSat w) (fD w) (fA w) (fImm26 w))
  | 0x2 => do inClass cls cAll; decMS [.b32, .i32, .i16, .n16, .i64] [.rlx, .acq] true .sld w
  | 0x3 => do inClass cls cAll; decMS [.b32, .i16, .i64] [.rlx, .rel] false (fun _ => .sst) w
  | 0x4 => do inClass cls cAll; decSS .sclz w
  | 0x5 => do inClass cls cAll; decSS .spopc w
  | 0x6 => do inClass cls cAll; decSSSS .sbfe w
  | 0x7 => do inClass cls cTeam; decABC isS isV isS .slane w
  | _ => .error .reservedOpcode

def decode3 (cls : Eng) (lo : Nat) (w : Word) : Dec Instr := do
  match lo with
  | 0x0 => do inClass cls cTeam; decABC isM isS isS .mset w
  | 0x1 => do
    inClass cls cTeam; noTy w
    need .badModifier (fTop w == 0)
    match mopOf (fSel w) with
    | none => .error .badModifier
    | some op =>
      need .badField (isM (fD w) && isM (fA w) && isM (fB w) && cx0 w); noLa w
      pure (.mlog op (fD w) (fA w) (fB w))
  | 0x2 => do inClass cls cTeam; decDA isM isM .mnot w
  | 0x3 => do
    inClass cls cTeam
    decCmp [.b32, .i32, .n32, .i16, .n16]
      (fun t c => c != .un && c != .ord && (t != .b32 || c == .eq || c == .ne)) .mcmp w
  | 0x4 => do inClass cls cTeam; decCmp floatTys (fun _ _ => true) .mfcmp w
  | 0x5 => do inClass cls cTeam; decDA isV isM .msave w
  | 0x6 => do inClass cls cTeam; decDA isM isV .mrest w
  | 0x7 => do inClass cls cTeam; decDA isS isM .mpopc w
  | 0x8 => do inClass cls cTeam; decDA isM isM .melect w
  | 0x9 => do inClass cls cTeam; decABC isS isM isS .mtest w
  | 0xA => do inClass cls cTeam; decA isM .exmw w
  | 0xB => do inClass cls cTeam; decD isM .exmr w
  | _ => .error .reservedOpcode

def decode4 (cls : Eng) (lo : Nat) (w : Word) : Dec Instr := do
  inClass cls cTeam
  match lo with
  | 0x0 => decDA isV isV .vmov w
  | 0x1 => do
    noTy w; noMod w
    need .badField (isV (fD w) && w.extractLsb' 32 2 == 0); noLa w
    pure (.vmovi (fD w) (fImm32 w))
  | 0x2 => decVSat .vadd w
  | 0x3 => decVSat .vsub w
  | 0x4 => decVSat .vmul w
  | 0x5 => decVT [.i32, .n32, .i16, .n16] .vmulh w
  | 0x6 => do
    let t ← needTy w [.i32, .n32, .i16, .n16]
    need .badModifier (fRnd w == 0 && fSel w == 0)
    need .badField (isV (fD w) && isV (fA w) && isV (fB w) && isV (fC w) && fX w == 0); noLa w
    pure (.vmad t (fSat w) (fD w) (fA w) (fB w) (fC w))
  | 0x7 => decABC isV isV isV .vand w
  | 0x8 => decABC isV isV isV .vor w
  | 0x9 => decABC isV isV isV .vxor w
  | 0xA => decDA isV isV .vnot w
  | 0xB => decABC isV isV isV .vshl w
  | 0xC => decABC isV isV isV .vshr w
  | 0xD => decABC isV isV isV .vsar w
  | 0xE => decVT [.i32, .n32, .i16, .n16] .vmin w
  | 0xF => decVT [.i32, .n32, .i16, .n16] .vmax w
  | _ => .error .reservedOpcode

def decode5 (cls : Eng) (lo : Nat) (w : Word) : Dec Instr := do
  need .reservedOpcode (decide (lo ≤ 0xA))
  inClass cls cTeam
  match lo with
  | 0x0 => decVSat2 .vabs w
  | 0x1 => decVSat2 .vneg w
  | 0x2 => decV4 isM .vsel w
  | 0x3 => decDA isV isV .vclz w
  | 0x4 => decDA isV isV .vpopc w
  | 0x5 => decV4 isV .vbfe w
  | 0x6 => decV4 isV .vbfi w
  | 0x7 => decVT2 [.i16, .n16] .vsat w
  | 0x8 => do
    let t ← needTy w [.i32, .n32, .i16, .n16]
    need .badModifier (fRnd w == 0 && fSel w == 0)
    need .badField (isV (fD w) && isV (fA w)); noLa w
    pure (.vaddi t (fSat w) (fD w) (fA w) (fImm26 w))
  | 0x9 => decDA isV isS .vlane w
  | 0xA => decDA isV isS .vfroms w
  | _ => .error .reservedOpcode

def decode6 (cls : Eng) (lo : Nat) (w : Word) : Dec Instr := do
  need .reservedOpcode (decide (lo ≤ 0xE))
  inClass cls cTeam
  match lo with
  | 0x0 => decVF .vfadd w
  | 0x1 => decVF .vfsub w
  | 0x2 => decVF .vfmul w
  | 0x3 => do
    let t ← needTy w floatTys
    need .badModifier (!fSat w && fSel w == 0)
    need .badField (isV (fD w) && isV (fA w) && isV (fB w) && isV (fC w) && fX w == 0); noLa w
    pure (.vfma t (rndOf (fRnd w)) (fD w) (fA w) (fB w) (fC w))
  | 0x4 => decVT floatTys .vfmin w
  | 0x5 => decVT floatTys .vfmax w
  | 0x6 => decVFn .vfrcp w
  | 0x7 => decVFn .vfrsq w
  | 0x8 => decVFn .vfexp2 w
  | 0x9 => decVFn .vflog2 w
  | 0xA => decVT2 floatTys .vfabs w
  | 0xB => decVT2 floatTys .vfneg w
  | 0xC => do
    let dt ← needTy w cvtTys
    match tyOf ((fX w).extractLsb' 0 4) with
    | none => .error .badType
    | some st =>
      need .badType (cvtTys.contains st)
      need .badModifier (fSel w == 0 && cvtModOk dt st (fSat w) (rndOf (fRnd w)))
      need .badField (isV (fD w) && isV (fA w) && fB w == 0 && fC w == 0 && (fX w).extractLsb' 4 6 == 0); noLa w
      pure (.vcvt dt st (fSat w) (rndOf (fRnd w)) (fD w) (fA w))
  | 0xD => do
    let t ← needTy w packTys
    need .badModifier (fSel w == 0 && cvtModOk t (packSrc t) (fSat w) (rndOf (fRnd w)))
    need .badField (isV (fD w) && isV (fA w) && isV (fB w) && cx0 w); noLa w
    pure (.vpack t (fSat w) (rndOf (fRnd w)) (fD w) (fA w) (fB w))
  | 0xE => do
    let t ← needTy w packTys
    need .badModifier (fTop w == 0 && fOrd w == 0)
    need .badField (isV (fD w) && isV (fA w) && fB w == 0 && cx0 w); noLa w
    pure (.vunpk t (fLow w) (fD w) (fA w))
  | _ => .error .reservedOpcode

def decode7 (cls : Eng) (lo : Nat) (w : Word) : Dec Instr := do
  need .reservedOpcode (decide (lo < 4 || 8 ≤ lo))
  inClass cls cTeam
  match lo with
  | 0x0 => do
    noTy w
    need .badModifier (fTop w == 0)
    match shufOf (fSel w) with
    | none => .error .badModifier
    | some m =>
      need .badField (isV (fD w) && isV (fA w) && isV (fB w) && cx0 w); noLa w
      pure (.vshuf m (fD w) (fA w) (fB w))
  | 0x1 => decABC isV isV isS .vbcast w
  | 0x2 => decRed isS 0 .vred w
  | 0x3 => decRed isV 1 (fun la t sat r op d a => .vscan la t sat r op ((fX w).getLsbD 0) d a) w
  | 0x8 => do
    let t ← needTy w loadTys
    let (sc, o) ← needMem w [.rlx, .acq]
    need .badModifier (scOk w t)
    need .badField (isV (fD w) && isS (fA w) && idxOk w)
    pure (.vld (fLa w) t sc o (fLow w) (fD w) (fA w) (fIdx w) (fOfs17 w))
  | 0x9 => do
    let t ← needTy w storeTys
    let (sc, o) ← needMem w [.rlx, .rel]
    need .badModifier (scOk w t)
    need .badField (isV (fD w) && isS (fA w) && idxOk w); noLa w
    pure (.vst t sc o (fLow w) (fD w) (fA w) (fIdx w) (fOfs17 w))
  | 0xA => decMX loadTys [.rlx, .acq] true .vldx w
  | 0xB => decMX storeTys [.rlx, .rel] false (fun _ => .vstx) w
  | 0xC => do
    let t ← needTy w loadTys
    need .badModifier (fTop w == 0 && fOrd w == 0 && scOk w t)
    need .badField (isV (fD w) && isS (fA w) && idxOk w)
    pure (.vlds (fLa w) t (fLow w) (fD w) (fA w) (fIdx w) (fOfs17 w))
  | 0xD => do
    let t ← needTy w storeTys
    need .badModifier (fTop w == 0 && fOrd w == 0 && scOk w t)
    need .badField (isV (fD w) && isS (fA w) && idxOk w); noLa w
    pure (.vsts t (fLow w) (fD w) (fA w) (fIdx w) (fOfs17 w))
  | 0xE => do
    noTy w
    need .badModifier (fTop w == 0 && fOrd w == 0 && scOk w .b32)
    need .badField (fD w == 0 && isS (fA w) && idxOk w); noLa w
    pure (.vpref (fLow w) (fA w) (fIdx w) (fOfs17 w))
  | 0xF => do
    noTy w; noMod w
    need .badField (fD w == 0 && isS (fA w) && isS (fB w)); noLa w
    pure (.spwait (fA w) (fB w) (fOfs18 w))
  | _ => .error .reservedOpcode

def decode8 (cls : Eng) (lo : Nat) (w : Word) : Dec Instr := do
  need .reservedOpcode (decide (lo ≤ 4))
  inClass cls cTeam
  match lo with
  | 0x0 => do
    let t ← needTy w [.b32, .i32, .n32, .f32]
    match aopOf (fAop w).toNat with
    | none => .error .badModifier
    | some op =>
      need .badType (aopTyOk op t)
      let (sc, o) ← needMem w [.rlx, .acq, .rel, .ar]
      need .badField (isV (fD w) && abaseOk w && isV (fB w))
      need .badPair (abaseEven w)
      pure (.atom (fLa w) t sc o (abaseOf w) op (fD w) (fA w) (fB w) (fOfs14 w))
  | 0x1 => do
    noTy w
    let (sc, o) ← needMem w [.rlx, .acq, .rel, .ar]
    need .badModifier (fAop w == 0)
    need .badField (isV (fD w) && abaseOk w && isV (fB w))
    need .badPair (abaseEven w)
    pure (.atomc (fLa w) sc o (abaseOf w) (fD w) (fA w) (fB w) (fOfs14 w))
  | 0x2 => do
    let t ← needTy w [.b32, .i32, .n32, .f32]
    match aopOf (fAop w).toNat with
    | none => .error .badModifier
    | some op =>
      need .badType (aopTyOk op t)
      let (sc, o) ← needMem w [.rlx, .rel]
      need .badModifier (op != .exch)
      need .badField (fD w == 0 && abaseOk w && isV (fB w)); noLa w
      need .badPair (abaseEven w)
      pure (.red t sc o (abaseOf w) op (fA w) (fB w) (fOfs14 w))
  | 0x3 => do
    let i64 ← needU w
    match aopOf (fAop w).toNat with
    | none => .error .badModifier
    | some op =>
      need .badType (!i64 || op == .add || op == .min || op == .max)
      let (sc, o) ← needMem w [.rlx, .acq, .rel, .ar]
      need .badModifier (!fLow w)
      need .badField (isS (fD w) && isS (fA w) && isS (fB w))
      pure (.satom (fLa w) i64 sc o op (fD w) (fA w) (fB w) (fOfs14 w))
  | 0x4 => do
    noTy w
    need .badModifier (fTop w == 0 && decide ((fSel w).toNat < 3))
    need .badField (isS (fD w) && isS (fA w) && isS (fB w)); noLa w
    pure (match (fSel w).toNat with
      | 0 => .stashMap (fD w) (fA w) (fB w) (fOfs18 w)
      | 1 => .stashFlush (fD w) (fA w) (fB w) (fOfs18 w)
      | _ => .stashUnmap (fD w) (fA w) (fB w) (fOfs18 w))
  | _ => .error .reservedOpcode

def decode9 (cls : Eng) (lo : Nat) (w : Word) : Dec Instr := do
  match lo with
  | 0x0 => do
    inClass cls cAll; noTy w
    let (sc, o) ← needMem w [.acq, .rel, .ar]
    need .badModifier (!fLow w)
    need .badField (fD w == 0 && fA w == 0 && fB w == 0 && cx0 w); noLa w
    pure (.fence sc o)
  | 0x1 => do
    inClass cls cTC; noTy w
    let (sc, o) ← needMem w [.acq, .rel, .ar]
    need .badModifier (!fLow w)
    need .badField (fD w == 0 && fA w == 0 && fB w == 0 && fC w == 0 && (fX w).extractLsb' 6 4 == 0 &&
      (fX w).extractLsb' 0 6 != 0)
    noLa w
    pure (.fencex sc o ((fX w).extractLsb' 0 6))
  | 0x2 => do inClass cls cAll; decD isBar .bara w
  | 0x3 => do inClass cls cAll; decD isBar .barw w
  | 0x4 => do inClass cls cAll; decD isBar .baraw w
  | 0x5 => do inClass cls cAll; decDA isBar isS .bari w
  | 0x6 => do inClass cls cAll; decWb .rel false isZero (fun sc _ => .wbara sc) w
  | 0x7 => do inClass cls cAll; decWb .acq true isS (fun sc => .wbarw sc (fLow w)) w
  | 0x8 => do inClass cls cAll; decWb .rlx false isS .wbari w
  | 0x9 => do inClass cls cTeam; decNone .ckpt w
  | _ => .error .reservedOpcode

def decodeA (cls : Eng) (lo : Nat) (w : Word) : Dec Instr := do
  need .reservedOpcode (decide (lo < 4 || (8 ≤ lo && lo ≤ 0xD)))
  inClass cls cTeam
  match lo with
  | 0x0 => do
    noTy w
    need .badModifier (fTop w == 0 && fOrd w == 0 && scOk w .b32)
    need .badField (fD w == 0 && isS (fA w) && idxOk w); noLa w
    pure (.clm (fLow w) (fA w) (fIdx w) (fOfs17 w))
  | 0x1 => decNone .clmseal w
  | 0x2 => decNone .clmdone w
  | 0x3 => do
    noTy w; noMod w
    need .badField (isS (fD w) && fA w == 0 && fB w == 0 && cx0 w)
    pure (.clmq (fLa w) (fD w))
  | 0x8 => decDA isS isV .lget w
  | 0x9 => do
    noTy w; noMod w
    need .badField (isS (fD w) && isS (fA w) && isS (fB w)); noLa w
    pure (.lraise (fD w) (fA w) (fB w) (fOfs18 w))
  | 0xA => do
    noTy w; noMod w
    need .badField (isV (fD w) && isV (fA w) && w.extractLsb' 24 2 == 0); noLa w
    pure (.decl (fD w) (fA w) (w.extractLsb' 0 16) (w.extractLsb' 16 8))
  | 0xB => do
    noTy w; noMod w
    need .badField (fD w == 0 && fA w == 0 && w.extractLsb' 16 10 != 0); noLa w
    pure (.endorse (w.extractLsb' 0 16) (w.extractLsb' 16 10))
  | 0xC => decABC isS isV isS .lchk w
  | 0xD => do
    noTy w; noMod w
    let n := (w.extractLsb' 0 9).toNat
    need .badField (isV (fD w) && isS (fA w) && fB w == 0 && fC w == 0 && !w.getLsbD 9 &&
      decide (fD w + n ≤ 256) && (n != 0 || fD w == 0))
    noLa w
    pure (.lspan (fD w) n (fA w))
  | _ => .error .reservedOpcode

def decodeB (cls : Eng) (lo : Nat) (w : Word) : Dec Instr := do
  match lo with
  | 0x0 => do
    inClass cls cTeam; noTy w; noMod w
    let n := (w.extractLsb' 0 9).toNat
    let base := (w.extractLsb' 9 8).toNat
    need .badField (fD w == 0 && fA w == 0 && w.extractLsb' 17 9 == 0); noLa w
    need .badScope (decide (1 ≤ n) && decide (base + n ≤ 256))
    pure (.scopeo n base)
  | 0x1 => do inClass cls cTeam; decNone .scopec w
  | 0x2 => do
    inClass cls cTeam; noTy w; noMod w
    let n := (w.extractLsb' 0 14).toNat
    need .badField (fD w == 0 && fA w == 0 && w.extractLsb' 14 12 == 0 && decide (1 ≤ n) && decide (n ≤ 8192)); noLa w
    pure (.rgrow n)
  | 0x3 => do
    inClass cls cTeam; noTy w; noMod w
    let n := (w.extractLsb' 0 14).toNat
    need .badField (fD w == 0 && fA w == 0 && w.extractLsb' 14 12 == 0 && decide (1 ≤ n) && decide (n ≤ 8192)); noLa w
    pure (.rshrink n)
  | 0x8 => do
    inClass cls cTeam; noTy w; noMod w
    need .badField (fD w == 0 && isS (fA w) && isS (fB w) && isS (fC w) && fX w == 0); noLa w
    pure (.fork (fA w) (fB w) (fC w))
  | 0x9 => do inClass cls cAll; decNone .rdv w
  | 0xA => do inClass cls cTC; decE 0 .tcopy w
  | 0xB => do inClass cls cTC; decE 1 (.xfer (w.getLsbD 0)) w
  | 0xC => do
    inClass cls [.matrix]
    let t ← needTy w [.mk8, .sm8, .sm4, .bf16, .f16]
    need .badModifier (fTop w == 0 && fOrd w == 0 && (!fLow w || t == .sm8 || t == .sm4))
    need .badField (isS (fD w) && decide (fA w ≤ 60) && isS (fB w) && decide ((fOfs18 w).toNat < 8)); noLa w
    pure (.mma t (fLow w) (fOfs18 w).toNat (fD w) (fA w) (fB w))
  | 0xD => do inClass cls [.matrix]; decD isTile .mzero w
  | 0xE => do
    inClass cls cTeam
    let t ← needTy w floatTys
    need .badModifier (!fSat w && fSel w == 0)
    need .badField (isV (fD w) && isTile (fA w) && isS (fB w) && cx0 w)
    pure (.mdrain (fLa w) t (rndOf (fRnd w)) (fD w) (fA w) (fB w))
  | 0xF => do
    inClass cls cTeam
    let t ← needTy w floatTys
    noMod w
    need .badField (isTile (fD w) && isV (fA w) && isS (fB w) && cx0 w); noLa w
    pure (.mfill t (fD w) (fA w) (fB w))
  | _ => .error .reservedOpcode

def decodeC (cls : Eng) (lo : Nat) (w : Word) : Dec Instr := do
  match lo with
  | 0x0 => do inClass cls cAll; decSS .shape w
  | 0x1 => do inClass cls cTeam; decA isS .cast w
  | 0x2 => do
    inClass cls cTC; noTy w; noMod w
    need .badField (fD w == 0 && isS (fA w) && isS (fB w)); noLa w
    pure (.qput (fA w) (fB w) (fOfs18 w))
  | 0x3 => do
    inClass cls [.team, .matrix]
    if cls == .matrix then decDA isTile isS .mrsclUniform w else decDA isTile isV .mrsclVector w
  | _ => .error .reservedOpcode

def decodeD (cls : Eng) (lo : Nat) (w : Word) : Dec Instr := do
  match lo with
  | 0x0 => do
    inClass cls cTeam; noTy w; noMod w
    need .badField (isS (fD w) && fA w == 0 && fB w == 0 && fC w == 0 && sysKnown (fX w).toNat); noLa w
    pure (.sysr (fD w) (fX w).toNat)
  | 0x1 => do
    inClass cls []; noTy w; noMod w
    need .badField (fD w == 0 && isS (fA w) && fB w == 0 && fC w == 0 && sysKnown (fX w).toNat &&
      !sysReadOnly (fX w).toNat)
    noLa w
    pure (.sysw (fX w).toNat (fA w))
  | 0x2 => do inClass cls cTeam; decA isS .pkeyw w
  | 0x3 => do
    inClass cls []; noTy w
    need .badModifier (fTop w == 0 && decide ((fSel w).toNat < 3))
    need .badField (fD w == 0 && isS (fA w) && fB w == 0 && cx0 w); noLa w
    pure (match (fSel w).toNat with
      | 0 => .tlbinvPage (fA w)
      | 1 => .tlbinvCtx (fA w)
      | _ => .tlbinvAll (fA w))
  | 0x4 => do inClass cls []; decAB .frinv w
  | 0x5 => do
    inClass cls cTeam; noTy w
    need .badModifier (fTop w == 0)
    let f := faultFieldOf (fSel w)
    need .badField ((match f with | .addr => isV (fD w) | .mask => isM (fD w) | _ => isS (fD w)) &&
      fA w == 0 && fB w == 0 && cx0 w)
    noLa w
    need .badPair (f != .addr || isEven (fD w))
    pure (.faultr f (fD w))
  | 0x6 => do inClass cls []; decA isS .pgmap w
  | _ => .error .reservedOpcode

/-- The instruction of a word in a clause of a class, or the cause of its illegal-instruction fault (R84). -/
def decode (cls : Eng) (w : Word) : Dec Instr :=
  match fOp w / 16 with
  | 0x0 => decode0 cls (fOp w % 16) w
  | 0x1 => decode1 cls (fOp w % 16) w
  | 0x2 => decode2 cls (fOp w % 16) w
  | 0x3 => decode3 cls (fOp w % 16) w
  | 0x4 => decode4 cls (fOp w % 16) w
  | 0x5 => decode5 cls (fOp w % 16) w
  | 0x6 => decode6 cls (fOp w % 16) w
  | 0x7 => decode7 cls (fOp w % 16) w
  | 0x8 => decode8 cls (fOp w % 16) w
  | 0x9 => decode9 cls (fOp w % 16) w
  | 0xA => decodeA cls (fOp w % 16) w
  | 0xB => decodeB cls (fOp w % 16) w
  | 0xC => decodeC cls (fOp w % 16) w
  | 0xD => decodeD cls (fOp w % 16) w
  | 0xF => .error .headerKey
  | _ => .error .reservedOpcode

/-! ### Bytes -/

/-- The little-endian number of a list of bytes (R9). -/
def leNat : List Byte → Nat
  | [] => 0
  | b :: bs => b.toNat + 256 * leNat bs

/-- The n bytes of a number, lowest first (R9). -/
def leBytes : Nat → Nat → List Byte
  | 0, _ => []
  | n + 1, v => BitVec.ofNat 8 v :: leBytes n (v / 256)

/-- The word of eight bytes. -/
def leWord (bs : List Byte) : Word := BitVec.ofNat 64 (leNat bs)

/-- Decoding from bytes as they stand in memory: the instruction and the rest, or the cause. Fewer than eight bytes
hold no instruction word (R69). -/
def decodeBytes (cls : Eng) (bs : List Byte) : Option (Dec (Instr × List Byte)) :=
  if bs.length < 8 then none
  else some ((decode cls (leWord (bs.take 8))).map (fun i => (i, bs.drop 8)))

/-- The instruction that the decoder reads from a word whose first nbits are w, in a supervisor clause, which admits
every opcode (R83). -/
def decodeTableWord (nbits w : Nat) : Option Instr :=
  match decodeBytes .supervisor (leBytes 8 (w % 2 ^ nbits)) with
  | some (.ok (i, _)) => some i
  | _ => none

/-! ### The encoder -/

def bit (b : Bool) : BitVec 1 := if b then 1 else 0
def r8 (n : Nat) : BitVec 8 := BitVec.ofNat 8 n

/-- Format R (R77). -/
def encR (op la : Nat) (ty : BitVec 4) (md : BitVec 6) (d a b c : Nat) (x : BitVec 10) : Word :=
  r8 op ++ BitVec.ofNat 4 la ++ ty ++ md ++ r8 d ++ r8 a ++ r8 b ++ r8 c ++ x
def encI (op : Nat) (ty : BitVec 4) (md : BitVec 6) (d a : Nat) (imm : BitVec 26) : Word :=
  r8 op ++ (0 : BitVec 4) ++ ty ++ md ++ r8 d ++ r8 a ++ imm
def encL (op d : Nat) (imm : BitVec 32) : Word :=
  r8 op ++ (0 : BitVec 4) ++ (0 : BitVec 4) ++ (0 : BitVec 6) ++ r8 d ++ (0 : BitVec 2) ++ imm
def encM (op la : Nat) (ty : BitVec 4) (md : BitVec 6) (d a b : Nat) (ofs : BitVec 18) : Word :=
  r8 op ++ BitVec.ofNat 4 la ++ ty ++ md ++ r8 d ++ r8 a ++ r8 b ++ ofs
def encJ (op : Nat) (ty : BitVec 4) (a : Nat) (tgt join : BitVec 17) : Word :=
  r8 op ++ (0 : BitVec 4) ++ ty ++ (0 : BitVec 6) ++ r8 a ++ tgt ++ join
/-- Format E: SH, CO and CT stand where format M has D, A and B, X18 where it has OFS18. -/
def encE (op : Nat) (ty : BitVec 4) (md : BitVec 6) (sh co ct : Nat) (x : BitVec 18) : Word :=
  encM op 0 ty md sh co ct x

def mArith (sat : Bool) (r : Rnd) (sel : BitVec 3) : BitVec 6 := bit sat ++ rndCode r ++ sel
def mCmp (c : Cond) : BitVec 6 := condCode c ++ (0 : BitVec 3)
def mMem (s : Scope) (o : Ord4) (sc : Bool) : BitVec 6 := scopeCode s ++ ordCode o ++ bit sc
def mSel (sel : BitVec 3) : BitVec 6 := (0 : BitVec 3) ++ sel
def uTy (i64 : Bool) : BitVec 4 := if i64 then 5 else 0
/-- OFS18 of a per-lane address: NX over the 17-bit offset (R146). -/
def nxOfs (idx : Option Nat) (ofs : BitVec 17) : BitVec 18 := bit idx.isNone ++ ofs
def aopSel (op : AOp) : BitVec 3 := BitVec.ofNat 3 (aopCode op).toNat
def aOfs (op : AOp) (ofs : BitVec 14) : BitVec 18 := aopCode op ++ ofs
def pbBit (p : ABase) : Bool := p == .pair

/-- The one word of an instruction; none for an event. -/
def encode : Instr → Option Word
  | .nop => some 0
  | .bra t => some (encJ 0x01 0 0 t 0)
  | .brc k a t j => some (encJ 0x02 (brKindCode k) a t j)
  | .brv m t j => some (encJ 0x03 5 m t j)
  | .call t => some (encJ 0x04 0 0 t 0)
  | .ret => some (encR 0x05 0 0 0 0 0 0 0 0)
  | .exit => some (encR 0x06 0 0 0 0 0 0 0 0)
  | .yield => some (encR 0x07 0 0 0 0 0 0 0 0)
  | .loop a t j => some (encJ 0x08 1 a t j)
  | .brx a => some (encR 0x09 0 0 0 0 a 0 0 0)
  | .trap n => some (encI 0x0A 0 0 0 0 ((0 : BitVec 1) ++ n))
  | .tretRetry => some (encR 0x0B 0 0 0 0 0 0 0 0)
  | .tretSkip => some (encR 0x0B 0 0 1 0 0 0 0 0)
  | .bkpt n => some (encI 0x0C 0 0 0 0 ((0 : BitVec 1) ++ n))
  | .halt => some (encR 0x0D 0 0 0 0 0 0 0 0)
  | .smov d a => some (encR 0x10 0 0 0 d a 0 0 0)
  | .smovi d i => some (encL 0x11 d i)
  | .smovh d i => some (encL 0x12 d i)
  | .sadd u s d a b => some (encR 0x13 0 (uTy u) (mArith s .rn 0) d a b 0 0)
  | .ssub u s d a b => some (encR 0x14 0 (uTy u) (mArith s .rn 0) d a b 0 0)
  | .smul u s d a b => some (encR 0x15 0 (uTy u) (mArith s .rn 0) d a b 0 0)
  | .smulh u d a b => some (encR 0x16 0 (uTy u) 0 d a b 0 0)
  | .sand d a b => some (encR 0x17 0 0 0 d a b 0 0)
  | .sor d a b => some (encR 0x18 0 0 0 d a b 0 0)
  | .sxor d a b => some (encR 0x19 0 0 0 d a b 0 0)
  | .sshl d a b => some (encR 0x1A 0 0 0 d a b 0 0)
  | .sshr d a b => some (encR 0x1B 0 0 0 d a b 0 0)
  | .ssar d a b => some (encR 0x1C 0 0 0 d a b 0 0)
  | .smin u d a b => some (encR 0x1D 0 (uTy u) 0 d a b 0 0)
  | .smax u d a b => some (encR 0x1E 0 (uTy u) 0 d a b 0 0)
  | .scmp u c d a b => some (encR 0x1F 0 (uTy u) (mCmp c) d a b 0 0)
  | .ssel d a b c => some (encR 0x20 0 0 0 d a b c 0)
  | .saddi u s d a i => some (encI 0x21 (uTy u) (mArith s .rn 0) d a i)
  | .sld la t sc o d a b ofs => some (encM 0x22 la (tyCode t) (mMem sc o false) d a b ofs)
  | .sst t sc o d a b ofs => some (encM 0x23 0 (tyCode t) (mMem sc o false) d a b ofs)
  | .sclz d a => some (encR 0x24 0 0 0 d a 0 0 0)
  | .spopc d a => some (encR 0x25 0 0 0 d a 0 0 0)
  | .sbfe d a b c => some (encR 0x26 0 0 0 d a b c 0)
  | .slane d a b => some (encR 0x27 0 0 0 d a b 0 0)
  | .mset d a b => some (encR 0x30 0 0 0 d a b 0 0)
  | .mlog op d a b => some (encR 0x31 0 0 (mSel (mopCode op)) d a b 0 0)
  | .mnot d a => some (encR 0x32 0 0 0 d a 0 0 0)
  | .mcmp t c d a b => some (encR 0x33 0 (tyCode t) (mCmp c) d a b 0 0)
  | .mfcmp t c d a b => some (encR 0x34 0 (tyCode t) (mCmp c) d a b 0 0)
  | .msave d a => some (encR 0x35 0 0 0 d a 0 0 0)
  | .mrest d a => some (encR 0x36 0 0 0 d a 0 0 0)
  | .mpopc d a => some (encR 0x37 0 0 0 d a 0 0 0)
  | .melect d a => some (encR 0x38 0 0 0 d a 0 0 0)
  | .mtest d a b => some (encR 0x39 0 0 0 d a b 0 0)
  | .exmw a => some (encR 0x3A 0 0 0 0 a 0 0 0)
  | .exmr d => some (encR 0x3B 0 0 0 d 0 0 0 0)
  | .vmov d a => some (encR 0x40 0 0 0 d a 0 0 0)
  | .vmovi d i => some (encL 0x41 d i)
  | .vadd t s d a b => some (encR 0x42 0 (tyCode t) (mArith s .rn 0) d a b 0 0)
  | .vsub t s d a b => some (encR 0x43 0 (tyCode t) (mArith s .rn 0) d a b 0 0)
  | .vmul t s d a b => some (encR 0x44 0 (tyCode t) (mArith s .rn 0) d a b 0 0)
  | .vmulh t d a b => some (encR 0x45 0 (tyCode t) 0 d a b 0 0)
  | .vmad t s d a b c => some (encR 0x46 0 (tyCode t) (mArith s .rn 0) d a b c 0)
  | .vand d a b => some (encR 0x47 0 0 0 d a b 0 0)
  | .vor d a b => some (encR 0x48 0 0 0 d a b 0 0)
  | .vxor d a b => some (encR 0x49 0 0 0 d a b 0 0)
  | .vnot d a => some (encR 0x4A 0 0 0 d a 0 0 0)
  | .vshl d a b => some (encR 0x4B 0 0 0 d a b 0 0)
  | .vshr d a b => some (encR 0x4C 0 0 0 d a b 0 0)
  | .vsar d a b => some (encR 0x4D 0 0 0 d a b 0 0)
  | .vmin t d a b => some (encR 0x4E 0 (tyCode t) 0 d a b 0 0)
  | .vmax t d a b => some (encR 0x4F 0 (tyCode t) 0 d a b 0 0)
  | .vabs t s d a => some (encR 0x50 0 (tyCode t) (mArith s .rn 0) d a 0 0 0)
  | .vneg t s d a => some (encR 0x51 0 (tyCode t) (mArith s .rn 0) d a 0 0 0)
  | .vsel d a b c => some (encR 0x52 0 0 0 d a b c 0)
  | .vclz d a => some (encR 0x53 0 0 0 d a 0 0 0)
  | .vpopc d a => some (encR 0x54 0 0 0 d a 0 0 0)
  | .vbfe d a b c => some (encR 0x55 0 0 0 d a b c 0)
  | .vbfi d a b c => some (encR 0x56 0 0 0 d a b c 0)
  | .vsat t d a => some (encR 0x57 0 (tyCode t) 0 d a 0 0 0)
  | .vaddi t s d a i => some (encI 0x58 (tyCode t) (mArith s .rn 0) d a i)
  | .vlane d a => some (encR 0x59 0 0 0 d a 0 0 0)
  | .vfroms d a => some (encR 0x5A 0 0 0 d a 0 0 0)
  | .vfadd t r d a b => some (encR 0x60 0 (tyCode t) (mArith false r 0) d a b 0 0)
  | .vfsub t r d a b => some (encR 0x61 0 (tyCode t) (mArith false r 0) d a b 0 0)
  | .vfmul t r d a b => some (encR 0x62 0 (tyCode t) (mArith false r 0) d a b 0 0)
  | .vfma t r d a b c => some (encR 0x63 0 (tyCode t) (mArith false r 0) d a b c 0)
  | .vfmin t d a b => some (encR 0x64 0 (tyCode t) 0 d a b 0 0)
  | .vfmax t d a b => some (encR 0x65 0 (tyCode t) 0 d a b 0 0)
  | .vfrcp la r d a => some (encR 0x66 la 6 (mArith false r 0) d a 0 0 0)
  | .vfrsq la r d a => some (encR 0x67 la 6 (mArith false r 0) d a 0 0 0)
  | .vfexp2 la r d a => some (encR 0x68 la 6 (mArith false r 0) d a 0 0 0)
  | .vflog2 la r d a => some (encR 0x69 la 6 (mArith false r 0) d a 0 0 0)
  | .vfabs t d a => some (encR 0x6A 0 (tyCode t) 0 d a 0 0 0)
  | .vfneg t d a => some (encR 0x6B 0 (tyCode t) 0 d a 0 0 0)
  | .vcvt dt st s r d a => some (encR 0x6C 0 (tyCode dt) (mArith s r 0) d a 0 0 ((0 : BitVec 6) ++ tyCode st))
  | .vpack t s r d a b => some (encR 0x6D 0 (tyCode t) (mArith s r 0) d a b 0 0)
  | .vunpk t h d a => some (encR 0x6E 0 (tyCode t) ((0 : BitVec 5) ++ bit h) d a 0 0 0)
  | .vshuf m d a b => some (encR 0x70 0 0 (mSel (shufCode m)) d a b 0 0)
  | .vbcast d a b => some (encR 0x71 0 0 0 d a b 0 0)
  | .vred la t s r op d a => some (encR 0x72 la (tyCode t) (mArith s r (aopSel op)) d a 0 0 0)
  | .vscan la t s r op e d a =>
    some (encR 0x73 la (tyCode t) (mArith s r (aopSel op)) d a 0 0 ((0 : BitVec 9) ++ bit e))
  | .vld la t sc o s d a i ofs => some (encM 0x78 la (tyCode t) (mMem sc o s) d a (i.getD 0) (nxOfs i ofs))
  | .vst t sc o s d a i ofs => some (encM 0x79 0 (tyCode t) (mMem sc o s) d a (i.getD 0) (nxOfs i ofs))
  | .vldx la t sc o d a ofs => some (encM 0x7A la (tyCode t) (mMem sc o false) d a 0 ofs)
  | .vstx t sc o d a ofs => some (encM 0x7B 0 (tyCode t) (mMem sc o false) d a 0 ofs)
  | .vlds la t s d a i ofs => some (encM 0x7C la (tyCode t) (mMem .core .rlx s) d a (i.getD 0) (nxOfs i ofs))
  | .vsts t s d a i ofs => some (encM 0x7D 0 (tyCode t) (mMem .core .rlx s) d a (i.getD 0) (nxOfs i ofs))
  | .vpref s a i ofs => some (encM 0x7E 0 0 (mMem .core .rlx s) 0 a (i.getD 0) (nxOfs i ofs))
  | .spwait a b ofs => some (encM 0x7F 0 0 0 0 a b ofs)
  | .atom la t sc o pb op d a b ofs => some (encM 0x80 la (tyCode t) (mMem sc o (pbBit pb)) d a b (aOfs op ofs))
  | .atomc la sc o pb d a b ofs => some (encM 0x81 la 0 (mMem sc o (pbBit pb)) d a b (aOfs .add ofs))
  | .red t sc o pb op a b ofs => some (encM 0x82 0 (tyCode t) (mMem sc o (pbBit pb)) 0 a b (aOfs op ofs))
  | .satom la u sc o op d a b ofs => some (encM 0x83 la (uTy u) (mMem sc o false) d a b (aOfs op ofs))
  | .stashMap d a b ofs => some (encM 0x84 0 0 (mSel 0) d a b ofs)
  | .stashFlush d a b ofs => some (encM 0x84 0 0 (mSel 1) d a b ofs)
  | .stashUnmap d a b ofs => some (encM 0x84 0 0 (mSel 2) d a b ofs)
  | .fence sc o => some (encR 0x90 0 0 (mMem sc o false) 0 0 0 0 0)
  | .fencex sc o p => some (encR 0x91 0 0 (mMem sc o false) 0 0 0 0 ((0 : BitVec 4) ++ p))
  | .bara n => some (encR 0x92 0 0 0 n 0 0 0 0)
  | .barw n => some (encR 0x93 0 0 0 n 0 0 0 0)
  | .baraw n => some (encR 0x94 0 0 0 n 0 0 0 0)
  | .bari n a => some (encR 0x95 0 0 0 n a 0 0 0)
  | .wbara sc a b ofs => some (encM 0x96 0 0 (mMem sc .rel false) 0 a b ofs)
  | .wbarw sc p d a b ofs => some (encM 0x97 0 0 (mMem sc .acq p) d a b ofs)
  | .wbari sc d a b ofs => some (encM 0x98 0 0 (mMem sc .rlx false) d a b ofs)
  | .ckpt => some (encR 0x99 0 0 0 0 0 0 0 0)
  | .clm s a i ofs => some (encM 0xA0 0 0 (mMem .core .rlx s) 0 a (i.getD 0) (nxOfs i ofs))
  | .clmseal => some (encR 0xA1 0 0 0 0 0 0 0 0)
  | .clmdone => some (encR 0xA2 0 0 0 0 0 0 0 0)
  | .clmq la d => some (encR 0xA3 la 0 0 d 0 0 0 0)
  | .lget d a => some (encR 0xA8 0 0 0 d a 0 0 0)
  | .lraise d a b ofs => some (encM 0xA9 0 0 0 d a b ofs)
  | .decl d a site tgt => some (encI 0xAA 0 0 d a ((0 : BitVec 2) ++ tgt ++ site))
  | .endorse site n => some (encI 0xAB 0 0 0 0 (n ++ site))
  | .lchk d a b => some (encR 0xAC 0 0 0 d a b 0 0)
  | .lspan d n a => some (encR 0xAD 0 0 0 d a 0 0 (BitVec.ofNat 10 n))
  | .scopeo n base => some (encI 0xB0 0 0 0 0 ((0 : BitVec 9) ++ BitVec.ofNat 8 base ++ BitVec.ofNat 9 n))
  | .scopec => some (encR 0xB1 0 0 0 0 0 0 0 0)
  | .rgrow n => some (encI 0xB2 0 0 0 0 ((0 : BitVec 12) ++ BitVec.ofNat 14 n))
  | .rshrink n => some (encI 0xB3 0 0 0 0 ((0 : BitVec 12) ++ BitVec.ofNat 14 n))
  | .fork a b c => some (encR 0xB8 0 0 0 0 a b c 0)
  | .rdv => some (encR 0xB9 0 0 0 0 0 0 0 0)
  | .tcopy sh co ct => some (encE 0xBA 0 0 sh co ct 0)
  | .xfer red sh co ct => some (encE 0xBB 0 0 sh co ct ((0 : BitVec 17) ++ bit red))
  | .mma t i32 tile sh co ct => some (encE 0xBC (tyCode t) ((0 : BitVec 5) ++ bit i32) sh co ct (BitVec.ofNat 18 tile))
  | .mzero tile => some (encR 0xBD 0 0 0 tile 0 0 0 0)
  | .mdrain la t r d tile b => some (encR 0xBE la (tyCode t) (mArith false r 0) d tile b 0 0)
  | .mfill t tile a b => some (encR 0xBF 0 (tyCode t) 0 tile a b 0 0)
  | .mrsclVector tile a => some (encR 0xC3 0 0 0 tile a 0 0 0)
  | .mrsclUniform tile a => some (encR 0xC3 0 0 0 tile a 0 0 0)
  | .shape d a => some (encR 0xC0 0 0 0 d a 0 0 0)
  | .cast a => some (encR 0xC1 0 0 0 0 a 0 0 0)
  | .qput a b ofs => some (encM 0xC2 0 0 0 0 a b ofs)
  | .sysr d reg => some (encR 0xD0 0 0 0 d 0 0 0 (BitVec.ofNat 10 reg))
  | .sysw reg a => some (encR 0xD1 0 0 0 0 a 0 0 (BitVec.ofNat 10 reg))
  | .pkeyw a => some (encR 0xD2 0 0 0 0 a 0 0 0)
  | .tlbinvPage a => some (encR 0xD3 0 0 (mSel 0) 0 a 0 0 0)
  | .tlbinvCtx a => some (encR 0xD3 0 0 (mSel 1) 0 a 0 0 0)
  | .tlbinvAll a => some (encR 0xD3 0 0 (mSel 2) 0 a 0 0 0)
  | .frinv a b => some (encR 0xD4 0 0 0 0 a b 0 0)
  | .faultr f d => some (encR 0xD5 0 0 (mSel (faultFieldCode f)) d 0 0 0 0)
  | .pgmap a => some (encR 0xD6 0 0 0 0 a 0 0 0)
  | _ => none

/-- A class whose clauses may hold the instruction: MRSCL's uniform form is that of a matrix sequencer clause
(R292), and a supervisor clause holds every other. -/
def homeClass : Instr → Eng
  | .mrsclUniform _ _ => .matrix
  | _ => .supervisor

end Sys2Proof
end

