-- ==== Sys2Proof/Config.lean ====
section
/-! DEFINITION. What an implementation of the Orastyx 920 fixes, and the free values: constants with no body that
stand for what the spec leaves open, so that no proof can see a value of theirs. -/

namespace Sys2Proof.Config

/-- Clusters, cores a cluster, clusters a die, dies, HBM stacks of the module (R1, R3). -/
def clusters : Nat := 128
def coresPerCluster : Nat := 4
def clustersPerDie : Nat := 32
def dies : Nat := 4
/-- L2 slices of a die, and the 128-byte lines of a 512 KiB slice and of a core's 256 KiB L1 (R1). -/
def slicesPerDie : Nat := 256
def sliceLines : Nat := 4096
def l1Lines : Nat := 2048
def hbmStacks : Nat := 16
/-- Supervisor cores: four on each compute die (R3). -/
def supervisorCores : Nat := 16
/-- Register words of a core, register-log words of a crew, crews of a core (R6, R22). -/
def coreWords : Nat := 8192
def logWords : Nat := 512
def coreCrews : Nat := 8
/-- Scratchpad bytes and named barriers of a core (R1). -/
def corePad : Nat := 524288
def coreBars : Nat := 64
/-- Split-table entries of a core and fragments of a team (R28). -/
def coreSplits : Nat := 256
def teamFrags : Nat := 16
/-- Tiles of a matrix engine and contexts of each sequencer (R1, R267). -/
def tiles : Nat := 8
def seqContexts : Nat := 8

/-- Cycles of the arithmetic clock that pass in the n-th step: the spec gives no step's time (log 2). -/
opaque elapsed : Nat → Nat
/-- The hash that chooses a line's home slice among the slices of the die that owns its channel (R3, log 5). -/
opaque sliceHash : Nat → Nat
/-- R36: whether a reopened register word keeps the team's own old value, for the n-th word reopened (log 6). -/
opaque reopenKeeps : Nat → Bool
/-- R300: the count that SHAPE answers of a box whose element count does not fit its 32 bits (log 74). -/
opaque bigBox : Nat → BitVec 32
/-- R298: the n-th byte of a contribution that a failed step has not received, and whether its n-th element keeps its old
contents (log 9). -/
opaque failedStepByte : Nat → Byte
opaque failedKeeps : Nat → Bool
/-- R349: byte k of the header of a replay log's first entry once it is marked truncated, from what it was (log 73). -/
opaque truncMark : Nat → Byte → Byte
/-- The nonce the security controller draws (R388), for the n-th draw (log 7). -/
opaque nonce : Nat → BitVec 256
/-- Whether an ECDSA P-384 signature is valid for a key and a message (R388): an uninterpreted verdict (log 7). -/
opaque signatureValid : List Byte → List Byte → List Byte → Bool
/-- SHA-384 of the module's certificate chain in slot 0 (R388, R389; log 7). -/
opaque devid : BitVec 384
/-- R259: whether a line that holds other scales than its table takes the new ones, at the n-th step, for line l. -/
opaque freshScales : Nat → Nat → Bool
/-- R76: whether a word of code at an address, stored to since its unit fetched it, is fetched as it was. -/
opaque fetchOld : Nat → Nat → Bool
/-- R280: whether the n-th element that an overlapping copy reads is the one from before the copy. -/
opaque overlapOld : Nat → Bool
/-- R382: whether the peer whose memory a line is refuses an access that this module's table has admitted, at the n-th step. -/
opaque peerRefuses : Nat → Nat → Bool
/-- R375: whether the page that goes down at the n-th step passes its integrity check when it comes up. -/
opaque tierIntact : Nat → Bool
/-- R301: the outcome of the n-th append that a peer's memory-side unit performs for a QPUT: 0 appended, 1 to 4 refused with that
code, 5 a failed flow check. -/
opaque peerOutcome : Nat → Fin 6
/-- R301: the sequence number that a peer's memory-side unit gives the packet of the n-th append that it performs. -/
opaque peerSeq : Nat → BitVec 63
/-- R345, R347: the code under which a second reset of its engine aborts a crew's cast. -/
opaque resetCode : BitVec 6
/-- R346: the byte at an address whose dirty line an L2 slice has lost, for the n-th step. -/
opaque lostByte : Nat → Nat → Byte
/-- What measuring firmware stage i extends into measurement register i at the n-th boot (R389; log 7). -/
opaque measurement : Nat → Nat → BitVec 384
/-- Payload of the n-th SPDM response, which SPDM 1.3 and not this spec fixes (R389; log 7). -/
opaque spdmPayload : Nat → List Byte
/-- R389: what the payload of a vendor-defined request asks for, in the protocols of the PCI-SIG that this spec names and does not lay down:
a TDISP command to a VF (0 locks, 1 starts, 2 stops), and the keying or stopping of the IDE stream of a VF's guest (log 82). -/
opaque tdispCommand : List Byte → Option (Fin 256 × Fin 3)
opaque ideCommand : List Byte → Option (Fin 256 × Bool)
/-- The entry address of the supervisor cores' firmware (R359; log 8). -/
opaque firmwareEntry : Word
/-- R326: the byte at an address of the page that holds a crew's header and commit record, as they were written at the n-th step; the
spec gives these no layout (log 44). -/
opaque areaByte : Nat → Nat → Byte
/-- The tier slot the Ladle writes into FRAME for the n-th page it swaps down (R375; log 10). -/
opaque tierSlot : Nat → BitVec 36
/-- Clock setting that firmware lowers an island to, at its n-th change (R390; log 2). -/
opaque throttled : Nat → Nat
/-- Units that the health test of the n-th module turnover retires: clusters, and L2 slices and cores by their numbers in the module
(R370, R377; log 11). -/
opaque healthRetires : Nat → List Nat
opaque healthSlices : Nat → List Nat
opaque healthCores : Nat → List Nat

end Sys2Proof.Config
end

