-- ==== Sys2Proof/Machine/State.lean ====
section
/-! DEFINITION. The state of the Orastyx 920 as plain data, and the state after reset. -/

namespace Sys2Proof.Machine

/-- A sparse table: pairs of key and value with strictly rising keys. A byte memory is one of these (Host.Cell). -/
abbrev KV (β : Type) := List (Nat × β)

/-- A uniform register: its value and label (R32, R47). -/
structure SReg where
  val : Word := 0
  lab : Lbl := 0
  deriving DecidableEq, Repr

/-- A mask register m1 to m15 (R27, R47). -/
structure MReg where
  bits : Mask := 0
  lab : Lbl := 0
  deriving DecidableEq, Repr

/-- A register word: the 32 lanes of one vector register in one group, and its label (R33, R47). -/
structure RegWord where
  lanes : List Lane := List.replicate 32 0
  lab : Lbl := 0
  deriving DecidableEq, Repr

/-- An armed write span: the v registers [vlo, vlo + vn) and a mask of s registers (R122). -/
structure Span where
  vlo : Nat
  vn : Nat
  smask : Word
  deriving DecidableEq, Repr

/-- An open write span: what it declares, the condition label, and the groups that held an active lane at the branch
(R60, R61). -/
structure OpenSpan where
  span : Span
  cond : Lbl
  groups : List Nat
  deriving DecidableEq, Repr

/-- A fragment's reference to a split-table entry: its number, the join address, the PC label from before the branch,
the span, whether the branch split, the side, and the store signature of the parent (R28, R29, R61, R308). -/
structure SplitRef where
  sid : Nat
  join : Nat
  pcl : Lbl
  span : Option OpenSpan
  split : Bool
  taken : Bool
  psig : Word
  /-- the window and the place in it of the branch, by which both copies of a pair name the sides (log 20) -/
  born : Nat := 0
  deriving DecidableEq, Repr

/-- A precise fault on its way into a handler (R42, R111): code, sub-code, the faulting lanes, each lane's address, the
one address of a uniform access, the code-specific info, the labels of the address registers, and whether the
fault names the clause header. -/
structure Trap where
  code : Nat
  sub : Nat := 0
  lanes : Mask := 0
  addrs : KV Word := []
  uaddr : Option Word := none
  info : Option Word := none
  alab : List Lbl := []
  header : Bool := false
  /-- pages that active lanes of the instruction address (R331) -/
  pages : List Nat := []
  deriving DecidableEq, Repr

/-- What a thread waits for (R189). A parked thread stands at the instruction that parked it and executes it again. -/
inductive Park where
  /-- not parked -/
  | run
  /-- a named barrier's next flip (R233) -/
  | bar (n : Nat)
  /-- nothing more: the barrier it waited for has flipped -/
  | passed (n : Nat)
  /-- a barrier word's phase (R162) -/
  | word
  /-- an absent scratchpad line (R155, R156) -/
  | line
  /-- the line of a held load whose window has run out, and of every load that its fragment holds (R155, R41) -/
  | window
  | held
  /-- admission after CLMSEAL (R170) -/
  | admission
  /-- a request for register words (R35, R116) -/
  | grow (n : Nat)
  /-- tiles or contexts for a FORK (R245) -/
  | fork
  /-- a FORK or a request for register words that has been granted and may complete (R245, R35) -/
  | granted
  /-- the rendezvous (R289) -/
  | rdv
  /-- a place in an engine's queue (R279), or a tile operation that must be applied first (R247) -/
  | engine
  /-- a commit point that must wait for tile operations or a FORK (R277, R304) -/
  | commit
  /-- the match of window w of its pair (R307) -/
  | pair (w : Nat)
  /-- the leading copy's entry in the load-value queue, or room in it (R310) -/
  | queue
  /-- a line that tile fetch has pinned (R217) -/
  | pinned
  /-- a page that the Ladle must bring up, or that a supervisor core must map (R329, R392) -/
  | page (va sub : Nat) (pages : List Nat)
  /-- the trap frame, with its own fault pending (R328) -/
  | fault (t : Trap)
  /-- the debugger (R109) -/
  | debugger
  /-- its sibling at the join (R29) -/
  | join
  /-- the security controller's restart of a halted supervisor core (R110) -/
  | halted
  /-- a supervisor core's action on the fault of a sequencer context (R269) -/
  | stopped (code sub va : Nat)
  deriving DecidableEq, Repr

/-- A register that an instruction names, for the lookahead check (R41). -/
inductive RegName where
  | s (n : Nat)
  | v (n : Nat)
  | m (n : Nat)
  deriving DecidableEq, Repr

/-- A change of a mask register by the instructions of a held load's window: the bits that changed, what they were, and the
label before and after. -/
structure MaskUndo where
  bits : Mask
  old : Mask
  lab : Lbl
  labNow : Lbl
  deriving DecidableEq, Repr

/-- A change of a register word, likewise, by lanes. -/
structure WordUndo where
  lanes : BitVec 32
  old : List Lane
  lab : Lbl
  labNow : Lbl
  deriving DecidableEq, Repr

/-- What the instructions of a held load's window have changed, by register: for a uniform register its values before and after,
for masks and register words the bits and lanes. It comes back if the load faults, as far as no other fragment of the team has
written there since (R41, R125). An instruction whose effect reaches further waits for the load (log 27). -/
structure Undo where
  s : KV (SReg × SReg) := []
  m : KV MaskUndo := []
  v : KV WordUndo := []
  exm : Option Mask := none
  deriving DecidableEq, Repr

/-- A scratchpad load held for absent lines (R155): its place in the code, destination, type, and each lane's offset,
with the labels its sources had in each group; the lines still to come, the bytes and labels of those that have
been present since it was issued, and those of them that have failed or turned out poisoned. -/
structure HeldLoad where
  pc : Nat
  slot : Nat
  clause : List Word
  ty : Ty
  dst : Nat
  mask : Mask
  offs : KV Nat
  alab : List (Nat × List Lbl)
  flab : List Lbl
  need : List Nat := []
  got : KV Byte := []
  labs : KV Lbl := []
  lost : List Nat := []
  spoilt : List Nat := []
  undo : Undo := {}
  count : Nat := 0
  deriving DecidableEq, Repr

/-- A long-latency instruction whose window is open (R40): its destinations, how many instructions may still issue, its
WAIT bit (R73), and the load still held, if any. -/
structure Pending where
  dsts : List RegName
  left : Nat
  cls : Nat
  held : Option HeldLoad := none
  deriving DecidableEq, Repr

/-- An executing thread: a fragment, a sequencer context or a supervisor core (R192). -/
structure Thread where
  /-- VA of the current clause header -/
  pc : Nat := 0
  slot : Nat := 0
  /-- the fetched clause's words; empty between clauses (R71) -/
  clause : List Word := []
  eng : Eng := .team
  /-- header PRI and COLD (R74) -/
  pri : Nat := 0
  cold : Bool := false
  exm : Mask := 0
  f : Mask := 0
  pcl : Lbl := 0
  armed : Option Span := none
  stack : List SplitRef := []
  priv : Priv := .user
  /-- %spva and %pgattr as the instruction found them that has begun and waits (R354) -/
  began : Option (Word × Word) := none
  /-- since when its PGMAP asks the Ladle for frames (R331, R376) -/
  asked : Option Nat := none
  /-- its handler is active (R363) -/
  handler : Bool := false
  park : Park := .run
  pend : List Pending := []
  /-- stores not yet performed, REDs not yet acknowledged, engine commands not yet accepted (R73) -/
  outSt : Nat := 0
  outAt : Nat := 0
  outEng : Nat := 0
  /-- the fall-through side of a split that found no free entry (R30) -/
  spilled : Bool := false
  /-- a FENCE .rel waiting for the store or atomic it makes a release (R231) -/
  relNext : Option Scope := none
  /-- since when the fragment is ready, and its place in its slot's active set (R189, R190) -/
  ready : Nat := 0
  active : Bool := false
  entered : Nat := 0
  /-- when it last started a clause (R190) -/
  started : Nat := 0
  /-- the cycle at which it last became unready (R190), 0 while ready -/
  unready : Nat := 0
  /-- the store signature folded so far in the window (R308) -/
  sig : Word := 0
  /-- instructions completed and traps taken in the window: its place in a paired crew's program order (log 20) -/
  count : Nat := 0
  deriving DecidableEq, Repr

/-- The trap frame with the fault record beside it (R325, R111). -/
structure TrapFrame where
  frag : Nat
  pc : Nat
  slot : Nat
  code : Nat
  sub : Nat
  plbl : Lbl
  priv : Priv
  info : Word
  armed : Option Span
  mask : Mask
  lanes : Mask
  addrs : KV Word
  uaddr : Option Word
  alab : List Lbl
  pages : List Nat := []
  /-- instructions in the faulting clause, by which TRET.skip finds the next header -/
  len : Nat
  deriving DecidableEq, Repr

/-- Where a team stands in a reserving cast (R165, R238). -/
inductive Phase where
  | none
  | claim
  | sealed
  | commit
  | done
  deriving DecidableEq, Repr

/-- A team (R21, R32). -/
structure Team where
  lanes : Nat
  /-- lanes that exist: launched and not exited (R21) -/
  live : Mask
  frags : KV Thread := []
  s : KV SReg := []
  m : KV MReg := []
  /-- register words by 32 x register + group -/
  v : KV RegWord := []
  /-- words of closed scopes, which R36 lets return -/
  old : KV RegWord := []
  /-- open scopes (base, count), the innermost first (R35) -/
  scopes : List (Nat × Nat) := []
  reserve : Nat := 0
  pkr : Word := 0
  clear : Lbl := 0
  auth : BitVec 64 := 0
  slot : Nat := 0
  phase : Phase := .none
  frame : Option TrapFrame := none
  retired : Bool := false
  nextFrag : Nat := 1
  nextSid : Nat := 0
  /-- store signatures of sides that have ended before their join, by 2 x (split + 1) + (1 for the taken side), and under 0
  that of the retired team (R308) -/
  ended : KV Word := []
  deriving DecidableEq, Repr

/-- A named barrier (R232); ap is the phase at each agent's last arrival, teams under 2t, contexts under 2x + 1. -/
structure NBar where
  ph : Bool := false
  rld : Nat
  cnt : Nat
  ap : KV Bool := []
  deriving DecidableEq, Repr

/-- A stash window: global VA, scratchpad offset and length (R158). -/
structure StashWin where
  va : Int
  off : Nat
  len : Nat
  deriving DecidableEq, Repr

/-- The crew's scratchpad (R154, R155, R158, R159): bytes, line labels, absent and failed lines, windows with their
numbers, the bytes of filled stash lines that have been stored to and not written back, and the global lines that filled
lines copy. -/
structure Pad where
  size : Nat := 0
  bytes : KV Byte := []
  labs : KV Lbl := []
  base : Lbl := 0
  absent : List Nat := []
  failed : List Nat := []
  wins : KV StashWin := []
  dirty : List Nat := []
  filled : KV Nat := []
  /-- stash lines touched while absent, with the global lines that fill them (R159) -/
  wanted : KV Nat := []
  /-- lines whose bytes cannot be trusted (R343, R344; log 60) -/
  poison : List Nat := []
  deriving DecidableEq, Repr

/-- An accumulator tile (R270, R271): elements by 128 x row + column. -/
structure Tile where
  elems : KV (BitVec 32) := []
  lab : Lbl := 0
  poison : Bool := false
  deriving DecidableEq, Repr

/-- A crew's tile grant (R245, R270, R289): the forking team, the tiles, the streams' contexts, who has arrived at the
rendezvous. -/
structure Grant where
  team : Nat
  tiles : List Tile
  mseq : Option Nat
  cseq : Option Nat
  arrived : List Agent := []
  met : Bool := false
  deriving DecidableEq, Repr

/-- A sequencer context that a FORK has started (R267). -/
structure SeqCtx where
  kind : Eng
  team : Nat
  th : Thread
  s : KV SReg := []
  pkr : Word := 0
  clear : Lbl := 0
  auth : BitVec 64 := 0
  rdv : Bool := false
  ended : Bool := false
  deriving DecidableEq, Repr

/-- What a rollback restores (R333): the crew's teams, scratchpad, barriers, sequencer contexts, tiles and claims. -/
structure Body where
  teams : KV Team := []
  pad : Pad := {}
  bars : KV NBar := []
  seqs : KV SeqCtx := []
  grant : Option Grant := none
  sig : Mask := 0
  claims : Nat := 0
  clab : Lbl := 0
  nextSeq : Nat := 0
  deriving DecidableEq, Repr

/-- An uncommitted byte: the window that wrote it and its physical address (R205, R307). -/
structure Unc where
  win : Nat
  pa : Nat
  val : Byte
  deriving DecidableEq, Repr

/-- The two copies of a paired crew (R306). -/
inductive Copy where
  | solo
  | lead
  | trail
  deriving DecidableEq, Repr

/-- In a copy of a pair, the place of a command, by window, agent and count there, whose effect in memory has been made: a rollback that
executes it again does not make it again. It has the error code of the arrival that the effect ends in (R310, R338; log 55). -/
structure DoneOp where
  win : Nat
  key : Nat
  count : Nat
  fc : Option Nat := none
  deriving DecidableEq, Repr

/-- A window that a copy has closed and that has not matched (R307): its number, signature and the state at its end, the
place of each of its agents, at which the trailing copy closes it too, the agent whose instruction closed it, if one
did (log 20), the register words returned in it, and its logs, which stay held until the match (R309, R333). -/
structure Closed where
  win : Nat
  sig : Word
  body : Body
  held : KV Nat := []
  place : KV Nat := []
  closer : Option Nat := none
  regLog : List (Nat × Nat) := []
  padLog : List Nat := []
  tileLog : List Nat := []
  deriving DecidableEq, Repr

/-- An entry of a pair's load-value queue (R310): the addresses of one instruction's accesses and their values. -/
abbrev LvqEntry := List Nat × List Word

/-- A register word's name in the register log: team and key of the word (R333). -/
abbrev LogKey := Nat × Nat

/-- A crew, or one copy of a paired crew (R22, R306, R333). -/
structure Crew where
  vf : Nat
  key : Nat
  index : Nat
  copy : Copy := .solo
  partner : Nat := 0
  cl : Nat := 0
  core : Nat := 0
  resident : Bool := true
  /-- dispatch order (R37) -/
  order : Nat := 0
  /-- block of the context-area pool (R326), the page frames of its saved state, and whether another agent's store has struck
  them -/
  block : Nat := 0
  frames : List Nat := []
  spoiled : Bool := false
  body : Body := {}
  saved : Body := {}
  unc : List Unc := []
  padLog : List Nat := []
  regLog : List LogKey := []
  /-- the tiles that the tile log holds as they stood at the last commit point (R277) -/
  tileLog : List Nat := []
  /-- words returned in the window and held for the crew (R35), by team -/
  held : KV Nat := []
  /-- the cycle since which the interval of %ckpt runs, and what of it had passed before the crew was last placed
  (R336) -/
  lastCommit : Nat := 0
  waited : Nat := 0
  /-- commands numbered below this were issued before the last commit point (R283) -/
  opMark : Nat := 0
  /-- what a pair's rollback does not make again (R310, R338; log 55) -/
  doneOps : List DoneOp := []
  /-- at the current commit point: double faults, pipeline errors, and the error of the containment relaunch that has been
  made (R43, R342, R347) -/
  dfaults : Nat := 0
  perrs : Nat := 0
  relaunched : Option Nat := none
  skip : List Nat := []
  requeued : Bool := false
  /-- pairing (R307 to R310) -/
  win : Nat := 0
  matched : Nat := 0
  closed : List Closed := []
  ord : Nat := 0
  mismatches : Nat := 0
  lvq : KV (List LvqEntry) := []
  /-- entries of the queue about operations that are never undone, until the trailing copy takes them (R310, R338) -/
  kept : KV (List LvqEntry) := []
  deriving DecidableEq, Repr

/-- A launch record as the dispatcher has copied it (R176). -/
structure Launch where
  entry : Nat
  crews : Nat
  teams : Nat
  lanes : Nat
  vregs : Nat
  spad : Nat
  nbar : Nat
  prio : Nat
  reserving : Bool
  ordered : Bool
  paired : Bool
  slack : Nat
  extx : Nat
  exty : Nat
  extz : Nat
  resid : Nat
  done : Nat
  waits : List (Nat × Word)
  clear : Lbl
  amode : Nat
  amask : BitVec 64
  args : List Word
  deriving DecidableEq, Repr

/-- The states of a cast in the cast table (R178). -/
inductive CastSt where
  | waiting
  | gated
  | dispatching
  | draining
  deriving DecidableEq, Repr

/-- An item of a reserving cast (R165 to R170, R238). -/
structure Item where
  isSealed : Bool := false
  sig : Mask := 0
  wave : Nat := 0
  finished : Bool := false
  deriving DecidableEq, Repr

/-- A cast in its context's cast table (R178). -/
structure Cast where
  queue : Nat
  seq : Nat
  record : Word
  launch : Launch
  st : CastSt := .waiting
  /-- the residency condition has held in this slice (R188) -/
  gate : Bool := false
  started : Nat := 0
  reached : List Bool := [false, false, false, false]
  next : Nat := 0
  retired : Nat := 0
  raise : Nat := 0
  period : Nat := 0
  /-- placements of other casts of the context since the period began (R180) -/
  others : Bool := false
  /-- the cast has held an unplaced crew since the period began (R180) -/
  held : Bool := false
  items : KV Item := []
  waves : Nat := 0
  /-- the replay log that it is recorded in, named by the base and size of %rlog at its launch (R348) -/
  recorded : Option Nat := none
  deriving DecidableEq, Repr

/-- An entry of the abort log (R391). -/
structure AbortEntry where
  record : Word
  seq : Nat
  queue : Nat
  code : Nat
  kind : Nat
  detail : Word
  deriving DecidableEq, Repr

/-- An entry of the endorsement table (R64). -/
structure Endorse where
  site : Nat
  owner : Nat
  count : Nat
  deriving DecidableEq, Repr

/-- A page that the Ladle holds in a tier (R375): its bytes, granule labels and poisoned lines. -/
structure TierPage where
  tier : Tier
  bytes : KV Byte
  labs : KV Lbl
  poison : List Nat
  intact : Bool := true
  deriving DecidableEq, Repr

/-- A group handle (R383) with the blocks it holds (R326), its label, and its eager slots (R384): for each rank the slots in use
there and the head count it has told, and the lengths of what it has written into its slots here, with the count moved out of them. The
bytes stand in the handle's blocks. -/
structure Handle where
  reg : HandleRec
  lab : Lbl
  blocks : List Nat
  used : KV Nat := []
  freed : KV Nat := []
  inbox : KV (List Nat) := []
  moved : KV Nat := []
  deriving DecidableEq, Repr

/-- Where an XFER stands: its group, the rank that issued it, and its number among the XFERs of that rank (R297, log 41). -/
structure PostKey where
  jobkey : Word
  ranks : List (Nat × Nat)
  rank : Nat
  step : Nat
  deriving DecidableEq, Repr

/-- What the ranks of a group compare of an XFER (R297), with the code it has failed with (R298) and the switch's answer for a
reduction (R386). -/
structure Post where
  key : PostKey
  handle : Nat
  red : Bool
  grid : List Nat
  repl : Word
  op : Nat
  ty : Nat
  rank : Nat
  box : List Nat
  fc : Option Nat := none
  slot : Option Bool := none
  deriving DecidableEq, Repr

/-- An entry of an access-control or egress table, as its four doublewords (R381). -/
structure AclEntry where
  q0 : Word := 0
  q1 : Word := 0
  q2 : Word := 0
  q3 : Word := 0
  deriving DecidableEq, Repr

/-- An entry of a replay log (R349): its log, kind, crew index, team, cycle and payload. -/
structure LogEntry where
  log : Nat
  kind : Nat
  crew : Nat
  team : Nat
  cyc : Nat
  payload : List Byte
  deriving DecidableEq, Repr

/-- TDISP states of a VF (R389). -/
inductive Tdi where
  | unlocked
  | locked
  | run
  | error
  deriving DecidableEq, Repr

/-- A context, which is a virtual function (R367). -/
structure Context where
  labels : List (BitVec 64) := [0]
  endorse : List Endorse := []
  omask : BitVec 64 := 0
  keys : KV (List Byte) := []
  obuf : KV Byte := []
  ostat : BitVec 64 := 0
  /-- how often its nonce has been drawn since the boot (R388): the nonce is a free value (log 7) -/
  draws : Nat := 0
  tvec : Word := 0
  ckpt : Word := 65536
  inj : Word := 0
  rlog : Word := 0
  lqt : Word := 0
  spva : Word := 0
  pgattr : Word := 4
  /-- %pgattr as the mapping of a page for a lane-less agent found it that has begun and waits (R354, R392) -/
  mapping : KV Word := []
  carea : Word := 0
  ptb : Word := 0
  pool : List Nat := []
  poolOutcome : Nat := 0
  poolRemoved : Nat := 0
  poolLow : Nat := 0
  /-- frames mapped for the VF (R368) -/
  frames : List Nat := []
  tierPages : KV TierPage := []
  /-- the recorded set (R364, R374), and that of the slice before, against which residency is measured (R188) -/
  recordedSet : List Nat := []
  lastSet : List Nat := []
  casts : KV Cast := []
  nextKey : Nat := 0
  rr : Nat := 0
  /-- %auth and clearance recorded with packets of each queue, by 2^40 x queue + SEQ (R302) -/
  pktAuth : KV (BitVec 64 × Lbl) := []
  handles : KV Handle := []
  /-- the XFERs that its copy engines have taken on registered handles, in order (R297) -/
  posts : List Post := []
  ahead : Nat := 0
  aborts : List AbortEntry := []
  msix : Bool := false
  dstat : KV Word := []
  tierBase : Nat := 0
  tierSize : Nat := 0
  tdi : Tdi := .unlocked
  /-- the layout of its BARs, and whether the selective IDE stream of its guest is keyed (R389, log 82) -/
  bar : Word := 0
  ide : Bool := false
  /-- HREG: the last record written to it, and whether that has been registered (R387) -/
  hreg : Option (HandleRec × Bool) := none
  acl : KV AclEntry := []
  egress : KV AclEntry := []
  breakpoints : Bool := false
  bell : Bool := false
  /-- the recorder (R348, R349): entries it has still to write, bytes written to each log, logs whose recording has
  stopped -/
  rlogOut : List LogEntry := []
  rlogPos : KV Nat := []
  rlogFull : List Nat := []
  deriving DecidableEq, Repr

/-- A shape record as an engine has copied it (R92, R286). -/
structure ShapeRec where
  base : Nat
  ty : Nat
  rank : Nat
  ext : List Nat
  stride : List Nat
  box : List Nat
  resv : Bool
  grid : List Nat
  pos : List Nat
  repl : Word
  op : Nat
  handle : Nat
  resvx : Bool
  deriving DecidableEq, Repr

/-- What an engine has been told to do (R284). -/
inductive CmdKind where
  | tcopy
  | xfer (red : Bool)
  | mma (ty : Ty) (i32 : Bool) (tile : Nat)
  deriving DecidableEq, Repr

/-- How far an engine has got with a command. -/
inductive CmdSt where
  | queued
  | accepted
  deriving DecidableEq, Repr

/-- A command in an engine (R279, R285): who issued it in which window, its operands as read at issue with the labels of
their registers, and its progress. It leaves the engine with its arrival. -/
structure Cmd where
  op : Nat
  cid : Nat
  win : Nat := 0
  ag : Agent
  kind : CmdKind
  sh : Word := 0
  coords : List Nat := []
  ct : Word := 0
  labs : List Lbl := []
  pcl : Lbl := 0
  pkr : Word := 0
  /-- %spva as the command was issued (R161, R354) -/
  spva : Nat := 0
  /-- the commit record of its crew stands past it (R338) -/
  past : Bool := false
  /-- its place in its agent's window, and whether its arrival in memory has already been made there (R310, log 55) -/
  key : Nat := 0
  count : Nat := 0
  quiet : Bool := false
  /-- in a pair the leading copy alone performs it (R310) -/
  alone : Bool := false
  st : CmdSt := .queued
  recs : Option (ShapeRec × ShapeRec) := none
  /-- error phase (R274, R283) -/
  fc : Option Nat := none
  /-- K-blocks added to the tile -/
  k : Nat := 0
  /-- lines fetched and pinned (R273): by virtual line, twice the physical line, plus one on an MS page -/
  lines : KV Nat := []
  flabs : List Lbl := []
  /-- scratchpad lines still to arrive (R281), and the scratchpad as a copy that reads it found it (R280) -/
  todo : List Nat := []
  before : KV Byte := []
  /-- scratchpad lines that were poisoned when a copy that reads the scratchpad was accepted (R283, R343) -/
  bad : List Nat := []
  /-- an XFER among those of its group (R297) -/
  post : Option PostKey := none
  /-- contributions of the ranks (R297), the ranks that this rank's own may go to or has gone to (R384, R385), and those of other
  modules whose commands have been compared with this one -/
  contrib : KV (List Byte) := []
  sent : List Nat := []
  heard : List Nat := []
  /-- its ready-to-receive message: the destination, and the owners that all of its granules admit (R385) -/
  ready : Option (Nat × BitVec 64) := none
  /-- a page that its next access waits for, with its sub-code (R392), and since when -/
  wants : Option (Nat × Nat) := none
  asked : Nat := 0
  /-- begun in a window that has been rolled back: what it does to the scratchpad is discarded (R283) -/
  orphan : Bool := false
  /-- nothing is left but its arrival -/
  written : Bool := false
  progress : Nat := 0
  deriving DecidableEq, Repr

/-- A cluster TLB entry (R321): context, VA of the page, address and value of the final entry, and whether it maps
512 MiB. -/
structure TlbEntry where
  vf : Nat
  page : Nat
  pte : Nat
  entry : Word
  large : Bool
  deriving DecidableEq, Repr

/-- The L1 of a core (R203 to R207, R322): clean line copies, committed bytes not yet written through, the crews that
wrote each such line, virtual tags, and poisoned lines (R344, log 60). -/
structure L1 where
  clean : KV (KV Byte) := []
  dirty : KV Byte := []
  writers : KV (List Nat) := []
  tags : KV Nat := []
  poison : List Nat := []
  deriving DecidableEq, Repr

/-- A cluster (R6): TLB, with the middle-level entries it holds (R321), the L1s of its four cores, its engines' queues, the
running fragment of each issue slot, by 4 x core + slot (R187, R189), and the contexts that were last served by the array
and by each sequencer, by its kind (R268, R275). -/
structure Cluster where
  tlb : List TlbEntry := []
  l1s : KV L1 := []
  mq : List Cmd := []
  cq : List Cmd := []
  running : KV Agent := []
  mids : KV Word := []
  lastBlock : Nat := 0
  lastSeq : KV Nat := []
  deriving DecidableEq, Repr

/-- A line in an L2 slice (R258, R346): the attached scale bytes (none: not filled yet; no bytes: unit scale), the
failed-scale mark, the format of the region it was filled under, if any, and the VFs that have dirtied it. -/
structure L2Line where
  scales : Option (List Byte) := none
  fmt : Option Nat := none
  failed : Bool := false
  dirty : List Nat := []
  deriving DecidableEq, Repr

/-- A release notice at a home slice (R208): the line, the core, the releasing crew and the window of the release. -/
structure Notice where
  line : Nat
  cl : Nat
  core : Nat
  cid : Nat
  win : Nat := 0
  deriving DecidableEq, Repr

/-- A partition table entry (R369). -/
structure Part where
  clust : BitVec 128 := 0
  vfs : BitVec 256 := 0
  slice : BitVec 32 := 0
  flags : BitVec 8 := 0
  reserved : BitVec 88 := 0
  /-- a change held until the slice boundary -/
  pending : Option (BitVec 128 × BitVec 256 × BitVec 32 × BitVec 8 × BitVec 88) := none
  running : Option Nat := none
  since : Nat := 0
  /-- since when the slice is to end and waits for what has begun (R362) -/
  ending : Option Nat := none
  /-- the VF that ran last; the context that went out with the last slice, and the one that a switch in progress brings in (R373,
  R374) -/
  last : Nat := 255
  out : Option Nat := none
  incoming : Option Nat := none
  deriving DecidableEq, Repr

/-- A supervisor core (R352, R359). -/
structure Sup where
  th : Thread := {}
  s : KV SReg := []
  ctxsel : Word := 0
  mcsel : Word := 0
  serving : Option Nat := none
  deriving DecidableEq, Repr

/-- SPDM responses of the security controller (R389). -/
inductive SpdmResp where
  | ok (code : String) (payload : List Byte)
  | measurements (regs : List (BitVec 384))
  | error (code : String)
  deriving DecidableEq, Repr

/-- State of the SPDM responder (R389): a session handshake begun, established, or none. -/
inductive Session where
  | none
  | handshake
  | established
  deriving DecidableEq, Repr

/-- The security controller's SPDM side (R389). -/
structure Spdm where
  session : Session := .none
  meas : List (BitVec 384) := List.replicate 16 0
  boots : Nat := 0
  out : List SpdmResp := []
  deriving DecidableEq, Repr

/-- A report to the host or the board controller (R342, R346, R368, R382, R390). -/
inductive Report where
  | retiredCore (cl core : Nat)
  | retiredCluster (cl : Nat)
  | retiredSlice (slice : Nat)
  | poolLow (vf : Nat)
  | fabricProtection (peer vf : Nat)
  | uncontained (die slice vf : Nat)
  | coolant
  | clock (island setting : Nat)
  | fabricLink (port : Nat) (up : Bool)
  deriving DecidableEq, Repr

/-- Faults: the machine stops. -/
inductive Fault where
  /-- raised by a meaning whose agent is not in the state, which no run reaches: safe -/
  | noAgent
  deriving DecidableEq, Repr

/-- Refusals: no meaning. -/
inductive Refusal where
  /-- raised by exec's arms for an instruction that has no meaning yet: safe -/
  | notModelled (mnemonic : String)
  deriving DecidableEq, Repr

/-- A request that waits at its memory controller for tokens of its VF's bucket (R372): the controller, the VF, its bytes, whether it is
a write-back, and the agent whose instruction made it, with the WAIT class that it counts in. -/
structure TbReq where
  mc : Nat
  vf : Nat
  bytes : Nat
  back : Bool := false
  who : Option (Agent × Nat) := none
  deriving DecidableEq, Repr

/-- The machine. -/
structure State where
  /-- whose turn it is (the model's own, log 1) -/
  cur : Option Agent := none
  /-- inputs from outside and choices of order, in the order they come; none lets the machine go on by itself (log 1) -/
  agenda : List (Option Instr) := []
  /-- the argument of the free values (log 2) -/
  tick : Nat := 0
  cyc : Nat := 0
  hbm : List Host.Cell := []
  gran : KV Lbl := []
  poison : List Nat := []
  /-- pages that hold a crew's header and commit record, with the step at which these were written, and the bytes of such pages
  that have been stored to since (R326, log 44) -/
  areas : KV Nat := []
  areaMem : KV Byte := []
  /-- bytes at home whose last store is a crew's that the recorder follows, with the crew (R349) -/
  origin : KV Nat := []
  l2 : KV L2Line := []
  pins : List Nat := []
  /-- words of code as each fetching unit last fetched them (R76), by unit, context and address -/
  code : KV Word := []
  notices : List Notice := []
  /-- FRINVs that wait, by supervisor core: first and last line, and the MMAs whose fetch had begun (R259) -/
  frinvs : KV (Nat × Nat × List Nat) := []
  ctl : KV Word := []
  tbLevel : KV Nat := []
  tbWaits : KV Nat := []
  tbQueue : List TbReq := []
  /-- the cycle of the last refill (R372) -/
  refilled : Nat := 0
  parts : KV Part := []
  deadClusters : List Nat := []
  deadCores : List Nat := []
  deadSlices : List Nat := []
  pendDead : List Nat := []
  pendDeadCores : List Nat := []
  slotErrs : KV (List Nat) := []
  arrErrs : KV (List Nat) := []
  regErrs : KV Nat := []
  fabricId : Option Nat := none
  pcieDown : List Nat := []
  portsDown : List Nat := []
  spdm : Spdm := {}
  islands : KV Nat := []
  cooled : Bool := true
  mgmtIrq : List Nat := []
  hostLog : List Report := []
  mgmtLog : List Report := []
  /-- swap-ups that no waiting agent stands behind (R274), as context, address and cycle, and the partitions whose switches are under way, in slice-end order
  (R378); a turnover has been asked for and waits for them (R378) -/
  ladleQ : List (Nat × Nat × Nat) := []
  switches : List Nat := []
  turnover : Bool := false
  ctxs : KV Context := []
  crews : KV Crew := []
  nextCid : Nat := 0
  nextOp : Nat := 0
  clusters : KV Cluster := []
  sups : KV Sup := []
  deriving DecidableEq, Repr

/-- A supervisor core after reset (R350, R359): it stands at the firmware's entry with s0 to s63 zero and public. -/
def supReset : Sup :=
  { th := { pc := Config.firmwareEntry.toNat, eng := .supervisor, priv := .devSup, park := .halted } }

/-- The machine right after reset (R350, R351): %cyc and every register at its reset value, no context with work, the
supervisor cores waiting for the boot measurements to restart them (log 8). -/
def State.reset : State := {}

end Sys2Proof.Machine
end

