-- ==== Sys2Proof/Machine/Map.lean ====
section
/-! DEFINITION. Sparse tables: lookup, update and removal on lists of key and value pairs with strictly rising keys, in
canonical form (no entry that equals what an unlisted key reads as). Memory, granule labels and register files are such
tables. -/

namespace Sys2Proof.Machine

/-- The entry of a key. -/
def kvFind {β : Type} : KV β → Nat → Option β
  | [], _ => none
  | (a, v) :: rest, k => if k = a then some v else kvFind rest k

/-- Stores an entry in its place. -/
def kvSet {β : Type} : KV β → Nat → β → KV β
  | [], k, v => [(k, v)]
  | (a, w) :: rest, k, v =>
    if k = a then (k, v) :: rest else if k < a then (k, v) :: (a, w) :: rest else (a, w) :: kvSet rest k v

/-- Removes the entry of a key. -/
def kvDel {β : Type} (m : KV β) (k : Nat) : KV β := m.filter (fun e => e.1 != k)

/-- The value of a key; an unlisted key reads as the default. -/
def kvGet {β : Type} (d : β) (m : KV β) (k : Nat) : β := (kvFind m k).getD d

/-- Writes a value; writing the default removes the entry. -/
def kvPut {β : Type} [DecidableEq β] (d : β) (m : KV β) (k : Nat) (v : β) : KV β :=
  if v = d then kvDel m k else kvSet m k v

/-- Writes or removes. -/
def kvOpt {β : Type} (m : KV β) (k : Nat) : Option β → KV β
  | some v => kvSet m k v
  | none => kvDel m k

/-- Changes the entry of a key, if there is one. -/
def kvModify {β : Type} (m : KV β) (k : Nat) (f : β → β) : KV β :=
  match kvFind m k with
  | some v => kvSet m k (f v)
  | none => m

def kvKeys {β : Type} (m : KV β) : List Nat := m.map Prod.fst
def kvVals {β : Type} (m : KV β) : List β := m.map Prod.snd
/-- Entries whose key and value satisfy a test. -/
def kvFilter {β : Type} (m : KV β) (p : Nat → β → Bool) : KV β := m.filter (fun e => p e.1 e.2)

/-- Keys strictly rise. -/
def kvSorted {β : Type} : KV β → Bool
  | [] => true
  | [_] => true
  | (a, _) :: (b, w) :: rest => decide (a < b) && kvSorted ((b, w) :: rest)

/-- The canonical form: keys strictly rise and no entry equals the default. -/
def kvWf {β : Type} [DecidableEq β] (d : β) (m : KV β) : Bool := kvSorted m && m.all (fun e => decide (e.2 ≠ d))

/-- The canonical form of a byte memory whose unlisted bytes read zero (log 3). -/
abbrev memoryWf (m : List Host.Cell) : Prop := kvWf (0 : Byte) m = true

/-! ### Small list helpers -/

/-- Adds an element to a set kept as a list. -/
def addOnce (l : List Nat) (n : Nat) : List Nat := if l.contains n then l else l ++ [n]
def dropAll (l : List Nat) (n : Nat) : List Nat := l.filter (fun x => x != n)
/-- Replaces the element at an index, if there is one. -/
def setAt {α : Type} (l : List α) (i : Nat) (v : α) : List α := l.set i v
/-- Inserts an element before the first that it need not come after. -/
def insertBy {α : Type} (le : α → α → Bool) (x : α) : List α → List α
  | [] => [x]
  | y :: ys => if le x y then x :: y :: ys else y :: insertBy le x ys
/-- Sorts a list; elements that compare equal keep their order. -/
def sortBy {α : Type} (le : α → α → Bool) (l : List α) : List α := l.foldr (insertBy le) []
/-- The lowest number below n that is not in the list. -/
def lowestFree (used : List Nat) (n : Nat) : Option Nat := (List.range n).find? (fun k => !used.contains k)

end Sys2Proof.Machine
end

