-- ==== Sys2Proof/Machine/Base.lean ====
section
/-! DEFINITION. The monad in which meanings are written, and access to the parts of the state: contexts, crews, teams,
threads, clusters, uniform registers, labels. -/

namespace Sys2Proof.Machine

/-- How a meaning ends early: a precise fault (R42), a wait (R189), the end of its cast (R391), consumed poison
(R344), or a fault of the model. -/
inductive Stop where
  | trap (t : Trap)
  | park (p : Park)
  | abort (code : Nat) (detail : Word)
  | poison (pa : Nat)
  /-- poison in the crew's scratchpad, at an offset of it (R343) -/
  | spoilt (off : Nat)
  /-- the crew has gone back to an earlier commit point, or has ended, in the middle of the instruction -/
  | gone
  | fault (f : Fault)
  deriving DecidableEq, Repr

abbrev M := EStateM Stop State

/-- Where the thread goes after an instruction: the next slot or header, another header, or where the meaning itself
has put it. -/
inductive Ctl where
  | next
  | jump (pc : Nat)
  | stay
  deriving DecidableEq, Repr

/-- The end of a meaning: where the thread goes, and whether the crew's commit record moves past the instruction
(R338), and whether a copy of a pair closes its window after it (R307). -/
structure Done where
  ctl : Ctl := .next
  past : Bool := false
  close : Bool := false
  deriving DecidableEq, Repr

def done : M Done := pure {}
def donePast : M Done := pure { past := true }
def goto (pc : Nat) : M Done := pure { ctl := .jump pc }

/-! ### Parts of the state -/

def State.ctx (s : State) (vf : Nat) : Context := kvGet {} s.ctxs vf
def State.setCtx (s : State) (vf : Nat) (c : Context) : State := { s with ctxs := kvSet s.ctxs vf c }
def State.cluster (s : State) (n : Nat) : Cluster := kvGet {} s.clusters n
def State.setCluster (s : State) (n : Nat) (c : Cluster) : State := { s with clusters := kvSet s.clusters n c }
def State.sup (s : State) (k : Nat) : Sup := kvGet supReset s.sups k
def State.setSup (s : State) (k : Nat) (u : Sup) : State := { s with sups := kvSet s.sups k u }
def State.setCrew (s : State) (cid : Nat) (c : Crew) : State := { s with crews := kvSet s.crews cid c }
def State.modCrew (s : State) (cid : Nat) (f : Crew → Crew) : State := { s with crews := kvModify s.crews cid f }
def State.modCtx (s : State) (vf : Nat) (f : Context → Context) : State := s.setCtx vf (f (s.ctx vf))
def State.modCluster (s : State) (n : Nat) (f : Cluster → Cluster) : State := s.setCluster n (f (s.cluster n))
def State.modL1 (s : State) (cl core : Nat) (f : L1 → L1) : State :=
  s.modCluster cl (fun c => { c with l1s := kvSet c.l1s core (f (kvGet {} c.l1s core)) })
def State.l1 (s : State) (cl core : Nat) : L1 := kvGet {} (s.cluster cl).l1s core
def State.modCast (s : State) (vf key : Nat) (f : Cast → Cast) : State :=
  s.modCtx vf (fun c => { c with casts := kvModify c.casts key f })
def State.cast? (s : State) (vf key : Nat) : Option Cast := kvFind (s.ctx vf).casts key

/-- A replay log by its base and size (R348). -/
def logKey (w : Word) : Nat := (w &&& 0x01FFFFFFFFFFFFFF).toNat
/-- The replay recorder takes an entry about a crew whose cast is recorded, while its log has room (R349). -/
def State.record (s : State) (cid kind team : Nat) (payload : List Byte) : State :=
  match kvFind s.crews cid with
  | none => s
  | some c =>
    match s.cast? c.vf c.key with
    | some { recorded := some g, .. } => if (s.ctx c.vf).rlogFull.contains g then s else
        s.modCtx c.vf (fun x => { x with rlogOut := x.rlogOut ++
          [{ log := g, kind := kind, crew := c.index, team := team, cyc := s.cyc, payload := payload }] })
    | _ => s

/-- The recorder follows a crew. -/
def State.followed (s : State) (cid : Nat) : Bool :=
  (kvFind s.crews cid).any (fun c => (s.cast? c.vf c.key).any (fun k => k.recorded.isSome))
/-- Some bytes at home have been stored to; and by a crew, which is noted if the recorder follows it (R349). -/
def State.dropOrigin (s : State) (bs : List (Nat × Byte)) : State :=
  if s.origin.isEmpty then s else { s with origin := bs.foldl (fun o e => kvDel o e.1) s.origin }
def State.noteOrigin (s : State) (cid : Nat) (bs : List (Nat × Byte)) : State :=
  if s.followed cid then { s with origin := bs.foldl (fun o e => kvSet o e.1 cid) s.origin } else s

def Crew.modBody (c : Crew) (f : Body → Body) : Crew := { c with body := f c.body }
def Body.modTeam (b : Body) (t : Nat) (f : Team → Team) : Body := { b with teams := kvModify b.teams t f }
def State.modTeam (s : State) (cid t : Nat) (f : Team → Team) : State :=
  s.modCrew cid (fun c => c.modBody (fun b => b.modTeam t f))
def State.team? (s : State) (cid t : Nat) : Option Team :=
  (kvFind s.crews cid).bind (fun c => kvFind c.body.teams t)

/-- The thread of an agent. -/
def State.thread? (s : State) : Agent → Option Thread
  | .frag cid t f => (s.team? cid t).bind (fun tm => kvFind tm.frags f)
  | .seq cid x => (kvFind s.crews cid).bind (fun c => (kvFind c.body.seqs x).map SeqCtx.th)
  | .sup k => some (s.sup k).th

def State.modThread (s : State) (ag : Agent) (f : Thread → Thread) : State :=
  match ag with
  | .frag cid t n => s.modTeam cid t (fun tm => { tm with frags := kvModify tm.frags n f })
  | .seq cid x =>
    s.modCrew cid (fun c => c.modBody (fun b => { b with seqs := kvModify b.seqs x (fun q => { q with th := f q.th }) }))
  | .sup k => s.setSup k { s.sup k with th := f (s.sup k).th }

/-- The team of an agent: a stream's is the one that forked it. -/
def State.agentTeam (s : State) : Agent → Nat
  | .frag _ t _ => t
  | .seq cid x => (((kvFind s.crews cid).bind (fun c => kvFind c.body.seqs x)).map SeqCtx.team).getD 0
  | .sup _ => 0

def agentCid : Agent → Option Nat
  | .frag cid _ _ => some cid
  | .seq cid _ => some cid
  | .sup _ => none

/-! ### The current agent -/

/-- The agent whose turn it is. -/
def me : M Agent := do
  match (← get).cur with
  | some ag => pure ag
  | none => throw (.fault .noAgent)

def myTh : M Thread := do
  match (← get).thread? (← me) with
  | some th => pure th
  | none => throw (.fault .noAgent)

def modTh (f : Thread → Thread) : M Unit := do
  let ag ← me
  modify (fun s => s.modThread ag f)

/-- Raises a precise fault whose faulting lanes are all the active lanes: a uniform or control instruction's (R42). -/
def trapU {α : Type} (code : Nat) (sub : Nat := 0) (info : Option Word := none) (alab : List Lbl := []) : M α := do
  let th ← myTh
  throw (.trap { code := code, sub := sub, lanes := th.exm, info := info, alab := alab })

/-- Illegal instruction with a sub-code (R84). -/
def illegal {α : Type} (i : Illegal) : M α := trapU 0x01 (illegalCode i)

/-- The crew of the current agent; a supervisor core has none, and an instruction that needs one is illegal in its
engine class (R83). -/
def myCid : M Nat := do
  match agentCid (← me) with
  | some c => pure c
  | none => illegal .wrongClass

def getCrew (cid : Nat) : M Crew := do
  match kvFind (← get).crews cid with
  | some c => pure c
  | none => throw (.fault .noAgent)

def myCrew : M Crew := do getCrew (← myCid)
def modMyCrew (f : Crew → Crew) : M Unit := do
  let cid ← myCid
  modify (fun s => s.modCrew cid f)

/-- The team fragment that executes: crew, team and fragment numbers. Only a fragment has vector and mask registers
(R83, R267, R352). -/
def myFrag : M (Nat × Nat × Nat) := do
  match ← me with
  | .frag cid t f => pure (cid, t, f)
  | _ => illegal .wrongClass

def myTeam : M Team := do
  let (cid, t, _) ← myFrag
  match (← get).team? cid t with
  | some tm => pure tm
  | none => throw (.fault .noAgent)

def modTeam (f : Team → Team) : M Unit := do
  let (cid, t, _) ← myFrag
  modify (fun s => s.modTeam cid t f)

/-- The context of the current agent; on a supervisor core the one of R352, if any. -/
def supVf (u : Sup) : Option Nat :=
  match u.serving with
  | some v => some v
  | none => if u.ctxsel.getLsbD 8 then some (u.ctxsel.extractLsb' 0 8).toNat else none

def myVf? : M (Option Nat) := do
  match ← me with
  | .sup k => pure (supVf ((← get).sup k))
  | ag => do
    match agentCid ag with
    | some cid => pure (some (← getCrew cid).vf)
    | none => pure none

def myVf : M Nat := do pure ((← myVf?).getD 0)

/-! ### Uniform registers (R32) -/

def State.readS (s : State) (ag : Agent) (n : Nat) : SReg :=
  if n = 63 then {} else
  match ag with
  | .frag cid t _ => match s.team? cid t with | some tm => kvGet {} tm.s n | none => {}
  | .seq cid x => match (kvFind s.crews cid).bind (fun c => kvFind c.body.seqs x) with | some q => kvGet {} q.s n | none => {}
  | .sup k => kvGet {} (s.sup k).s n

def State.writeS (s : State) (ag : Agent) (n : Nat) (r : SReg) : State :=
  if n = 63 then s else
  match ag with
  | .frag cid t _ => s.modTeam cid t (fun tm => { tm with s := kvPut {} tm.s n r })
  | .seq cid x =>
    s.modCrew cid (fun c => c.modBody (fun b =>
      { b with seqs := kvModify b.seqs x (fun q => { q with s := kvPut {} q.s n r }) }))
  | .sup k => s.setSup k { s.sup k with s := kvPut {} (s.sup k).s n r }

/-- The value and label of a uniform register; s63 reads as zero with the public label. -/
def rdS (n : Nat) : M SReg := do pure ((← get).readS (← me) n)
def valS (n : Nat) : M Word := do pure (← rdS n).val

/-! ### Labels (R44 to R46) -/

def Context.owners (c : Context) (l : Lbl) : BitVec 64 := c.labels.getD l 0
def Context.dominates (c : Context) (x y : Lbl) : Bool := c.owners y &&& ~~~(c.owners x) == 0
/-- The label table of the current agent's context; a supervisor core without one has only the public label. -/
def owners (l : Lbl) : M (BitVec 64) := do pure (((← get).ctx (← myVf)).owners l)
def dominates (x y : Lbl) : M Bool := do pure (((← get).ctx (← myVf)).dominates x y)

/-- The ID of an owner set in a table: the one it has, or the lowest unused one, if there is one. -/
def labelId (tab : List (BitVec 64)) (m : BitVec 64) : Option (Lbl × List (BitVec 64)) :=
  match tab.findIdx? (· == m) with
  | some i => some (i, tab)
  | none => if tab.length < 256 then some (tab.length, tab ++ [m]) else none

/-- Join(x, y) in the table of a context (R46). -/
def joinIn (tab : List (BitVec 64)) (x y : Lbl) : Option (Lbl × List (BitVec 64)) :=
  labelId tab (tab.getD x 0 ||| tab.getD y 0)

/-- JoinAll over a table: a fold starting from ID 0 (R46). The spec gives the set no order; the order of the list, which decides what
intermediate IDs are allocated, is the model's choice (log 68). -/
def joinAllIn (tab : List (BitVec 64)) (x : Lbl) : List Lbl → Option (Lbl × List (BitVec 64))
  | [] => some (x, tab)
  | y :: ys => match joinIn tab x y with
    | some (z, tab') => joinAllIn tab' z ys
    | none => none

/-- Whether a list of labels can be joined without a new ID beyond the table (R45): JoinAll, or label-table-full. -/
def joinAll (ls : List Lbl) : M Lbl := do
  let vf ← myVf
  match joinAllIn ((← get).ctx vf).labels 0 ls with
  | some (l, tab) => do
    modify (fun s => s.modCtx vf (fun c => { c with labels := tab }))
    pure l
  | none => trapU 0x10 0

def join2 (x y : Lbl) : M Lbl := joinAll [x, y]

/-- The union of owner sets, with no allocation. -/
def ownersAll (ls : List Lbl) : M (BitVec 64) := do
  let c := (← get).ctx (← myVf)
  pure (ls.foldl (fun m l => m ||| c.owners l) 0)

def myPcl : M Lbl := do pure (← myTh).pcl
/-- LabelU (R100): the labels of uniform registers with the PC label. -/
def labelU (rs : List Nat) : M Lbl := do
  let s ← get
  let ag ← me
  joinAll (rs.map (fun r => (s.readS ag r).lab) ++ [← myPcl])

/-! ### Clearance, authority, keys of the current agent -/

def myClear : M Lbl := do
  match ← me with
  | .frag _ _ _ => pure (← myTeam).clear
  | .seq cid x => match kvFind (← getCrew cid).body.seqs x with | some q => pure q.clear | none => throw (.fault .noAgent)
  | .sup _ => pure 0

def myAuth : M (BitVec 64) := do
  match ← me with
  | .frag _ _ _ => pure (← myTeam).auth
  | .seq cid x => match kvFind (← getCrew cid).body.seqs x with | some q => pure q.auth | none => throw (.fault .noAgent)
  | .sup _ => pure 0

def myPkr : M Word := do
  match ← me with
  | .frag _ _ _ => pure (← myTeam).pkr
  | .seq cid x => match kvFind (← getCrew cid).body.seqs x with | some q => pure q.pkr | none => throw (.fault .noAgent)
  | .sup _ => pure 0

/-! ### Masks and lanes (R25) -/

/-- Lane word g of a mask. -/
def mword (m : Mask) (g : Nat) : BitVec 32 := m.extractLsb' (32 * g) 32
def lanesBelow (n : Nat) : Mask := BitVec.ofNat 1024 (2 ^ n - 1)
def laneBit (l : Nat) : Mask := BitVec.ofNat 1024 (2 ^ l)
/-- The summary word: bit g is set exactly when lane word g is nonzero. -/
def msummary (m : Mask) : BitVec 32 :=
  BitVec.ofNat 32 ((List.range 32).foldl (fun a g => if mword m g = 0 then a else a + 2 ^ g) 0)
def mhas (m : Mask) (l : Nat) : Bool := m.getLsbD l
/-- The lanes of a mask in ascending order. -/
def mlanes (m : Mask) : List Nat :=
  ((List.range 32).filter (fun g => mword m g != 0)).flatMap
    (fun g => ((List.range 32).filter (fun j => (mword m g).getLsbD j)).map (fun j => 32 * g + j))
def mgroups (m : Mask) : List Nat := (List.range 32).filter (fun g => mword m g != 0)
def maskOf (ls : List Nat) : Mask := ls.foldl (fun m l => m ||| laneBit l) 0
def mcount (m : Mask) : Nat := (mlanes m).length

end Sys2Proof.Machine
end

