-- ==== Sys2Proof/Machine/Regions.lean ====
section
/-! DEFINITION. Lines at their home slices, the format regions of the memory controllers (R255, R256), and the scale bytes
of a line in its L2 slice (R257 to R259). -/

namespace Sys2Proof.Machine

/-- The 128-byte line, which is also the granule, of a physical address (R51). -/
def lineOf (pa : Nat) : Nat := pa / 128

/-- A byte at its home. In a page that holds a crew's header and commit record it is what the machine has written there, which the spec
leaves open, or what has been stored there since (R326, log 44). -/
def State.homeByte (s : State) (pa : Nat) : Byte :=
  match kvFind s.areas (pa / 65536) with
  | none => kvGet 0 s.hbm pa
  | some n => (kvFind s.areaMem pa).getD (Config.areaByte n pa)

/-- A register of a memory controller's block. -/
def mcKey (mc ofs : Nat) : Nat := mc * 2 ^ 16 + ofs
def State.mcReg (s : State) (mc ofs : Nat) : Word := kvGet 0 s.ctl (mcKey mc ofs)

/-- A format region: format code, first and last byte, scale table. -/
structure Region where
  fmt : Nat
  base : Nat
  last : Nat
  tbl : Nat
  deriving DecidableEq, Repr

def regField (w : Word) (lo n : Nat) : Nat := (w.extractLsb' lo n).toNat

/-- Region n as its registers say, when it is enabled and passes the first three conditions of R256. -/
def State.regionRaw (s : State) (mc n : Nat) : Option Region :=
  let b := s.mcReg mc (0x1000 + 0x18 * n)
  let l := s.mcReg mc (0x1000 + 0x18 * n + 8)
  let t := s.mcReg mc (0x1000 + 0x18 * n + 16)
  let r : Region := { fmt := regField b 60 3, base := regField b 12 40 * 4096, last := regField l 12 40 * 4096 + 4095,
                      tbl := regField t 3 49 * 8 }
  if b.getLsbD 63 && decide (r.fmt ≤ 2) && decide (r.base ≤ r.last) && r.base / 2 ^ 36 == mc && r.last / 2 ^ 36 == mc
  then some r else none

/-! ### Token buckets (R371, R372) -/

def tbKey (mc vf : Nat) : Nat := mc * 256 + vf
def State.tbLevelOf (s : State) (mc vf : Nat) : Nat := kvGet 4096 s.tbLevel (tbKey mc vf)
def State.tbWaitsOf (s : State) (mc vf : Nat) : Nat := kvGet 0 s.tbWaits (tbKey mc vf)
def State.tbOn (s : State) (mc vf : Nat) : Bool := (s.mcReg mc (0x2000 + 16 * vf)).getLsbD 63

/-- A request reaches its controller on a VF's behalf: it passes when its bucket holds its bytes and none of its VF waits there before it,
and else waits (R372). -/
def State.meter (s : State) (vf mc bytes : Nat) (back : Bool := false) : State :=
  if !s.tbOn mc vf then s
  else if !s.tbQueue.any (fun r => r.mc == mc && r.vf == vf) && decide (bytes ≤ s.tbLevelOf mc vf) then
    { s with tbLevel := kvPut 4096 s.tbLevel (tbKey mc vf) (s.tbLevelOf mc vf - bytes) }
  else { s with
    tbWaits := kvPut 0 s.tbWaits (tbKey mc vf) (min (2 ^ 32 - 1) (s.tbWaitsOf mc vf + 1))
    tbQueue := s.tbQueue ++ [{ mc := mc, vf := vf, bytes := bytes, back := back }] }
/-- One line of the module's HBM, at the controller of its channel. -/
def State.meterLine (s : State) (vf line : Nat) (back : Bool := false) : State :=
  if line < 2 ^ 33 then s.meter vf (line / 2 ^ 29) 128 back else s
/-- What is done in between is charged to nobody: traffic of the Ladle and of peers, and a try that must wait (R372). -/
def State.uncharged (s0 s : State) : State := { s with tbLevel := s0.tbLevel, tbWaits := s0.tbWaits, tbQueue := s0.tbQueue }

/-! ### Format regions (R255, R256) -/

/-- Whether two regions share a byte. -/
def Region.meets (a b : Region) : Bool := decide (a.base ≤ b.last) && decide (b.base ≤ a.last)

/-- The valid regions of a controller: of two that overlap the higher-numbered one is disabled (R256). -/
def State.regions (s : State) (mc : Nat) : List Region :=
  (List.range 16).foldl (fun rs n => match s.regionRaw mc n with
    | some r => if rs.any (fun q => q.meets r) then rs else rs ++ [r]
    | none => rs) []

/-- The region that holds a physical address. -/
def State.region? (s : State) (pa : Nat) : Option Region :=
  (s.regions (pa / 2 ^ 36)).find? (fun r => decide (r.base ≤ pa) && decide (pa ≤ r.last))

/-- Bytes of codes under one scale byte: 32 of 8-bit codes, 16 of SM4 (R257). -/
def fmtBlock (fmt : Nat) : Nat := if fmt = 2 then 16 else 32

/-- The scale bytes the table now holds for a line, and whether they cannot be read whole (R258): they lie outside the
module's memory or on a poisoned line. -/
def State.tableScales (s : State) (line : Nat) : List Byte × Bool :=
  match s.region? (128 * line) with
  | none => ([], false)
  | some r =>
    let b := fmtBlock r.fmt
    let pas := (List.range (128 / b)).map (fun k => r.tbl + (128 * line - r.base) / b + k)
    if pas.any (fun pa => decide (2 ^ 40 ≤ pa) || s.poison.contains (lineOf pa)) then ([], true)
    else (pas.map s.homeByte, false)

/-- The die that owns a line's channel: four stacks of 64 GB (R1, R3). -/
def dieOf (line : Nat) : Nat := 128 * line / 2 ^ 36 / 4 % Config.dies
/-- The live slices of a die (R370). -/
def State.liveSlices (s : State) (die : Nat) : List Nat :=
  (List.range Config.slicesPerDie).filter (fun k => !s.deadSlices.contains (Config.slicesPerDie * die + k))
/-- The home slice of a line, by its number in the module: a live one on the die that owns the line's channel, chosen there by the
address hash (R3, R370; log 5). -/
def State.homeSlice (s : State) (line : Nat) : Nat :=
  let live := s.liveSlices (dieOf line)
  Config.slicesPerDie * dieOf line + live.getD (Config.sliceHash line % live.length) 0

/-- A line that has left its slice is written back, on behalf of the VF whose store made it dirty (R372). -/
def State.writeBack (s : State) (e : Nat × L2Line) : State :=
  match e.2.dirty with
  | v :: _ => s.meterLine v e.1 true
  | [] => s
/-- A slice that holds 512 KiB of lines gives one of them up for another (R1); which, the spec does not say, but no line that
tile fetch has pinned (R276, log 61). -/
def State.l2Room (s : State) (line : Nat) : State :=
  if decide (s.l2.length < Config.sliceLines) || (kvFind s.l2 line).isSome then s else
  let mates := s.l2.filter (fun e => s.homeSlice e.1 == s.homeSlice line)
  if mates.length < Config.sliceLines then s
  else match mates.find? (fun e => !s.pins.contains e.1) with
    | some e => ({ s with l2 := kvDel s.l2 e.1 } : State).writeBack e
    | none => s

def State.modL2 (s : State) (line : Nat) (f : L2Line → L2Line) : State :=
  let s1 := s.l2Room line
  { s1 with l2 := kvSet s1.l2 line (f (kvGet {} s1.l2 line)) }

/-- The format of the region that a line was filled under; it changes with the line's scale bytes alone (R258, R259). -/
def State.lineFmt (s : State) (line : Nat) : Option Nat := (kvGet ({} : L2Line) s.l2 line).fmt

/-- A line is filled into its L2 slice, and its region's format and its scale bytes are attached. A line that carries others than
the table holds takes the new ones or keeps the old: the spec leaves open which (R259). A pinned line cannot leave its slice, and
keeps its own (R258, R276), and so does one that an FRINV is to drop, which every MMA that fetches it meanwhile has begun before
(R259). -/
def State.attach (s : State) (line : Nat) : State :=
  let old := kvGet ({} : L2Line) s.l2 line
  let (bs, bad) := s.tableScales line
  let fmt := (s.region? (128 * line)).map Region.fmt
  if old.scales = some bs ∧ old.failed = bad ∧ old.fmt = fmt then s
  else if old.scales.isSome && (s.pins.contains line || s.frinvs.any (fun e => decide (e.2.1 ≤ line) && decide (line ≤ e.2.2.1)))
  then s
  else if old.scales.isSome && !Config.freshScales s.tick line then s
  else s.modL2 line (fun l => { l with scales := some bs, failed := bad, fmt := fmt })

/-- A line that an access needs from its L2 slice is there, or is filled on the VF's behalf (R258, R372). -/
def State.fill (s : State) (vf line : Nat) : State :=
  (if (kvFind s.l2 line).isSome then s else s.meterLine vf line).attach line
/-- What a read of n bytes at their home asks of the memory controller: a line on an MS page is read beside the channel, and bypasses the
L2 (R153, R219); any other of the module's own is filled into its slice. -/
def State.touchHome (s : State) (vf pa n : Nat) (ms : Bool) : State :=
  if 2 ^ 40 ≤ pa then s else if ms then s.meter vf (pa / 2 ^ 36) n else s.fill vf (lineOf pa)

/-- The scale byte of a physical address's block as its line carries it; 127 with no scale bytes. -/
def State.scaleAt (s : State) (fmt pa : Nat) : Nat :=
  match (kvGet ({} : L2Line) s.l2 (lineOf pa)).scales with
  | some bs => ((bs[pa % 128 / fmtBlock fmt]?).map BitVec.toNat).getD 127
  | none => 127

end Sys2Proof.Machine
end

