-- ==== Sys2Proof/Machine/Walk.lean ====
section
/-! DEFINITION. Physical addresses (R316), the walk of the page tables (R317 to R319), and the context-area pool (R326). -/

namespace Sys2Proof.Machine

/-! ### Physical addresses (R316) -/

def paWindow (pa : Nat) : Nat := pa / 2 ^ 40
def paReserved (pa : Nat) : Bool := decide (0xC0 < paWindow pa) && decide (paWindow pa < 0x800)
/-- This module's own ID window aliases local HBM. -/
def State.normPa (s : State) (pa : Nat) : Nat :=
  match s.fabricId with
  | some i => if paWindow pa == i + 1 then pa % 2 ^ 40 else pa
  | none => pa
def paLocal (pa : Nat) : Bool := paWindow pa == 0

/-- The peer whose memory a line is has refused the access (R382). -/
def State.refused (s : State) (line : Nat) : Bool :=
  let w := paWindow (128 * line)
  decide (1 ≤ w) && decide (w ≤ 0xC0) && Config.peerRefuses s.tick line
/-- What an access at its home returns of a line is poisoned: the line is, or its peer refuses the access (R344, R382). -/
def State.bad (s : State) (line : Nat) : Bool := s.poison.contains line || s.refused line

/-- The little-endian number of n bytes at their homes. -/
def State.homeNat (s : State) (pa : Nat) : Nat → Nat
  | 0 => 0
  | n + 1 => (s.homeByte pa).toNat + 256 * s.homeNat (pa + 1) n
def State.home64 (s : State) (pa : Nat) : Word := BitVec.ofNat 64 (s.homeNat pa 8)
def numBytes (pa n v : Nat) : List (Nat × Byte) := (List.range n).map (fun k => (pa + k, BitVec.ofNat 8 (v / 256 ^ k)))

/-! ### The walk (R317 to R319) -/

inductive Walk where
  /-- page not present, with its sub-code -/
  | absent (sub : Nat)
  /-- a valid final entry: its address, its value, whether it maps 512 MiB -/
  | leaf (pte : Nat) (entry : Word) (large : Bool)
  deriving DecidableEq, Repr

def pteV (e : Word) : Bool := e.getLsbD 0
def pteLeaf (e : Word) : Bool := e.getLsbD 1
def pteW (e : Word) : Bool := e.getLsbD 2
def pteX (e : Word) : Bool := e.getLsbD 3
def pteMs (e : Word) : Bool := e.getLsbD 4
def pteKey (e : Word) : Nat := (e.extractLsb' 7 5).toNat
def ptePin (e : Word) : Bool := e.getLsbD 12
def pteT (e : Word) : Bool := e.getLsbD 13
def pteFrame (e : Word) : Nat := (e.extractLsb' 16 36).toNat * 65536

/-- A pointer entry holds V, FRAME and SW alone and names a table in local HBM. -/
def tableOk (e : Word) : Bool := e.extractLsb' 1 15 == 0 && paLocal (pteFrame e)

/-- The last level of a walk, from a middle entry that names a leaf table. -/
def State.walkLeaf (s : State) (e2 : Word) (va : Nat) : Walk :=
  let p3 := pteFrame e2 + 8 * (va / 2 ^ 16 % 2 ^ 13)
  let e3 := s.home64 p3
  if !pteV e3 then .absent (if pteT e3 then 1 else 0)
  else if pteLeaf e3 || e3.extractLsb' 14 2 != 0 then .absent 2
  else .leaf p3 e3 false

/-- The walk from a root table for a canonical address. -/
def State.walk (s : State) (root va : Nat) : Walk :=
  let e1 := s.home64 (root + 8 * (va / 2 ^ 42 % 2 ^ 15))
  if !pteV e1 then .absent (if pteT e1 then 2 else 0)
  else if !tableOk e1 then .absent 2
  else
    let p2 := pteFrame e1 + 8 * (va / 2 ^ 29 % 2 ^ 13)
    let e2 := s.home64 p2
    if !pteV e2 then .absent (if pteT e2 then (if pteLeaf e2 then 1 else 2) else 0)
    else if pteLeaf e2 then
      (if e2.extractLsb' 14 2 == 0 && e2.extractLsb' 16 13 == 0 then .leaf p2 e2 true else .absent 2)
    else if !tableOk e2 then .absent 2
    else s.walkLeaf e2 va

/-- The middle entry that names the leaf table of an address, if the walk reaches one. -/
def State.midEntry (s : State) (root va : Nat) : Option Word :=
  let e1 := s.home64 (root + 8 * (va / 2 ^ 42 % 2 ^ 15))
  if !pteV e1 || !tableOk e1 then none
  else
    let e2 := s.home64 (pteFrame e1 + 8 * (va / 2 ^ 29 % 2 ^ 13))
    if pteV e2 && !pteLeaf e2 && tableOk e2 then some e2 else none

/-- The physical address under a final entry. -/
def pteAddr (e : Word) (large : Bool) (va : Nat) : Nat :=
  if large then pteFrame e / 2 ^ 29 * 2 ^ 29 + va % 2 ^ 29 else pteFrame e + va % 2 ^ 16

def Context.root (c : Context) : Nat := c.ptb.toNat

/-! ### The context-area pool (R326) -/

def careaBase (c : Context) : Nat := c.carea.toNat / 2 ^ 22 * 2 ^ 22
def careaBlocks (c : Context) : Nat := (c.carea.extractLsb' 0 16).toNat
/-- The VA of a team's area in a crew block. -/
def teamArea (c : Context) (block t : Nat) : Nat := careaBase c + 2 ^ 22 * block + 0x10000 + 0x4000 * t

/-- The physical address of a byte of the context-area pool, if its page is present. -/
def State.poolAddr (s : State) (vf va : Nat) : Option Nat :=
  match s.walk (s.ctx vf).root va with
  | .leaf _ e l => some (s.normPa (pteAddr e l va))
  | .absent _ => none

/-- A crew's block of the pool has lost the page of its header and commit record. -/
def State.areaGone (s : State) (cid : Nat) : Bool :=
  match kvFind s.crews cid with
  | some c => (s.poolAddr c.vf (careaBase (s.ctx c.vf) + 2 ^ 22 * c.block)).isNone
  | none => false

end Sys2Proof.Machine
end

