-- ==== Sys2Proof/Machine/Commit.lean ====
section
/-! DEFINITION. Bytes at their home slices, L1 write-through, commit points, rollback, relaunch, and the abort of a cast. -/

namespace Sys2Proof.Machine

/-! ### Bytes at home (R3, R206) -/

/-- Performs one byte at its home slice. -/
def State.setHomeByte (s : State) (pa : Nat) (b : Byte) : State :=
  { s with hbm := if (kvFind s.areas (pa / 65536)).isNone then kvPut 0 s.hbm pa b else s.hbm
           areaMem := if (kvFind s.areas (pa / 65536)).isSome then kvSet s.areaMem pa b else s.areaMem }
/-- Bytes are written at their homes, but for those that the peer whose memory they are refuses (R382). -/
def State.setHomeBytes (s : State) : List (Nat × Byte) → State
  | [] => s
  | (pa, b) :: rest => (if s.refused (lineOf pa) then s else s.setHomeByte pa b).setHomeBytes rest

/-- A local HBM line is filled into its L2 slice and becomes dirty there for a context (R258, R346). -/
def State.markDirty (s : State) (vf line : Nat) : State :=
  if line < 2 ^ 33 then (s.fill vf line).modL2 line (fun l => { l with dirty := addOnce l.dirty vf }) else s

/-- The hosts are told of an access to a line that its peer has refused (R382). -/
def State.tell (s : State) (vf line : Nat) : State :=
  if s.refused line then { s with hostLog := s.hostLog ++ [.fabricProtection (paWindow (128 * line) - 1) vf] } else s
/-- A poll that finds the same refusal again tells them nothing new (log 81). -/
def State.tellOnce (s : State) (vf line : Nat) : State :=
  if s.hostLog.getLast? == some (.fabricProtection (paWindow (128 * line) - 1) vf) then s else s.tell vf line
/-- A line stored to whole is no longer poisoned (R344). -/
def State.unpoison (s : State) (line : Nat) : State := { s with poison := s.poison.filter (· != line) }

/-- Bytes that the machine writes for a context beside any agent's store, such as a trap frame or an A bit (R319, R325). -/
def State.writeHome (s : State) (vf : Nat) (bs : List (Nat × Byte)) : State :=
  ((bs.map (fun e => lineOf e.1)).eraseDups).foldl (fun s l => s.markDirty vf l) (s.setHomeBytes bs)

/-! ### A crew's block of the context area (R326, log 44) -/

/-- Where a byte of a crew's block lies, while its page is present. -/
def State.blockAddr (s : State) (c : Crew) (ofs : Nat) : Option Nat :=
  s.poolAddr c.vf (careaBase (s.ctx c.vf) + 2 ^ 22 * c.block + ofs)
/-- The page frames of the part of a block that holds saved state. -/
def State.blockFrames (s : State) (vf block : Nat) : List Nat :=
  (List.range 37).filterMap (fun k => (s.poolAddr vf (careaBase (s.ctx vf) + 2 ^ 22 * block + 65536 * k)).map (· / 65536))
/-- Writes some pages of a block whole, with bytes given by their offset there. -/
def State.blockFill (s : State) (c : Crew) (ofs n : Nat) (bytes : KV Byte) : Option State :=
  (List.range ((n + 65535) / 65536)).foldl (fun o p => o.bind (fun s => (s.blockAddr c (ofs + 65536 * p)).map (fun pa =>
    let s1 : State := { s with areas := kvDel s.areas (pa / 65536), areaMem := s.areaMem.filter (fun e => e.1 / 65536 != pa / 65536) }
    s1.writeHome c.vf ((s.hbm.filter (fun e => e.1 / 65536 == pa / 65536)).map (fun e => (e.1, (0 : Byte))) ++
      (bytes.filter (fun e => e.1 / 65536 == p)).map (fun e => (pa + e.1 % 65536, e.2)))))) (some s)

/-- The crew header and the commit record are written, into the first 64 KiB of the crew's block, while its page is present. -/
def State.writeRecord (s : State) (cid : Nat) : State :=
  match kvFind s.crews cid with
  | none => s
  | some c => match s.blockAddr c 0 with
    | none => s
    | some pa => ({ s with
        areas := kvSet s.areas (pa / 65536) s.tick
        areaMem := s.areaMem.filter (fun e => e.1 / 65536 != pa / 65536)
        hbm := s.hbm.filter (fun e => e.1 / 65536 != pa / 65536) }).markDirty c.vf (lineOf pa)

/-- A tile's 64 KiB in the tile log: its elements in row order. -/
def Tile.image (t : Tile) : KV Byte :=
  t.elems.flatMap (fun e => (List.range 4).map (fun k => (4 * e.1 + k, e.2.extractLsb' (8 * k) 8)))
/-- A crew's register words in its block: 128 bytes each, with their labels after the room of 7,680 words. -/
def Body.wordImage (b : Body) : KV Byte :=
  let ws := b.teams.flatMap (fun t => t.2.v.map Prod.snd)
  ((List.range ws.length).zip ws).flatMap (fun e =>
    ((List.range 32).flatMap (fun j => (List.range 4).map (fun k =>
      (128 * e.1 + 4 * j + k, (e.2.lanes.getD j 0).extractLsb' (8 * k) 8)))) ++ [(983040 + e.1, BitVec.ofNat 8 e.2.lab)])
/-- The contexts of a crew's streams in its block, 1 KiB each, in the part that is reserved to the machine: PC, PC label, registers and
their labels. -/
def Body.seqImage (b : Body) : KV Byte :=
  let qs := (b.seqs.filter (fun q => !q.2.ended)).map Prod.snd
  ((List.range qs.length).zip qs).flatMap (fun e =>
    let put : Nat → Nat → Nat → KV Byte := fun ofs n v => (List.range n).map (fun k => (1024 * e.1 + ofs + k, BitVec.ofNat 8 (v / 256 ^ k)))
    put 0 8 e.2.th.pc ++ put 8 1 e.2.th.pcl ++
      e.2.s.flatMap (fun r => put (16 + 8 * r.1) 8 r.2.val.toNat ++ put (528 + r.1) 1 r.2.lab))
/-- The scratchpad, the register words, the tiles and the stream contexts of a crew enter its block as it leaves its core (R278,
R362). -/
def State.saveArea (s : State) (c : Crew) : Option State :=
  let tiles := match c.body.grant with | some g => g.tiles | none => []
  let fill : Nat → Nat → KV Byte → Option State → Option State := fun ofs n bs o => o.bind (fun s => s.blockFill c ofs n bs)
  let o1 := if c.body.pad.size = 0 then some s else fill 0xD0000 c.body.pad.size c.body.pad.bytes (some s)
  let o2 := if c.body.teams.all (fun t => t.2.v.isEmpty) then o1 else fill 0x150000 1048576 c.body.wordImage o1
  let o3 := ((List.range tiles.length).zip tiles).foldl (fun o e => fill (0x50000 + 65536 * e.1) 65536 e.2.image o) o2
  if c.body.seqs.all (fun q => q.2.ended) then o3 else fill 0x250000 65536 c.body.seqImage o3
/-- A tile enters the tile log before the first change of it in a window (R277). While the match of an earlier window that changed it
is still to come, the log keeps it as that one found it (R309). -/
def State.logTile (s : State) (cid i : Nat) : Option State :=
  match kvFind s.crews cid with
  | none => some s
  | some c => match c.body.grant.bind (fun g => g.tiles[i]?) with
    | none => some s
    | some t =>
      let note : State → State := fun s => s.modCrew cid (fun c => { c with tileLog := addOnce c.tileLog i })
      if c.tileLog.contains i then some s
      else if c.closed.any (fun w => w.tileLog.contains i) then some (note s)
      else (s.blockFill c (0x50000 + 65536 * i) 65536 t.image).map note
/-- At the match of a window, tiles that it and a later window have changed enter the log as the window left them (R309). -/
def State.relogTiles (s : State) (c : Crew) (w : Closed) : State :=
  let later := c.tileLog ++ (c.closed.drop 1).flatMap Closed.tileLog
  (w.tileLog.filter later.contains).foldl (fun s i => match w.body.grant.bind (fun g => g.tiles[i]?) with
    | some t => (s.blockFill c (0x50000 + 65536 * i) 65536 t.image).getD s
    | none => s) s

/-- Another agent's store strikes what crews have saved in their blocks. -/
def State.spoil (s : State) (lines : List Nat) : State :=
  if s.crews.all (fun e => !lines.any (fun l => e.2.frames.contains (l / 512))) then s
  else { s with crews := s.crews.map (fun e =>
    (e.1, if lines.any (fun l => e.2.frames.contains (l / 512)) then { e.2 with spoiled := true } else e.2)) }
/-- What a crew has saved cannot be trusted: it has been overwritten, or a line of it is poisoned (R326, R343). -/
def State.savedBad (s : State) (c : Crew) : Bool :=
  c.spoiled || (!c.frames.isEmpty && s.poison.any (fun l => c.frames.contains (l / 512)))

/-- Bytes become committed in a core's L1: they wait there for their write-through. -/
def State.commitBytes (s : State) (cl core cid : Nat) (bs : List (Nat × Byte)) : State :=
  s.modL1 cl core (fun l => { l with
    dirty := bs.foldl (fun d e => kvSet d e.1 e.2) l.dirty
    writers := bs.foldl (fun w e => kvSet w (lineOf e.1) (addOnce (kvGet [] w (lineOf e.1)) cid)) l.writers })

/-! ### Commit points (R333 to R337) -/

/-- The lines that a crew has committed in its core's L1 and not written through. -/
def State.dirtyLines (s : State) (cl core cid : Nat) : List Nat :=
  ((s.l1 cl core).writers.filter (fun e => e.2.contains cid)).map Prod.fst

/-- The threads of a crew's body. -/
def Body.threads (b : Body) : List Thread :=
  b.teams.flatMap (fun e => e.2.frags.map Prod.snd) ++ b.seqs.map (fun e => e.2.th)

/-- The K-blocks of an MMA, from its A record. -/
def kBlocks (a : ShapeRec) : Nat := a.box.getD 0 0 / 32
/-- An MMA has been applied, or has ended in error; its arrival may be left (R277). -/
def Cmd.applied (m : Cmd) : Bool :=
  m.fc.isSome || match m.recs with | some (a, _) => decide (kBlocks a ≤ m.k) | none => false

/-- Matrix commands of a crew that are not done. -/
def State.tileOps (s : State) (cid : Nat) : List Cmd :=
  match kvFind s.crews cid with
  | some c => (s.cluster c.cl).mq.filter (fun q => q.cid == cid)
  | none => []

/-- A commit point must wait for the crew itself: a long-latency result is outstanding (R337), a tile operation has not
been applied (R277), or a FORK waits (R304). -/
def State.commitBusy (s : State) (cid : Nat) : Bool :=
  match kvFind s.crews cid with
  | some c =>
    c.body.threads.any (fun th => th.pend.any (fun p => p.held.isSome) || th.park == .fork || th.park == .granted) ||
      (s.tileOps cid).any (fun m => !m.applied)
  | none => false

/-- The scratchpad lines and register words that a crew's logs hold: those of its open window and of the windows whose match is
still to come, each once a window (R309, R334). -/
def Crew.padHeld (c : Crew) : Nat := c.padLog.length + (c.closed.map (fun w => w.padLog.length)).sum
def Crew.regHeld (c : Crew) : Nat := c.regLog.length + (c.closed.map (fun w => w.regLog.length)).sum
/-- Lines of a crew's windows: uncommitted lines and scratchpad-log lines (R334). -/
def Crew.logLines (c : Crew) : Nat :=
  (c.unc.map (fun u => lineOf u.pa)).eraseDups.length + c.padHeld

/-- After a commit point: what a rollback restores is as the crew stands, and the next window is open. -/
def Crew.clearLogs (c : Crew) (s : State) : Crew :=
  { c with saved := c.body, unc := [], padLog := [], regLog := [], tileLog := [], held := [], lastCommit := s.cyc, waited := 0
           opMark := s.nextOp, dfaults := 0, perrs := 0, relaunched := none, win := c.win + 1, matched := c.matched + 1 }

/-! ### Stash copies (R159) -/

/-- The stash lines that copy a global line, and what of them has been stored to since they were last clean (R159). -/
def Pad.hits (p : Pad) (line : Nat) : List Nat := (p.filled.filter (fun e => e.2 == line)).map Prod.fst
def Pad.dirtyHit (p : Pad) (line : Nat) : Bool := p.dirty.any (fun o => kvFind p.filled (o / 128) == some line)
def Pad.lineBytes (p : Pad) (l g : Nat) : List (Nat × Byte) :=
  (p.dirty.filter (fun o => o / 128 == l)).map (fun o => (128 * g + o % 128, kvGet 0 p.bytes o))
/-- The dirty bytes of a crew's stash lines, at their global addresses. -/
def Pad.dirtyBytes (p : Pad) : List (Nat × Byte) :=
  p.dirty.filterMap (fun o => (kvFind p.filled (o / 128)).map (fun g => (128 * g + o % 128, kvGet 0 p.bytes o)))
/-- The global address of a scratchpad offset that lies in a stash window (R158). -/
def Pad.global (p : Pad) (off : Nat) : Option Int :=
  (p.wins.find? (fun e => decide (e.2.off ≤ off) && decide (off < e.2.off + e.2.len))).map
    (fun e => e.2.va + ((off - e.2.off : Nat) : Int))
/-- The virtual tag of a line for a context (R322). -/
def vtag (vf va : Nat) : Nat := vf * 2 ^ 64 + va / 128
/-- Lines written back from a stash window have the window's virtual tag, where the L1 does not hold them yet. -/
def Pad.dirtyTags (p : Pad) (vf : Nat) (tags : KV Nat) : KV Nat :=
  p.dirty.foldl (fun t o => match kvFind p.filled (o / 128), p.global o with
    | some g, some va => if (kvFind t g).isSome then t else kvSet t g (vtag vf va.toNat)
    | _, _ => t) tags
/-- A byte of a global line that a crew has stored to in a stash window. -/
def Pad.dirtyByte? (p : Pad) (pa : Nat) : Option Byte := (p.dirtyBytes.find? (fun e => e.1 == pa)).map Prod.snd
def Pad.dropCopies (p : Pad) (line : Nat) : Pad :=
  { p with filled := p.filled.filter (fun e => e.2 != line)
           absent := (p.hits line).foldl addOnce p.absent
           dirty := p.dirty.filter (fun o => !(p.hits line).contains (o / 128)) }
/-- A byte that the crew stores to by another way than the stash window enters the copies of its line, where it is clean: the
crew's L1 holds it (R201, log 31). -/
def Pad.mirror (p : Pad) (pa : Nat) (b : Byte) : Pad :=
  (p.hits (lineOf pa)).foldl (fun p l => { p with bytes := kvPut 0 p.bytes (128 * l + pa % 128) b
                                                  dirty := dropAll p.dirty (128 * l + pa % 128) }) p
/-- A scratchpad whose stash lines have all been written back. -/
def Pad.settled (p : Pad) : Pad := { p with dirty := [] }

/-- The lines that a crew holds uncommitted, in its L1 and in its stash windows. -/
def Crew.openLines (c : Crew) : List Nat :=
  ((c.unc.map (fun u => u.pa) ++ c.body.pad.dirtyBytes.map Prod.fst).map lineOf).eraseDups

/-- The crew, or both copies of its pair. -/
def State.copies (s : State) (cid : Nat) : List Nat :=
  match kvFind s.crews cid with
  | some c => if c.copy == .solo then [cid] else [cid, c.partner]
  | none => []

/-- The crews that hold uncommitted stores to a line in a stash window, but for some crews and their partners (R159). -/
def State.stashHolders (s : State) (but : List Nat) (line : Nat) : List Nat :=
  (s.crews.filter (fun e => !(but.flatMap s.copies).contains e.1 && (e.2.body.pad.dirtyHit line ||
    e.2.closed.any (fun w => w.body.pad.dirtyHit line)))).map Prod.fst

/-- The copies of a line in a crew's stash windows are invalidated: another agent's store is performed at its home
(R159). -/
def State.dropStashOf (s : State) (line cid : Nat) : State :=
  s.modCrew cid (fun c =>
    let gone : Body → Body := fun b => { b with pad := b.pad.dropCopies line }
    { c with body := gone c.body, saved := gone c.saved, closed := c.closed.map (fun w => { w with body := gone w.body }) })

/-- Only crews that keep the line in step are left with a copy. -/
def State.dropStash (s : State) (keep : List Nat) (line : Nat) : State :=
  ((s.crews.filter (fun e => !(keep.flatMap s.copies).contains e.1 && (!(e.2.body.pad.hits line).isEmpty ||
    !(e.2.saved.pad.hits line).isEmpty || e.2.closed.any (fun w => !(w.body.pad.hits line).isEmpty)))).map Prod.fst).foldl
    (fun s k => s.dropStashOf line k) s

/-- Performs bytes at their home slices, or on MS pages beside the channel, for contexts; the crews that keep have the bytes in their
stash copies already. -/
def State.performFor (s : State) (vfs keep : List Nat) (bs : List (Nat × Byte)) (ms : Bool := false) : State :=
  let lines := (bs.map (fun e => lineOf e.1)).eraseDups
  let s1 := s.setHomeBytes bs
  let s2 := lines.foldl (fun s l => (vfs.foldl (fun s v => (if ms then s.meterLine v l else s.markDirty v l).tell v l) s).dropStash keep l) (s1.spoil lines)
  (lines.foldl (fun s l => if (bs.filter (fun e => lineOf e.1 == l)).length ≥ 128 && !s.refused l then s.unpoison l else s) s2).dropOrigin bs

/-! ### Removing a crew (R38, R278, R283) -/

/-- The place of a command whose effect in memory has been made already (R310). -/
def DoneOp.at (d : DoneOp) (win key count : Nat) : Bool := d.win == win && d.key == key && d.count == count
def Crew.doneOp? (c : Crew) (win key count : Nat) : Option DoneOp := c.doneOps.find? (fun d => d.at win key count)
def Crew.markDone (c : Crew) (m : Cmd) : Crew :=
  { c with doneOps := { win := m.win, key := m.key, count := m.count, fc := m.fc } ::
      c.doneOps.filter (fun d => !d.at m.win m.key m.count) }

/-- A command was issued after the crew's last commit point, and the commit record does not stand past it. -/
def Crew.after (c : Crew) (m : Cmd) : Bool :=
  !m.past && (if c.copy == .solo then decide (c.opMark ≤ m.op) else decide (c.matched ≤ m.win))

/-- The physical lines that a command has pinned. -/
def Cmd.pinned (m : Cmd) : List Nat := (kvVals m.lines).map (· / 2)
/-- Each pin of a command is released once. -/
def unpin (pins : List Nat) (ls : List Nat) : List Nat := ls.foldl List.erase pins

/-- Cancels a crew's tile operations and the copies of the window that have not begun; those that have run on to their
arrival, and the crew waits for them (R278, R283). -/
def State.cancelOps (s : State) (cid : Nat) : State :=
  match kvFind s.crews cid with
  | none => s
  | some c =>
    let q := s.cluster c.cl
    let gone := q.mq.filter (fun m => m.cid == cid && c.after m)
    let s1 := s.setCluster c.cl { q with
      mq := q.mq.filter (fun m => m.cid != cid || !c.after m)
      cq := (q.cq.filter (fun m => m.cid != cid || !c.after m || m.st != .queued)).map (fun m =>
        if m.cid == cid && c.after m then { m with orphan := true } else m) }
    { s1 with pins := unpin s1.pins (gone.flatMap Cmd.pinned) }

/-- A copy that has begun, whose arrival a rollback or a slice end waits for; an XFER stops between its chunks (R283, R299). -/
def Cmd.running (m : Cmd) : Bool := m.st == .accepted && match m.kind with | .xfer _ => false | _ => true
/-- A rollback waits for copies of the window that had begun (R283), and a crew that has left its core for what it committed
there to be written through (R206, R217) and for what it has left running in the old cluster's engines: it issues nothing and
is not placed. -/
def State.rollbackWaits (s : State) (cid : Nat) : Bool :=
  s.clusters.any (fun e => e.2.cq.any (fun m => m.cid == cid && m.orphan)) ||
    ((kvFind s.crews cid).any (fun c => !c.resident) && s.clusters.any (fun e =>
      e.2.l1s.any (fun x => x.2.writers.any (fun w => w.2.contains cid)) || e.2.mq.any (fun m => m.cid == cid) ||
      e.2.cq.any (fun m => m.cid == cid && m.running)))

/-- A turn that belonged to a crew ends. -/
def State.dropTurn (s : State) (cid : Nat) : State :=
  match s.cur with
  | some ag => if agentCid ag == some cid then { s with cur := none } else s
  | none => s

def State.logAbort (s : State) (vf : Nat) (e : AbortEntry) : State :=
  s.modCtx vf (fun c => { c with ahead := c.ahead + 1, aborts := (c.aborts ++ [e]).drop ((c.aborts.length + 1) - 64)
                                 msix := true })

/-- Removes a crew and everything it holds (R38). -/
def State.removeCrew (s : State) (cid : Nat) : State :=
  match kvFind s.crews cid with
  | none => s
  | some c =>
    let s1 := (s.cancelOps cid).modCluster c.cl (fun q => { q with
      cq := q.cq.filter (fun m => m.cid != cid), mq := q.mq.filter (fun m => m.cid != cid)
      running := q.running.filter (fun e => agentCid e.2 != some cid) })
    let left := ((s.cancelOps cid).cluster c.cl).mq.filter (fun m => m.cid == cid)
    ({ s1 with crews := kvDel s1.crews cid, pins := unpin s1.pins (left.flatMap Cmd.pinned) }).dropTurn cid

def State.castCrews (s : State) (vf key : Nat) : List Nat :=
  (s.crews.filter (fun e => e.2.vf == vf && e.2.key == key)).map Prod.fst

/-- The supervisor core that served an escalation of a context serves it no longer. -/
def State.endEscalation (s : State) (vf : Nat) : State :=
  { s with sups := s.sups.map (fun u => (u.1, if u.2.serving == some vf then { u.2 with serving := none } else u.2)) }

/-- Ends a cast with its crews, and reports it unless a release or turnover ends it (R377, R391). With the last crew of the
context ends what a supervisor core did for it. -/
def State.endCast (s : State) (vf key : Nat) (entry : Option (Nat × Nat × Word)) : State :=
  let s1 := (s.castCrews vf key).foldl State.removeCrew s
  let s2 := match s.cast? vf key, entry with
    | some k, some (code, kind, detail) =>
      s1.logAbort vf { record := k.record, seq := k.seq, queue := k.queue, code := code, kind := kind, detail := detail }
    | _, _ => s1
  let s3 := if s2.crews.any (fun e => e.2.vf == vf) then s2 else s2.endEscalation vf
  s3.modCtx vf (fun c => { c with casts := kvDel c.casts key })

/-- The cast of a crew is aborted and reported to the host. -/
def State.abortCrew (s : State) (cid code : Nat) (detail : Word) : State :=
  match kvFind s.crews cid with
  | some c => s.endCast c.vf c.key (some (code, 0, detail))
  | none => s

/-! ### Write-through and commit points (R205 to R208, R333 to R337) -/

/-- The committed bytes of one line of a core's L1 that have not been written through. -/
def State.l1Dirty (s : State) (cl core line : Nat) : List (Nat × Byte) :=
  (s.l1 cl core).dirty.filter (fun e => lineOf e.1 == line)
/-- The lines that a core's L1 has still to write through. -/
def State.l1Lines (s : State) (cl core : Nat) : List Nat := kvKeys (s.l1 cl core).writers

/-- What is written through with some lines of a core. One under a release notice takes with it everything that the core
holds committed, so that no agent sees the release before the stores that happen-before it (R197, R208). -/
def State.wtWith (s : State) (cl core : Nat) (lines : List Nat) : List Nat :=
  if s.notices.any (fun n => n.cl == cl && n.core == core && lines.contains n.line)
  then (lines ++ s.l1Lines cl core).eraseDups else lines

/-- A store in the L1 is seen at once by every agent of the core (R203): clean copies in the stash windows of its other crews
are invalidated (log 31). -/
def State.dropMates (s : State) (cl core line : Nat) (but : Option Nat) : State :=
  ((s.crews.filter (fun e => some e.1 != but && e.2.resident && e.2.cl == cl && e.2.core == core &&
    !(e.2.body.pad.hits line).isEmpty && !(s.stashHolders [] line).contains e.1)).map Prod.fst).foldl
    (fun s k => s.dropStashOf line k) s

/-- A core's L1 holds a line: a clean copy, committed bytes, or an open store of one of its crews. -/
def State.l1Held (s : State) (cl core line : Nat) : Bool :=
  let l := s.l1 cl core
  (kvFind l.clean line).isSome || (kvFind l.writers line).isSome ||
    s.crews.any (fun e => e.2.resident && e.2.cl == cl && e.2.core == core && e.2.unc.any (fun u => lineOf u.pa == line))
/-- A line that a core's L1 holds is poisoned there (R344). -/
def State.l1Bad (s : State) (cl core line : Nat) : Bool := (s.l1 cl core).poison.contains line && s.l1Held cl core line
/-- Lines about to enter a core's L1: what was poisoned there and has left is not poisoned when it enters anew (R344, log 60). -/
def State.l1Enter (s : State) (cl core : Nat) (lines : List Nat) : State :=
  let gone := lines.filter (fun l => (s.l1 cl core).poison.contains l && !s.l1Held cl core l)
  if gone.isEmpty then s else s.modL1 cl core (fun l => { l with poison := l.poison.filter (fun x => !gone.contains x) })
/-- Global lines of a crew's dirty stash lines, and those of them whose copies are poisoned (R343). -/
def Pad.dirtyGlobal (p : Pad) : List Nat := (p.dirtyBytes.map (fun e => lineOf e.1)).eraseDups
def Pad.badGlobal (p : Pad) : List Nat :=
  ((p.dirty.map (· / 128)).eraseDups.filter p.poison.contains).filterMap (kvFind p.filled)

/-- Stores of a crew become committed in its core's L1: those that it held there, and the dirty bytes of a scratchpad's stash lines,
whose clean copies in other crews' stash windows go (R159, R337). -/
def State.commitStores (s : State) (cid : Nat) (c : Crew) (own : List (Nat × Byte)) (p : Pad) : State :=
  let s0 := (s.l1Enter c.cl c.core p.dirtyGlobal).commitBytes c.cl c.core cid (own ++ p.dirtyBytes)
  let s1 := s0.modL1 c.cl c.core (fun l => { l with tags := p.dirtyTags c.vf l.tags, poison := p.badGlobal.foldl addOnce l.poison })
  p.dirtyGlobal.foldl (fun s l => s.dropMates c.cl c.core l (some cid)) s1

/-- The window's stores become committed in the core's L1, and the commit record is written (R326, R337). -/
def State.commitWindow (s : State) (cid : Nat) : State :=
  match kvFind s.crews cid with
  | none => s
  | some c =>
    let s1 := s.commitStores cid c (c.unc.map (fun u => (u.pa, u.val))) c.body.pad
    (s1.modCrew cid (fun c => (c.modBody (fun b => { b with pad := b.pad.settled })).clearLogs s1)).writeRecord cid

/-- The crew whose stash copies of a line stay in step with what its core writes through: the one crew that wrote it, where no other
crew of the core has stored to it too (R159, R164). -/
def State.keepers (s : State) (cl core line : Nat) : List Nat :=
  match kvGet [] (s.l1 cl core).writers line with
  | [k] => if (s.stashHolders [k] line).any (fun j => (kvFind s.crews j).any (fun c => c.cl == cl && c.core == core)) then [] else [k]
  | _ => []
/-- The release of a notice has been committed, or its pair's window matched. -/
def State.settledNotice (s : State) (n : Notice) : Bool :=
  match kvFind s.crews n.cid with
  | some c => decide (n.win < c.matched)
  | none => true

/-- One line of a core's L1 leaves for its home: its bytes are performed there, a poisoned one poisoned (R344), and the core's
clean copy and the notices of the releases that have gone with it follow (R206, R208). A notice whose release is not committed yet
stays (R197). -/
def State.wtPut (s : State) (cl core line : Nat) : State :=
  let bs := s.l1Dirty cl core line
  if bs.isEmpty then s else
  let wr := kvGet [] (s.l1 cl core).writers line
  let vfs := match wr.filterMap (fun k => (kvFind s.crews k).map Crew.vf) with
    | [] => [kvGet 0 (s.l1 cl core).tags line / 2 ^ 64]
    | v => v
  let bad := (s.l1 cl core).poison.contains line
  let keep := s.keepers cl core line
  let s1 := s.modL1 cl core (fun l => { l with
    dirty := l.dirty.filter (fun e => lineOf e.1 != line)
    writers := kvDel l.writers line
    poison := dropAll l.poison line
    clean := kvModify l.clean line (fun c => bs.foldl (fun c e => kvPut 0 c e.1 e.2) c) })
  let s1 := s1.performFor vfs keep bs
  let s2 := match wr with | [k] => s1.noteOrigin k bs | _ => s1
  { s2 with notices := s2.notices.filter (fun n => !(n.line == line && n.cl == cl && n.core == core && s2.settledNotice n))
            poison := if bad then addOnce s2.poison line else s2.poison }

/-- The commit points that a store at home of a line forces on the crews that hold it uncommitted in a stash window, and what
each of them writes through in turn (R159, R164, R205). A crew that has committed holds nothing more, so that the chain
ends with the crews. -/
def State.forceHolders (n : Nat) (s : State) (but : List Nat) (line : Nat) : State :=
  match n with
  | 0 => s
  | n + 1 => (s.stashHolders but line).foldl (fun s k =>
      if s.areaGone k then s.abortCrew k 0x07 0 else
      match kvFind s.crews k with
      | none => s
      | some c =>
        let old := s.wtWith c.cl c.core (s.dirtyLines c.cl c.core k)
        old.foldl (fun s l =>
          (s.forceHolders n (s.keepers c.cl c.core l) l).wtPut c.cl c.core l) (s.commitWindow k)) s

/-- A store at home of a line need not wait: no pin holds it, and every crew that must commit first can (R159, R217). -/
def State.storableFor (n : Nat) (s : State) (but : List Nat) (line : Nat) : Bool :=
  match n with
  | 0 => true
  | n + 1 => !s.pins.contains line && (s.stashHolders but line).all (fun k => match kvFind s.crews k with
      | none => true
      | some c => c.copy == .solo && !s.commitBusy k &&
        (s.wtWith c.cl c.core (s.dirtyLines c.cl c.core k)).all (fun l => s.storableFor n (k :: but) l))

/-- Enough for every crew to commit once. -/
def State.chain (s : State) : Nat := s.crews.length + 1
def State.storable (s : State) (line : Nat) : Bool := s.storableFor s.chain [] line
/-- Some lines of a core's L1 can be written through now. -/
def State.wtReady (s : State) (cl core : Nat) (lines : List Nat) : Bool :=
  (s.wtWith cl core lines).all (fun l => s.storableFor s.chain (s.keepers cl core l) l)

/-- Performs bytes of one agent's store at their home slices for a context, after the commit points that it forces. -/
def State.perform (s : State) (vf : Nat) (bs : List (Nat × Byte)) (ms : Bool := false) : State :=
  (((bs.map (fun e => lineOf e.1)).eraseDups).foldl (fun s l => s.forceHolders s.chain [] l) s).performFor [vf] [] bs ms

/-- The same by a crew, if one acts. -/
def State.performBy (s : State) (cid : Option Nat) (vf : Nat) (bs : List (Nat × Byte)) (ms : Bool := false) : State :=
  match cid with
  | some k => (s.perform vf bs ms).noteOrigin k bs
  | none => s.perform vf bs ms

/-- Writes lines of a core through, with what must go with them. -/
def State.wtLines (s : State) (cl core : Nat) (lines : List Nat) : State :=
  (s.wtWith cl core lines).foldl (fun s l =>
    (s.forceHolders s.chain (s.keepers cl core l) l).wtPut cl core l) s
def State.wtLine (s : State) (cl core line : Nat) : State := s.wtLines cl core [line]

/-- Writes through every committed line of a crew (R206, R207). -/
def State.wtCrew (s : State) (cid : Nat) : State :=
  match kvFind s.crews cid with
  | some c => s.wtLines c.cl c.core (s.dirtyLines c.cl c.core cid)
  | none => s

/-- Writes through every committed line of the core of a crew: what a release at .clus or wider of the crew waits for,
stores of other crews that happen-before it included (R207). -/
def State.wtCoreAt (s : State) (cl core : Nat) : State := s.wtLines cl core (s.l1Lines cl core)
def State.wtCoreOf (s : State) (cid : Nat) : State :=
  match kvFind s.crews cid with
  | some c => s.wtCoreAt c.cl c.core
  | none => s
/-- A line that a core's L1 has to write through, or that is to be committed there first, must wait (R159, R217). -/
def State.coreHeld (s : State) (cl core : Nat) (more : List Nat) : Bool :=
  !((s.l1Lines cl core ++ more).all (fun l => s.storableFor s.chain
    (s.keepers cl core l ++ (s.crews.filter (fun e => e.2.openLines.contains l && e.2.cl == cl && e.2.core == core)).map Prod.fst) l))

/-- A commit point must wait: for the crew itself, or for what an earlier one has left to be written through. -/
def State.commitWaits (s : State) (cid : Nat) : Bool :=
  match kvFind s.crews cid with
  | some c => s.commitBusy cid || !s.wtReady c.cl c.core (s.dirtyLines c.cl c.core cid)
  | none => false

/-- The commit point of an unpaired crew: what an earlier commit point left in the L1 is written through, the window's
stores become committed, and the commit record is written (R206, R337). -/
def State.commitNow (s : State) (cid : Nat) : State := (s.wtCrew cid).commitWindow cid

/-! ### Rollback, relaunch, eviction (R339, R181) -/

/-- The threads of a restored body wait for no store or RED that has left them, and for the commands still queued; a stash line
is wanted again by the access that is executed again. -/
def Body.settle (b : Body) (queued : Agent → Nat) (cid : Nat) : Body :=
  let f : Agent → Thread → Thread := fun ag th => { th with outSt := 0, outAt := 0, outEng := queued ag, active := false, began := none, asked := none }
  { b with pad := { b.pad with wanted := [] }
           teams := b.teams.map (fun e => (e.1, { e.2 with
             frags := e.2.frags.map (fun x => (x.1, f (.frag cid e.1 x.1) x.2)) }))
           seqs := b.seqs.map (fun e => (e.1, { e.2 with th := f (.seq cid e.1) e.2.th })) }

/-- Restores the crew's commit-point state and discards its window (R339). A release of the window no longer exists, and its
notice goes (R209). A crew whose saved state has been lost ends with its cast (R343). -/
def State.rollback (s : State) (cid : Nat) : State :=
  match kvFind s.crews cid with
  | none => s
  | some c =>
    if s.savedBad c then s.abortCrew cid 0x18 0 else
    let s1 := (s.record cid 5 0 [1]).cancelOps cid
    let queued : Agent → Nat := fun ag =>
      ((s1.cluster c.cl).cq.filter (fun m => m.ag == ag && m.st == .queued)).length
    let s2 : State := { s1 with
      notices := s1.notices.filter (fun n => !(n.cid == cid && decide (c.matched ≤ n.win)))
      tbQueue := s1.tbQueue.map (fun r => if r.who.any (fun w => agentCid w.1 == some cid) then { r with who := none } else r) }
    (s2.modCrew cid (fun c =>
      { c with body := c.saved.settle queued cid, unc := [], padLog := [], regLog := [], tileLog := [], held := [], closed := [],
               win := c.matched, ord := 0, lvq := c.kept })).dropTurn cid

/-- The crew leaves its core and waits to be placed again (R181). What it has committed is written through, now or, where it
must wait, before the crew is placed (R206, R217). It is saved to its block, whose pages must be there (R326, R362). -/
def State.unplace (s : State) (cid : Nat) (skip : List Nat) : State :=
  match kvFind s.crews cid with
  | none => s
  | some c =>
    let s0 := if s.wtReady c.cl c.core (s.dirtyLines c.cl c.core cid) then s.wtCrew cid else s
    let s1 := s0.modCluster c.cl (fun q => { q with
      running := q.running.filter (fun e => agentCid e.2 != some cid) })
    match s1.saveArea c with
    | none => s1.abortCrew cid 0x07 0
    | some s1 => s1.modCrew cid (fun c => { c with
      resident := false, requeued := true, skip := skip, waited := c.waited + (s.cyc - c.lastCommit) })

/-- Rollback and requeue for a cause, which the recorder takes (R349), with clusters to be skipped at the next placement (R43,
R181, R344). -/
def State.relaunch (s : State) (cid code : Nat) (elsewhere : Bool) : State :=
  let cs := s.copies cid
  let cls := if elsewhere then cs.filterMap (fun k => (kvFind s.crews k).map Crew.cl) else []
  (cs.foldl (fun s k => (s.rollback k).unplace k cls) s).record cid 5 0 [2, BitVec.ofNat 8 code]

/-- A double fault (R43): the crew is relaunched once at a commit point, and its cast is aborted at the second. The copies of a
pair count together. -/
def State.doubleFault (s : State) (cid : Nat) (pc : Word) : State :=
  match kvFind s.crews cid with
  | none => s
  | some c =>
    if c.dfaults ≥ 1 then s.abortCrew cid 0x1F pc
    else ((s.copies cid).foldl (fun s k => s.modCrew k (fun c => { c with dfaults := c.dfaults + 1 })) s).relaunch cid 0x1F false

/-- Relaunch for containment (R344, R345, R347): on other clusters, once at a commit point; the second ends the cast with the
first error's code. -/
def State.contain (s : State) (cid code : Nat) (detail : Word) : State :=
  match kvFind s.crews cid with
  | none => s
  | some c =>
    match c.relaunched with
    | some first => s.abortCrew cid first (if first = code then detail else 0)
    | none => (s.copies cid).foldl (fun s k => s.modCrew k (fun c =>
        { c with relaunched := some code, mismatches := 0, perrs := 0 })) (s.relaunch cid code true)

/-- A mismatch of a pair (R309), with the two signatures: both copies go back to the commit point that opened the window; the
third at one commit point relaunches the pair on two other clusters, and the third after that aborts the cast. -/
def State.pairMismatch (s : State) (cid : Nat) (sigs : Word × Word) : State :=
  match kvFind s.crews cid with
  | none => s
  | some c =>
    let s := s.record cid 9 0 (leBytes 8 c.matched ++ leBytes 8 sigs.1.toNat ++ leBytes 8 sigs.2.toNat)
    if c.mismatches < 2 then
      (s.copies cid).foldl (fun s k => (s.rollback k).modCrew k (fun c => { c with mismatches := c.mismatches + 1 })) s
    else s.contain cid 0x18 0

/-- Both copies of a pair have a window in the compare buffer. -/
def State.comparing (s : State) (c : Crew) : Bool :=
  c.copy != .solo && !c.closed.isEmpty && (kvFind s.crews c.partner).any (fun p => !p.closed.isEmpty)
/-- The signatures of the windows that are compared, the leading copy's first. -/
def State.pairSigs (s : State) (cid : Nat) : Word × Word :=
  let sig : Nat → Word := fun k => match kvFind s.crews k with
    | some c => (c.closed.head?.map Closed.sig).getD 0
    | none => 0
  match kvFind s.crews cid with
  | some c => if c.copy == .lead then (sig cid, sig c.partner) else (sig c.partner, sig cid)
  | none => (0, 0)
/-- An error of a crew: during its compare a mismatch of the pair (R347), else what the error asks for. -/
def State.orMismatch (s : State) (cid : Nat) (els : Crew → State) : State :=
  match kvFind s.crews cid with
  | none => s
  | some c => if s.comparing c then s.pairMismatch cid (s.pairSigs cid) else els c
/-- Poisoned data that a crew has consumed (R344). -/
def State.consumed (s : State) (cid pa : Nat) : State :=
  s.orMismatch cid (fun c => (s.tell c.vf (lineOf pa)).contain cid 0x1A (BitVec.ofNat 64 pa))
/-- Poisoned data of its scratchpad that a crew has consumed, at an offset there; the address is that of the aperture (R343; log 60). -/
def State.consumedPad (s : State) (cid off : Nat) : State :=
  s.orMismatch cid (fun c => s.contain cid 0x1A ((s.ctx c.vf).spva + BitVec.ofNat 64 off))

/-! ### Commit points of the executing crew -/

/-- RotL, Term and Fold of R308. -/
def rotl64 (v : Word) (n : Nat) : Word := v <<< n ||| v >>> (64 - n)
def sigTerm (a d : Word) (l : Lbl) : Word := a ^^^ rotl64 d 32 ^^^ (BitVec.ofNat 64 l <<< 56)
def sigFold (sig t : Word) : Word := rotl64 sig 5 ^^^ t

/-- Where a team keeps the value of a side that has ended before its join; under 0 it keeps its own, once it has retired. -/
def endKey (sid : Nat) (taken : Bool) : Nat := 2 * (sid + 1) + if taken then 1 else 0

/-- The value of a split as fusion folds it: the parent's, the taken side's, the fall-through side's (R308). -/
def splitSig (psig : Word) (taken fall : Option Word) : Word :=
  let a := match taken with | some v => sigFold psig v | none => psig
  match fall with | some v => sigFold a v | none => a

/-- A side's value with the signature of the other side, where that has ended. -/
def sideSig (ended : KV Word) (r : SplitRef) (v : Word) (other : Option Word) : Word :=
  let o := match other with | some w => some w | none => kvFind ended (endKey r.sid (!r.taken))
  if r.taken then splitSig r.psig (some v) o else splitSig r.psig o (some v)

/-- The value of a fragment that ends waits for its sibling; with no sibling left it is folded into what it split from, and at
last into the team's own. -/
def endSig (ended : KV Word) (others : Nat → Bool) : List SplitRef → Word → KV Word
  | [], v => kvSet ended 0 v
  | r :: rest, v =>
    if r.split && others r.sid then kvSet ended (endKey r.sid r.taken) v
    else endSig ended others rest (if r.split then sideSig ended r v none else v)

/-- Folds every open side of a team as fusion would, the innermost splits first; the deepest side's sibling stands as
deep or has ended. -/
def collapse (ended : KV Word) : Nat → List (Word × List SplitRef) → Word
  | 0, l => (l.head?.map Prod.fst).getD 0
  | n + 1, l =>
    let deep := (l.map (fun e => e.2.length)).foldl max 0
    match l.find? (fun e => e.2.length == deep) with
    | none => 0
    | some (v, []) => v
    | some (v, r :: rest) =>
      if !r.split then collapse ended n (l.map (fun e => if e == (v, r :: rest) then (v, rest) else e))
      else
        let sib := l.find? (fun e => match e.2 with | q :: _ => q.sid == r.sid && q.taken != r.taken | [] => false)
        let others := l.filter (fun e => match e.2 with | q :: _ => q.sid != r.sid | [] => true)
        collapse ended n (others ++ [(sideSig ended r v (sib.map Prod.fst), rest)])

/-- The value of a team (R308). -/
def teamSig (t : Team) : Word :=
  if t.frags.isEmpty then kvGet 0 t.ended 0
  else collapse t.ended ((t.frags.map (fun e => e.2.stack.length + 1)).sum) (t.frags.map (fun e => (e.2.sig, e.2.stack)))

/-- The crew's signature of its open window (R308). -/
def crewSig (b : Body) : Word :=
  let a := b.teams.foldl (fun a e => sigFold a (teamSig e.2)) 0
  b.seqs.foldl (fun a e => sigFold a e.2.th.sig) a

def Thread.clearSig (th : Thread) : Thread :=
  { th with sig := 0, count := 0, stack := th.stack.map (fun r => { r with psig := 0 }) }
def Body.clearSig (b : Body) : Body :=
  { b with teams := b.teams.map (fun e => (e.1, { e.2 with
             frags := e.2.frags.map (fun f => (f.1, f.2.clearSig)), ended := [] }))
           seqs := (b.seqs.filter (fun e => !e.2.ended)).map (fun e => (e.1, { e.2 with th := e.2.th.clearSig })) }

/-! ### Windows of a pair (R307) -/

/-- The splits on whose sides a fragment stands, as one number that no other fragment of its team ever has. -/
def pathOf (th : Thread) : Nat :=
  th.stack.foldr (fun r p => if r.split then 2 ^ 96 * p + 2 * r.born + (if r.taken then 1 else 0) else p) 0
/-- An agent of a crew by the name that both copies of a pair give it: its team and its side of every split, or the place
of its FORK (R310). -/
def agentKey (ag : Agent) (th : Thread) : Nat :=
  match ag with
  | .frag _ t _ => 2 * (t + 16 * pathOf th)
  | .seq _ x => 2 * x + 1
  | .sup _ => 0
/-- Where each agent of a crew stands in its window. -/
def Body.place (b : Body) : KV Nat :=
  let m := b.teams.foldl (fun m e => e.2.frags.foldl (fun m f => kvSet m (agentKey (.frag 0 e.1 f.1) f.2) f.2.count) m) []
  (b.seqs.filter (fun e => !e.2.ended)).foldl (fun m e => kvSet m (2 * e.1 + 1) e.2.th.count) m

/-- A copy of a pair closes its open window and opens the next; what it has logged stays logged until the match (R309). -/
def State.closeAt (s : State) (cid : Nat) (closer : Option Nat) : State :=
  s.modCrew cid (fun c =>
    { c with closed := c.closed ++ [{ win := c.win, sig := crewSig c.body, body := c.body.clearSig,
                                      held := c.held, place := c.body.place, closer := closer
                                      regLog := c.regLog, padLog := c.padLog, tileLog := c.tileLog }]
             body := c.body.clearSig, win := c.win + 1, ord := 0, padLog := [], regLog := [], tileLog := [], held := []
             lastCommit := s.cyc, waited := 0 })
def State.closeWindow (s : State) (cid : Nat) : State := s.closeAt cid none

/-- Every agent of a crew but one stands at or past its place, and no other agent is there. -/
def Body.atPlace (b : Body) (but : Option Nat) (place : KV Nat) : Bool :=
  b.place.all (fun e => some e.1 == but || (kvFind place e.1).any (fun n => decide (n ≤ e.2)))

/-- A thread of a trailing copy goes on while it is behind its leading copy's agent in the window; where that one closed the
window, up to the place at which it stood, and past it only to close the window once the others stand at theirs. An instruction whose window has matched goes on
(log 20). -/
def State.mayGo (s : State) (ag : Agent) (th : Thread) : Bool :=
  match (agentCid ag).bind (fun cid => kvFind s.crews cid) with
  | none => true
  | some c =>
    if c.copy != .trail then true
    else match kvFind s.crews c.partner with
      | none => true
      | some p =>
        let key := agentKey ag th
        let met := match th.park with | .pair w => decide (w < c.matched) | _ => false
        if p.win < c.win then false
        else if p.win = c.win then met || (kvFind p.body.place key).all (fun n => decide (th.count < n))
        else match p.closed.find? (fun w => w.win == c.win) with
          | none => true
          | some w => met || (kvFind w.place key).all (fun n => decide (th.count < n) ||
              (th.count == n && w.closer == some key && c.body.atPlace (some key) w.place))

/-- A trailing copy closes its window where its leading copy did, unless the agent is there whose instruction closes it. -/
def State.trailCloses (s : State) (c : Crew) : Bool :=
  match (kvFind s.crews c.partner).bind (fun p => p.closed.find? (fun w => w.win == c.win)) with
  | none => false
  | some w => c.body.atPlace none w.place && match w.closer with
    | some k => match kvFind c.body.place k, kvFind w.place k with
      | some n, some m => n != m
      | _, _ => true
    | none => true

/-- The leading copy does not close a window while its slack of earlier ones stand unmatched (R307). -/
def State.slackFull (s : State) (c : Crew) : Bool :=
  c.copy == .lead && (match s.cast? c.vf c.key with
    | some k => decide (k.launch.slack ≤ c.closed.length)
    | none => false)

/-- A leading copy that can closes its window where no instruction does (R209, R310, R336). -/
def State.forceClose (s : State) (cid : Nat) : State :=
  match kvFind s.crews cid with
  | none => s
  | some c =>
    if c.copy != .lead || s.slackFull c || s.commitWaits cid then s
    else if s.areaGone cid then s.abortCrew cid 0x07 0
    else s.closeAt cid none

/-- A pair that something waits for is asked to close its window; while an earlier one waits for its match it closes none. -/
def State.askClose (s : State) (cid : Nat) : State :=
  match kvFind s.crews cid with
  | none => s
  | some c =>
    let lead := if c.copy == .trail then c.partner else cid
    if (kvFind s.crews lead).all (fun l => l.closed.isEmpty) then s.forceClose lead else s

/-- Pairs that hold lines uncommitted in a stash window are asked to close their windows, whose match another agent's store
there waits for (R159, R307). -/
def State.askHolders (s : State) (lines : List Nat) : State :=
  lines.foldl (fun s l => (s.stashHolders [] l).foldl State.askClose s) s

/-- A commit point of the executing crew, complete in one step for an unpaired crew. Its cast is aborted when the page of
its commit record is gone (R326). A copy of a pair closes its window
and waits for its match (R307); when the instruction executes again after the match it goes on. A supervisor core has
no commit window. -/
def commitHere : M Unit := do
  match agentCid (← me) with
  | none => pure ()
  | some cid => do
    let c ← getCrew cid
    let th ← myTh
    if c.copy == .solo then
      if (← get).commitWaits cid then do
        modify (fun s => s.askHolders (s.dirtyLines c.cl c.core cid))
        throw (.park .commit)
      else if (← get).areaGone cid then throw (.abort 0x07 0)
      else modify (fun s => s.commitNow cid)
    else
      match th.park with
      | .pair w => if c.matched ≤ w then throw (.park (.pair w)) else pure ()
      | _ =>
        if (← get).commitWaits cid || (← get).slackFull c then throw (.park .commit)
        else if (← get).areaGone cid then throw (.abort 0x07 0)
        else do
          let key := agentKey (← me) th
          modify (fun s => s.closeAt cid (some key))
          throw (.park (.pair c.win))

/-- A limit of R334 makes the crew commit. A leading copy closes its window, if that holds anything, and waits for room; a trailing
copy's windows close where its leading copy's do (log 20). -/
def limitCommit : M Unit := do
  match agentCid (← me) with
  | none => pure ()
  | some cid => do
    let c ← getCrew cid
    match c.copy with
    | .solo => commitHere
    | .lead => do
      if c.padLog.isEmpty && c.regLog.isEmpty && c.unc.all (fun u => u.win != c.win) then pure ()
      else modify (fun s => s.forceClose cid)
      throw (.park .commit)
    | .trail => pure ()

/-- A commit point of another crew that an agent's access forces (R205, R322), or none while it must wait. A pair closes its
window where it can, and the access waits for the match; a read of its open lines only waits (R307). -/
def State.commitOther (s : State) (cid : Nat) (ask : Bool := true) : Bool × State :=
  match kvFind s.crews cid with
  | none => (true, s)
  | some c =>
    if !c.resident then (true, s)
    else if c.copy != .solo then (false, if ask then s.askClose cid else s)
    else if s.commitWaits cid then (false, s.askHolders (s.dirtyLines c.cl c.core cid))
    else if s.areaGone cid then (true, s.abortCrew cid 0x07 0)
    else (true, s.commitNow cid)

def State.commitOthers (s : State) (ks : List Nat) (ask : Bool := true) : Bool × State :=
  match ks with
  | [] => (true, s)
  | k :: ks => match s.commitOther k ask with
    | (true, s1) => s1.commitOthers ks ask
    | (false, s1) => (false, s1)

/-- The executing agent's access waits for the commit points that it forces. -/
def commitAll (ks : List Nat) (ask : Bool := true) : M Unit := do
  match (← get).commitOthers ks ask with
  | (true, s) => set s
  | (false, s) => do
    set s
    throw (.park .commit)

/-- A store of the executing agent at the homes of some lines waits until it may be performed (R159, R217). -/
def awaitLines (lines : List Nat) : M Unit := do
  if lines.all (← get).storable then pure () else do
    modify (fun s => s.askHolders lines)
    throw (.park .pinned)

end Sys2Proof.Machine
end

