-- ==== Sys2Proof/Machine/Mem.lean ====
section
/-! DEFINITION. Virtual addresses: the walk, the cluster TLB, the checks of an access in their order, and loads, stores and
atomics at the L1, at the home slice and beside the channel. -/

namespace Sys2Proof.Machine

/-! ### Translations (R321) -/

/-- The cluster TLB's entry for an address, if any (R321). -/
def tlbFind (t : List TlbEntry) (vf va : Nat) : Option TlbEntry :=
  t.find? (fun e => e.vf == vf && e.page == (if e.large then va / 2 ^ 29 else va / 2 ^ 16))

/-- The key under which a cluster's TLB holds a context's middle-level entry for an address (R321). -/
def midKey (vf va : Nat) : Nat := vf * 2 ^ 64 + va / 2 ^ 29

/-- A translation for a context through a cluster's TLB, by a final entry or from a middle-level one, or past it. -/
def State.translate (s : State) (vf : Nat) (cl : Option Nat) (va : Nat) : Walk :=
  match cl.bind (fun n => tlbFind (s.cluster n).tlb vf va) with
  | some e => .leaf e.pte e.entry e.large
  | none => match cl.bind (fun n => kvFind (s.cluster n).mids (midKey vf va)) with
    | some e2 => s.walkLeaf e2 va
    | none => s.walk (s.ctx vf).root va

/-- At most 4,096 entries for 64 KiB pages and 64 for 512 MiB pages; a new entry replaces the oldest (R321). -/
def tlbAdd (t : List TlbEntry) (e : TlbEntry) : List TlbEntry :=
  let same := t.filter (fun x => x.large == e.large)
  let other := t.filter (fun x => x.large != e.large)
  other ++ same.drop (same.length + 1 - (if e.large then 64 else 4096)) ++ [e]

/-- At most 256 middle-level entries; which one a new one replaces, the spec does not say (log 61). -/
def midAdd (m : KV Word) (k : Nat) (e : Word) : KV Word :=
  if (kvFind m k).isSome then m else kvSet (m.drop (m.length + 1 - 256)) k e

/-- The lines of the table entries that a walk reads, which a middle-level entry that the cluster holds shortens (R317, R321). -/
def State.walkLines (s : State) (vf : Nat) (cl : Option Nat) (va pte : Nat) (large : Bool) : List Nat :=
  if (cl.bind (fun n => kvFind (s.cluster n).mids (midKey vf va))).isSome then [lineOf pte]
  else
    let p1 := (s.ctx vf).root + 8 * (va / 2 ^ 42 % 2 ^ 15)
    [lineOf p1] ++ (if large then [] else [lineOf (pteFrame (s.home64 p1) + 8 * (va / 2 ^ 29 % 2 ^ 13))]) ++ [lineOf pte]
/-- A walk reads them at their controllers, on the VF's behalf, as far as their slices do not hold them (R372). -/
def State.chargeWalk (s : State) (vf : Nat) (cl : Option Nat) (va pte : Nat) (large : Bool) : State :=
  if (cl.bind (fun n => tlbFind (s.cluster n).tlb vf va)).isSome then s
  else ((s.walkLines vf cl va pte large).filter (fun l => (kvFind s.l2 l).isNone)).foldl (fun t l => t.meterLine vf l) s

/-- A translation is used: it enters the TLB, and its page the context's recorded set (R321, R364). -/
def State.noteUse (s : State) (vf : Nat) (cl : Option Nat) (va pte : Nat) (entry : Word) (large : Bool) : State :=
  let s := s.chargeWalk vf cl va pte large
  let s1 := match cl with
    | some n =>
      match tlbFind (s.cluster n).tlb vf va with
      | some _ => s
      | none => s.modCluster n (fun c => { c with
          tlb := tlbAdd c.tlb (TlbEntry.mk vf (if large then va / 2 ^ 29 else va / 2 ^ 16) pte entry large)
          mids := match (if large then none else s.midEntry (s.ctx vf).root va) with
            | some e2 => midAdd c.mids (midKey vf va) e2
            | none => c.mids })
    | none => s
  s1.modCtx vf (fun c => { c with recordedSet := addOnce c.recordedSet (va / 2 ^ 16) })

/-- Sets A, and D for a write, with an indivisible OR at the entry's home (R319). -/
def State.setAD (s : State) (vf pte : Nat) (write : Bool) : State :=
  let e := s.home64 pte
  let e' := e ||| (if write then 0x60 else 0x20)
  if e = e' then s else s.writeHome vf (numBytes pte 8 e'.toNat)

/-! ### Peers' memory (R381, R382) -/

def aclByte (e : AclEntry) (k : Nat) : Nat := (e.q1.extractLsb' (8 * k) 8).toNat
/-- A valid entry: V set, reserved bits zero, LIMIT not below BASE. -/
def AclEntry.valid (e : AclEntry) : Bool :=
  e.q1.getLsbD 32 && e.q1.extractLsb' 36 28 == 0 && !e.q1.getLsbD 16 && decide (aclByte e 0 < 192) &&
    e.q2 &&& 0xFFF000000000FFFF == 0 && e.q3 &&& 0xFFF000000000FFFF == 0 && decide (e.q2.toNat ≤ e.q3.toNat)
/-- The entry opens bytes to reads, writes, or both. -/
def AclEntry.opens (e : AclEntry) (ofs n : Nat) (rd wr : Bool) : Bool :=
  e.valid && decide (e.q2.toNat ≤ ofs) && decide (ofs + n ≤ e.q3.toNat + 65536) &&
    (!rd || e.q1.getLsbD 33) && (!wr || e.q1.getLsbD 34)

/-- The sender's check: an access to a peer's memory needs an entry of the VF's egress table whose range, taken within the
peer's window, covers it, and a fabric ID (R379). -/
def State.egressOk (s : State) (vf pa n : Nat) (rd wr : Bool) : Bool :=
  if paWindow pa = 0 || 0xC0 < paWindow pa then true
  else s.fabricId.isSome && (kvVals (s.ctx vf).egress).any (fun e =>
    aclByte e 0 + 1 == paWindow pa && e.opens (pa % 2 ^ 40) n rd wr)

/-- A module with no fabric ID reaches no peer's memory, not even for a supervisor core that serves no VF (R379). -/
def State.linked (s : State) (pa : Nat) : Bool := paWindow pa = 0 || 0xC0 < paWindow pa || s.fabricId.isSome

/-! ### Where the executing agent stands -/

/-- The cluster and core of the executing agent; none for a supervisor core, which accesses memory at its home. -/
def myPlace : M (Option (Nat × Nat)) := do
  match agentCid (← me) with
  | some cid => do
    let c ← getCrew cid
    pure (some (c.cl, c.core))
  | none => pure none
def myCl : M (Option Nat) := do pure ((← myPlace).map Prod.fst)

/-- The crew's scratchpad aperture (R161), as an instruction that has begun and waits found it (R354). -/
def myAperture : M (Nat × Nat) := do
  match agentCid (← me) with
  | some cid => do
    let c ← getCrew cid
    let now := ((← get).ctx c.vf).spva
    pure (((← myTh).began.map Prod.fst).getD now |>.toNat, c.body.pad.size)
  | none => pure (0, 0)

/-- A scope as it covers the executing agent: a sequencer context's .core is its cluster (R193). -/
def effScope (sc : Scope) : M Scope := do
  match ← me, sc with
  | .seq _ _, .core => pure .clus
  | _, sc => pure sc

/-- The compute die of the executing agent: four supervisor cores stand on each (R3). -/
def myDie : M Nat := do
  match ← me with
  | .sup k => pure (k / 4)
  | _ => pure (((← myPlace).map Prod.fst).getD 0 / Config.clustersPerDie)

/-! ### The checks of R149 -/

inductive AccKind where
  | load | store | atomic
  deriving DecidableEq, Repr

/-- One access of a lane, or the one access of a uniform instruction, after translation. -/
structure Loc where
  lane : Nat
  va : Nat
  pa : Nat
  pte : Nat
  entry : Word
  large : Bool
  deriving DecidableEq, Repr

def Loc.line (l : Loc) : Nat := lineOf l.pa

/-- The addresses of an access: by lane, with whether it is uniform, the bytes of each, and the labels of the address
registers (R146, R147, R327). -/
structure Acc where
  uni : Bool
  size : Nat
  eas : List (Nat × Int)
  alab : List Lbl
  deriving Repr

/-- Raises a fault of an access: on the failing lanes with their addresses, or, for a uniform access, on all active
lanes with its one address (R149, R327). -/
def raiseAcc {α : Type} (a : Acc) (code sub : Nat) (bad : List (Nat × Int)) : M α := do
  let th ← myTh
  let pages := (a.eas.map (fun e => e.2.toNat / 65536)).eraseDups
  if a.uni then
    throw (.trap { code := code, sub := sub, lanes := th.exm, alab := a.alab, pages := pages,
                   uaddr := bad.head?.map (fun e => BitVec.ofInt 64 e.2) })
  else
    throw (.trap { code := code, sub := sub, lanes := maskOf (bad.map Prod.fst), alab := a.alab, pages := pages
                   addrs := bad.map (fun e => (e.1, BitVec.ofInt 64 e.2)) })

/-- One check over every lane: the fault of the lanes that fail it. -/
def checkAll (a : Acc) (code sub : Nat) (fails : Nat × Int → Bool) : M Unit :=
  match a.eas.filter fails with
  | [] => pure ()
  | bad => raiseAcc a code sub bad

/-- Canonical: bits [63:57] equal bit 56, and the address was computed within 64 bits (R315). -/
def canonical (ea : Int) : Bool :=
  (decide (0 ≤ ea) && decide (ea < 2 ^ 56)) || (decide (2 ^ 64 - 2 ^ 56 ≤ ea) && decide (ea < 2 ^ 64))

/-- An access whose bytes run past the last address of its half (R315). -/
def crosses (ea : Int) (size : Nat) : Bool :=
  (decide (ea < 2 ^ 56) && decide (2 ^ 56 < ea + size)) || decide (2 ^ 64 < ea + size)

/-- An address in the crew's own aperture, which a crew without a scratchpad does not have (R161). -/
def inAperture (ap : Nat × Nat) (ea : Int) (size : Nat) : Bool :=
  decide (0 < ap.2) && decide ((ap.1 : Int) < ea + size) && decide (ea < (ap.1 : Int) + (ap.2 : Int))

def keyDenied (pkr : Word) (k : AccKind) (e : Word) : Bool :=
  let r := pkr.getLsbD (2 * pteKey e)
  let w := pkr.getLsbD (2 * pteKey e + 1)
  match k with
  | .load => r
  | .store => w
  | .atomic => r || w

def isWrite (k : AccKind) : Bool := k != .load

/-- Steps 1 to 4 of R149, then the A and D bits. The executing agent's context and keys govern. -/
def checkAcc (k : AccKind) (a : Acc) : M (List Loc) := do
  let ap ← myAperture
  let vf ← myVf
  let cl ← myCl
  let sup := (← myPlace).isNone && (← myVf?).isNone
  checkAll a 0x05 0 (fun e => !canonical e.2)
  let s ← get
  let tr : Nat × Int → Walk := fun e =>
    if sup then .leaf 0 (BitVec.ofNat 64 (e.2.toNat / 65536 % 2 ^ 36 * 65536 + 0xF)) false
    else s.translate vf cl e.2.toNat
  let badPa : Nat × Int → Bool := fun e =>
    match tr e with
    | .leaf _ en l => paReserved (pteAddr en l e.2.toNat) ||
      (if sup then !s.linked (s.normPa (pteAddr en l e.2.toNat))
       else !s.egressOk vf (s.normPa (pteAddr en l e.2.toNat)) a.size (k != .store) (k != .load))
    | .absent _ => false
  checkAll a 0x06 0 (fun e => crosses e.2 a.size || inAperture ap e.2 a.size || badPa e)
  checkAll a 0x1B 0 (fun e => e.2 % a.size != 0)
  let absent : Nat × Int → Option Nat := fun e => match tr e with | .absent b => some b | .leaf _ _ _ => none
  match a.eas.filter (fun e => (absent e).isSome) with
  | [] => pure ()
  | e :: rest => raiseAcc a 0x07 ((absent e).getD 0) (e :: rest)
  let entry : Nat × Int → Word := fun e => match tr e with | .leaf _ en _ => en | .absent _ => 0
  let pkr ← myPkr
  checkAll a 0x08 0 (fun e => keyDenied pkr k (entry e))
  checkAll a 0x09 1 (fun e => isWrite k && !pteW (entry e))
  let locs := a.eas.filterMap (fun e => match tr e with
    | .leaf p en l => some { lane := e.1, va := e.2.toNat, pa := s.normPa (pteAddr en l e.2.toNat), pte := p,
                             entry := en, large := l : Loc }
    | .absent _ => none)
  if !sup then
    modify (fun s => locs.foldl (fun s l => (s.noteUse vf cl l.va l.pte l.entry l.large).setAD vf l.pte (isWrite k)) s)
  pure locs

/-! ### Claims (R165, R169) -/

def claimH1 (g : Nat) : Nat := g % 1024
def claimH2 (g : Nat) : Nat := (37 * (g % 1024) + (g / 1024) % 1024) % 1024
def claimBits (g : Nat) : Mask := laneBit (claimH1 g) ||| laneBit (claimH2 g)

/-- Whether the executing agent's team is in its commit phase. -/
def inCommitPhase : M Bool := do
  match ← me with
  | .frag cid t _ => pure (((← get).team? cid t).map Team.phase == some .commit)
  | .seq cid x => do
    let c ← getCrew cid
    pure (((kvFind c.body.seqs x).bind (fun q => kvFind c.body.teams q.team)).map Team.phase == some .commit)
  | .sup _ => pure false

/-- The claim label that joins every address label of a commit phase (R63). -/
def claimLabel : M (List Lbl) := do
  if ← inCommitPhase then pure [(← myCrew).body.clab] else pure []

/-- Step 7 of R149: each 16-byte granule written has both its bits in the item's signature. -/
def checkClaims (a : Acc) (vas : List (Nat × Nat)) : M Unit := do
  if ← inCommitPhase then
    let sig := (← myCrew).body.sig
    let bad := vas.filter (fun e => claimBits (e.2 / 16) &&& sig != claimBits (e.2 / 16))
    match bad with
    | [] => pure ()
    | _ => raiseAcc a 0x11 0 (a.eas.filter (fun e => (bad.map Prod.fst).contains e.1))

/-! ### Labels of granules -/

/-- The label of a granule (R51). One outside the module's memory (the host's, or a peer's window) has one of its own here too, public
until an LRAISE raises it, which the spec leaves open (log 69). -/
def State.granLab (s : State) (line : Nat) : Lbl := kvGet 0 s.gran line

/-- Step 8 of R149: the granule of each access dominates that access's check label (R53). -/
def checkFlow (a : Acc) (grans : List (Nat × Lbl)) (labOf : Nat → Lbl) : M Unit := do
  let c := (← get).ctx (← myVf)
  let bad := grans.filter (fun e => !c.dominates e.2 (labOf e.1))
  match bad with
  | [] => pure ()
  | _ => raiseAcc a 0x0A 0 (a.eas.filter (fun e => (bad.map Prod.fst).contains e.1))

/-! ### Externalisation, promotion and capacity (R205, R208, R322, R334) -/

/-- Unpaired crews and leading copies on a core, other than one, that hold an uncommitted byte of a line. -/
def State.holders (s : State) (cl core line : Nat) (but : Option Nat) : List Nat :=
  (s.crews.filter (fun e => some e.1 != but && e.2.resident && e.2.cl == cl && e.2.core == core && e.2.copy != .trail &&
    (e.2.unc.any (fun u => lineOf u.pa == line) ||
      e.2.body.pad.dirtyHit line))).map Prod.fst

/-- Commit on externalisation: other crews of the core that hold the line uncommitted commit first (R205); a pair's is waited for
(R307). -/
def externalise (line : Nat) : M Unit := do
  match ← myPlace with
  | some (cl, core) => commitAll ((← get).holders cl core line (agentCid (← me))) (ask := false)
  | none => pure ()

/-- The executing agent belongs to a copy of a pair. -/
def isPaired : M Bool := do
  match agentCid (← me) with
  | some cid => do pure ((← getCrew cid).copy != .solo)
  | none => pure false

/-- A line met under another virtual tag is evicted before it is used, after the commit points it needs (R322). -/
def retag (vf va line : Nat) : M Unit := do
  match ← myPlace with
  | none => pure ()
  | some (cl, core) => do
    let s ← get
    match kvFind (s.l1 cl core).tags line with
    | some t =>
      if t == vtag vf va then pure () else do
        let hs := s.holders cl core line none
        let ag ← me
        let mine := if ← isPaired then agentCid ag else none
        if hs.any (fun k => some k == mine) then commitHere else pure ()
        commitAll (hs.filter (fun k => some k != mine))
        if (← get).wtReady cl core [line] then pure () else do
          modify (fun s => s.askHolders [line])
          throw (.park .pinned)
        modify (fun s => (s.wtLine cl core line).modL1 cl core (fun l =>
          { l with clean := kvDel l.clean line, tags := kvSet l.tags line (vtag vf va) }))
    | none => modify (fun s => s.modL1 cl core (fun l => { l with tags := kvSet l.tags line (vtag vf va) }))

/-- Whether a scope, taken from a place and its compute die, covers a core (R193, R210). -/
def covers (sc : Scope) (at_ : Option (Nat × Nat)) (die cl core : Nat) : Bool :=
  match sc, at_ with
  | .core, some (c, k) => c == cl && k == core
  | .clus, some (c, _) => c == cl
  | .core, none => false
  | .clus, none => false
  | .die, _ => die == cl / Config.clustersPerDie
  | .dev, _ => true
  | .sys, _ => true

/-- The release of a notice stands in a window that its crew has not committed, or its pair not matched (R209). -/
def State.unmatched (s : State) (n : Notice) : Bool :=
  match kvFind s.crews n.cid with
  | some c => c.copy != .solo && decide (c.matched ≤ n.win)
  | none => false

/-- What a promotion does for some notices once it can: the crews' commit points and the write-through of their cores (R208),
or, while something must wait, what it asks for. A pair's release waits for the match of its window (R209). -/
def State.promoteNotices (s : State) (ns : List Notice) : Bool × State :=
  match s.commitOthers ((ns.filter s.unmatched).map Notice.cid).eraseDups with
  | (false, s1) => (false, s1)
  | (true, s1) =>
    let solo := ns.filter (fun n => (kvFind s1.crews n.cid).any (fun c => c.copy == .solo))
    match s1.commitOthers (solo.map Notice.cid).eraseDups with
    | (false, s2) => (false, s2)
    | (true, s2) =>
      if ns.any (fun n => s2.coreHeld n.cl n.core []) then
        (false, s2.askHolders (ns.flatMap (fun n => s2.l1Lines n.cl n.core)))
      else (true, ns.foldl (fun s n =>
        let s1 := s.wtCoreAt n.cl n.core
        { s1 with notices := s1.notices.filter (fun m => !(m.line == n.line && m.cl == n.cl && m.core == n.core)) }) s2)

/-- An acquire's promotion of the releases whose notices a line carries (R208, R209). -/
def promote (sc : Scope) (line : Nat) : M Unit := do
  let place ← myPlace
  let die ← myDie
  let s ← get
  let ns := s.notices.filter (fun n => n.line == line && covers sc place die n.cl n.core && some (n.cl, n.core) != place)
  match s.promoteNotices ns with
  | (true, s1) => set s1
  | (false, s1) => do
    set s1
    throw (.park .commit)

/-- Lines a core's crews hold in their windows (R334). -/
def State.coreLines (s : State) (cl core : Nat) : Nat :=
  ((s.crews.filter (fun e => e.2.resident && e.2.cl == cl && e.2.core == core)).map (fun e => e.2.logLines)).sum

/-- Lines in a core's L1: clean copies, committed lines, and those that its crews' windows hold (R6). -/
def State.l1Size (s : State) (cl core : Nat) : Nat :=
  (s.l1 cl core).clean.length + (s.l1 cl core).writers.length + s.coreLines cl core

/-- An L1 that holds more than 256 KiB evicts: clean copies first, and then committed lines, which are written through
(R1, R206). Which go, the spec does not say (log 61). -/
def State.l1Trim (s : State) (cl core : Nat) : State :=
  let excess := s.l1Size cl core - Config.l1Lines
  if excess = 0 then s else
  let n := (s.l1 cl core).clean.length
  let s1 := s.modL1 cl core (fun l => { l with clean := l.clean.drop excess })
  let out := (s1.l1Lines cl core).take (excess - n)
  if s1.wtReady cl core out then s1.wtLines cl core out else s1

/-- The crews whose windows fill a core's L1 beside one crew's. -/
def State.mates (s : State) (cl core cid : Nat) : List Nat :=
  (s.crews.filter (fun e => e.1 != cid && e.2.resident && e.2.cl == cl && e.2.core == core && e.2.logLines != 0)).map Prod.fst

/-- The lines that a write adds to what a crew's windows hold: lines of its L1, and scratchpad lines, those among them that copy a
line stored to (R201, R334). -/
def Crew.newLines (c : Crew) (lines padLines : List Nat) : Nat :=
  let held := c.unc.map (fun u => lineOf u.pa)
  (lines.eraseDups.filter (fun l => !held.contains l)).length +
    ((padLines ++ lines.flatMap c.body.pad.hits).eraseDups.filter (fun l => !c.padLog.contains l)).length

/-- A write that would exceed a limit of R334 first makes the crew commit, and, where the core is full of other crews' lines,
those; a trailing copy's windows close where its leading copy's do (log 20). What one instruction writes beyond a limit it writes
in one window (log 62). -/
def reserveLines (lines : List Nat) (padLines : List Nat) : M Unit := do
  match agentCid (← me) with
  | none => pure ()
  | some cid => do
    let c ← getCrew cid
    let full : State → Crew → Bool := fun s c =>
      let n := c.newLines lines padLines
      decide (0 < n) && decide (1024 < s.coreLines c.cl c.core + n)
    if c.logLines != 0 && (full (← get) c ||
        (decide (0 < c.newLines lines padLines) && decide (512 < c.logLines + c.newLines lines padLines)))
    then limitCommit else pure ()
    if full (← get) (← getCrew cid) then commitAll ((← get).mates c.cl c.core cid) else pure ()

/-! ### Reading bytes -/

/-- One byte as an agent on a core reads it: its crew's own uncommitted store, in a stash window or in the L1, what the core's
L1 holds committed, a clean copy if one may be used, and else the home slice (R201, R203, R205, R207). -/
def State.coreByte (s : State) (c : Crew) (clean : Bool) (pa : Nat) : Byte :=
  match c.body.pad.dirtyByte? pa with
  | some b => b
  | none =>
    match c.unc.reverse.find? (fun u => u.pa == pa) with
    | some u => u.val
    | none =>
      match kvFind (s.l1 c.cl c.core).dirty pa with
      | some b => b
      | none =>
        match (if clean then kvFind (s.l1 c.cl c.core).clean (lineOf pa) else none) with
        | some cp => kvGet 0 cp pa
        | none => s.homeByte pa

def State.coreNat (s : State) (c : Crew) (clean : Bool) (pa : Nat) : Nat → Nat
  | 0 => 0
  | n + 1 => (s.coreByte c clean pa).toNat + 256 * s.coreNat c clean (pa + 1) n

/-- The bytes of a line at home, as an L1 fill copies them. -/
def State.lineCopy (s : State) (line : Nat) : KV Byte :=
  (List.range 128).foldl (fun m k => kvPut 0 m (128 * line + k) (s.homeByte (128 * line + k))) []

def isRel (o : Ord4) : Bool := o == .rel || o == .ar
def isAcq (o : Ord4) : Bool := o == .acq || o == .ar
/-- A location whose accesses are performed at the base die of its channel (R219). -/
def Loc.ms (l : Loc) : Bool := pteMs l.entry
/-- A location outside the module (R211). -/
def Loc.outside (l : Loc) : Bool := !paLocal l.pa

/-- An acquire at .clus or wider drops the core's clean lines (R207). -/
def dropClean : M Unit := do
  match ← myPlace with
  | some (cl, core) => modify (fun s => s.modL1 cl core (fun l => { l with clean := [] }))
  | none => pure ()

def wider (sc : Scope) : Bool := sc != .core

/-- The executing agent belongs to a trailing copy. -/
def isTrail : M Bool := do
  match agentCid (← me) with
  | some cid => do pure ((← getCrew cid).copy == .trail)
  | none => pure false

/-- A trailing copy takes the value of its acquire from the queue; its core's clean lines go all the same (R196, R207). -/
def acquireTrail (sc : Scope) : M Unit := do
  if (← isTrail) && wider (← effScope sc) then dropClean else pure ()

/-- What an acquire at a scope does before it reads a line: promotion, which a pair's leading copy alone asks for, and the
loss of clean copies. -/
def acquireLine (sc : Scope) (line : Nat) : M Unit := do
  if wider sc then
    if ← isTrail then pure () else promote sc line
    dropClean

/-- A clean copy of a line enters a core's L1. -/
def State.l1Fill (s : State) (cl core line : Nat) : State :=
  ((s.l1Enter cl core [line]).modL1 cl core (fun x => { x with clean := kvSet x.clean line (s.lineCopy line) })).l1Trim cl core

/-- Every byte of a line is one that the crew or its core's L1 has stored and not performed. -/
def State.storedWhole (s : State) (c : Crew) (line : Nat) : Bool :=
  (List.range 128).all (fun k => c.unc.any (fun u => u.pa == 128 * line + k) ||
    (kvFind (s.l1 c.cl c.core).dirty (128 * line + k)).isSome)

/-- The line is not poisoned at home or in the core's L1, and no peer refuses it, or the load consumes poison (R344, R382). -/
def checkPoison (line : Nat) : M Unit := do
  let s ← get
  match agentCid (← me) with
  | none => if s.bad line then throw (.poison (128 * line)) else pure ()
  | some cid => do
    let c ← getCrew cid
    if s.l1Bad c.cl c.core line || (s.bad line && !s.storedWhole c line) then
      throw (.poison (128 * line))
    else pure ()

def checkPoisons : List Loc → M Unit
  | [] => pure ()
  | l :: ls => do checkPoison l.line; checkPoisons ls

/-- A line that a load reads stands in its slice, unless a clean copy in the core's L1 answers the load. -/
def Loc.touch (l : Loc) (vf n : Nat) (hit : Bool) (s : State) : State := if hit then s else s.touchHome vf l.pa n l.ms

/-- One location read by a load with a scope and an order: a number of n bytes. A load that reads at home leaves no older clean
copy behind, so that no later load of its agent reads an older store (R195). -/
def loadLoc (sc : Scope) (o : Ord4) (n : Nat) (l : Loc) : M Nat := do
  let vf ← myVf
  let sc ← effScope (if l.outside && isAcq o then .sys else sc)
  if !l.ms then
    externalise l.line
    retag vf l.va l.line
  if isAcq o then acquireLine sc l.line
  checkPoison l.line
  match agentCid (← me) with
  | none => do
    modify (l.touch vf n false)
    pure ((← get).homeNat l.pa n)
  | some cid => do
    let c ← getCrew cid
    let useClean := !wider sc && !isAcq o && !l.ms
    modify (fun s => l.touch vf n (useClean && (kvFind (s.l1 c.cl c.core).clean l.line).isSome) s)
    let s ← get
    let v := if l.ms then s.homeNat l.pa n else s.coreNat c useClean l.pa n
    if useClean && (kvFind (s.l1 c.cl c.core).clean l.line).isNone then
      modify (fun s => s.l1Fill c.cl c.core l.line)
    else if useClean || l.ms then pure ()
    else modify (fun s => s.modL1 c.cl c.core (fun x => { x with clean := kvDel x.clean l.line }))
    pure v

/-! ### The load-value queue of a pair (R310) -/

def lvqSize (q : KV (List LvqEntry)) : Nat := (q.map (fun e => e.2.length)).sum

/-- Values that a pair obtains once: the leading copy performs an instruction's accesses and queues the values with their
addresses, the trailing copy takes them from the queue. Where the addresses differ, that is a mismatch of its open window, which
is taken up when the windows before it have matched (R310). -/
def once (addrs : List Nat) (act : M (List Word)) : M (List Word) := do
  match agentCid (← me) with
  | none => act
  | some cid => do
    let c ← getCrew cid
    let key := agentKey (← me) (← myTh)
    match c.copy with
    | .solo => act
    | .lead => do
      if 64 ≤ lvqSize c.lvq then do
        modify (fun s => s.forceClose cid)
        throw (.park .queue)
      else pure ()
      let vs ← act
      modify (fun s => s.modCrew cid (fun c => { c with lvq := kvSet c.lvq key (kvGet [] c.lvq key ++ [(addrs, vs)]) }))
      pure vs
    | .trail => do
      match (match kvFind (← get).crews c.partner with | some p => kvGet [] p.lvq key | none => []) with
      | [] => throw (.park .queue)
      | (as, vs) :: rest => do
        if as != addrs && !c.closed.isEmpty then throw (.park .queue)
        else if as != addrs then do
          let other := match kvFind (← get).crews c.partner with | some p => crewSig p.body | none => 0
          modify (fun s => s.pairMismatch cid (other, crewSig c.body))
          throw .gone
        else do
          modify (fun s => s.modCrew c.partner (fun p => { p with lvq := kvSet p.lvq key rest }))
          pure vs

/-- The replay recorder's entry about a value that the executing agent has obtained; a trailing copy obtains none (R310, R349). -/
def recordHere (kind : Nat) (vs : List Word) : M Unit := do
  if ← isTrail then return
  let ag ← me
  match agentCid ag with
  | some cid => modify (fun s => vs.foldl (fun s v => s.record cid kind (s.agentTeam ag) (leBytes 8 v.toNat)) s)
  | none => pure ()

/-- The last store to a byte, as a crew would read it, is the crew's own. -/
def State.ownByte (s : State) (cid : Nat) (c : Crew) (pa : Nat) : Bool :=
  (c.body.pad.dirtyByte? pa).isSome || c.unc.any (fun u => u.pa == pa) ||
    (if (kvFind (s.l1 c.cl c.core).dirty pa).isSome then kvGet [] (s.l1 c.cl c.core).writers (lineOf pa) == [cid]
     else kvFind s.origin pa == some cid)
/-- For each of some locations, whether its value comes from outside the executing crew; that of one that an earlier one of the
instruction names already does not. -/
def fromOutside (n : Nat) (ls : List Loc) : M (List Bool) := do
  match agentCid (← me) with
  | none => pure []
  | some cid => do
    let s ← get
    let c ← getCrew cid
    pure ((List.range ls.length).map (fun k =>
      let pa := ((ls[k]?).map Loc.pa).getD 0
      !(List.range n).all (fun j => s.ownByte cid c (pa + j)) && !(ls.take k).any (fun l => l.pa == pa)))
/-- Values of acquire loads, WBARW and atomics: obtained once, and, where they come from outside the crew, recorded (R349). -/
def onceLogged (n : Nat) (ls : List Loc) (act : M (List Word)) : M (List Word) := do
  let out ← fromOutside n ls
  let vs ← once (ls.map Loc.va) act
  recordHere 2 (((vs.zip out).filter Prod.snd).map Prod.fst)
  pure vs

/-! ### Store signatures (R308, R312) -/

/-- Folds a term into the executing agent's signature; in a trailing copy, a store term meets the fault injector. The
data, perhaps corrupted, are answered. -/
def addTerm (store : Bool) (a : Word) (d : Word) (bytes : Nat) (l : Lbl) : M Word := do
  match agentCid (← me) with
  | none => pure d
  | some cid => do
    let c ← getCrew cid
    if c.copy == .solo then pure d else do
      let vf := c.vf
      let inj := ((← get).ctx vf).inj
      let hit := store && c.copy == .trail && inj.getLsbD 63 && (inj.extractLsb' 48 8).toNat == c.ord &&
        (inj.extractLsb' 32 16).toNat == c.matched
      let m := inj.extractLsb' 0 32
      let d' := if hit then d ^^^ BitVec.ofNat 64 (m.toNat % 2 ^ (8 * bytes)) else d
      if hit then
        let ag ← me
        modify (fun s => (s.modCtx vf (fun x => { x with inj := x.inj &&& 0x7FFFFFFFFFFFFFFF })).record cid 9 (s.agentTeam ag)
          (leBytes 8 inj.toNat))
      modTh (fun th => { th with sig := sigFold th.sig (sigTerm a d' l) })
      modify (fun s => s.modCrew cid (fun c => { c with ord := c.ord + 1 }))
      pure d'

/-! ### Writing -/

/-- Bytes held uncommitted in the core's L1 by a crew, whose stash copies stay in step (R201). -/
def Crew.hold (c : Crew) (bs : List (Nat × Byte)) : Crew :=
  { c with
    unc := c.unc.filter (fun u => !(u.win == c.win && (bs.map Prod.fst).contains u.pa)) ++
      bs.map (fun e => { win := c.win, pa := e.1, val := e.2 })
    body := { c.body with pad := bs.foldl (fun p e => p.mirror e.1 e.2) c.body.pad }
    padLog := ((bs.map (fun e => lineOf e.1)).eraseDups.flatMap c.body.pad.hits).foldl addOnce c.padLog }

/-- The executing crew holds bytes in its core's L1. -/
def holdHere (bs : List (Nat × Byte)) : M Unit := do
  let cid ← myCid
  let c ← getCrew cid
  modify (fun s => ((s.l1Enter c.cl c.core (bs.map (fun e => lineOf e.1))).modCrew cid (fun c => c.hold bs)).l1Trim c.cl c.core)

/-- Bytes that an instruction stores in the core's L1 behind its own commit point, beside others that it has performed at their homes:
the commit record moves past it, so they are committed as they are stored (R338). A leading copy writes them through, since the
window's match has been met; a trailing copy's stay its own (R309). -/
def holdPast (bs : List (Nat × Byte)) : M Unit := do
  let cid ← myCid
  let c ← getCrew cid
  if c.copy == .trail then holdHere bs
  else do
    let lines := (bs.map (fun e => lineOf e.1)).eraseDups
    modify (fun s => ((s.l1Enter c.cl c.core lines).modCrew cid (fun c =>
      { c.hold bs with unc := c.unc.filter (fun u => !(bs.map Prod.fst).contains u.pa) })).commitBytes c.cl c.core cid bs)
    modify (fun s => if c.copy == .lead && s.wtReady c.cl c.core lines then s.wtLines c.cl c.core lines else s)
    modify (fun s => s.l1Trim c.cl c.core)
/-- Bytes that an instruction stores in the core's L1, behind its own commit point or not. -/
def holdAs (past : Bool) (bs : List (Nat × Byte)) : M Unit := if past then holdPast bs else holdHere bs

/-- The executing core's clean copies of lines that its agent writes at their homes go, so that the agent's own later loads
see what it wrote (R201). -/
def dropLines (lines : List Nat) : M Unit := do
  match ← myPlace with
  | some (cl, core) => modify (fun s => s.modL1 cl core (fun l => { l with
      clean := l.clean.filter (fun e => !lines.contains e.1) }))
  | none => pure ()

/-- What the executing agent's core holds committed of some lines is written through before the agent acts on them at home
(R204, R241). Both wait where a pin or another crew's stash window makes them (R159, R217). -/
def ownHome (lines : List Nat) : M Unit := do
  awaitLines lines
  match ← myPlace with
  | some (cl, core) => do
    let mine := lines.filter ((← get).l1Lines cl core).contains
    if (← get).wtReady cl core mine then pure () else do
      modify (fun s => s.askHolders (s.wtWith cl core mine))
      throw (.park .pinned)
    modify (fun s => s.wtLines cl core mine)
  | none => pure ()

/-- Bytes performed at their home slices, or on MS pages, by the executing agent. -/
def performHome (bs : List (Nat × Byte)) (ms : Bool := false) : M Unit := do
  let lines := (bs.map (fun e => lineOf e.1)).eraseDups
  ownHome lines
  let vf ← myVf
  let who := agentCid (← me)
  modify (fun s => s.performBy who vf bs ms)
  dropLines lines

/-- The notices of .core releases of some lines are all accepted: no home slice comes to hold more than 32 (R208). -/
def State.noticesFit (s : State) (lines : List Nat) : Bool :=
  let new := lines.eraseDups
  decide (s.notices.length + new.length ≤ 32) || new.all (fun l =>
    decide ((s.notices.filter (fun n => s.homeSlice n.line == s.homeSlice l)).length +
      (new.filter (fun k => s.homeSlice k == s.homeSlice l)).length ≤ 32))

/-- The scope at which a store or atomic is a release, if it is one: its own, or, for the first relaxed one that follows a
FENCE .rel, the fence's (R196, R231). -/
def relScope (sc : Scope) (o : Ord4) : M (Option Scope) := do
  if isRel o then pure (some sc) else if o == .rlx then pure (← myTh).relNext else pure none
/-- A relaxed store or atomic has used the mark of the fence before it. -/
def takeMark (o : Ord4) : M Unit := if o == .rlx then modTh (fun th => { th with relNext := none }) else pure ()

/-- Waits until a commit point of the executing crew can be performed, and, in a leading copy, until it has slack (R307). -/
def awaitCommit : M Unit := do
  match agentCid (← me) with
  | some cid => do
    let s ← get
    let c ← getCrew cid
    if s.commitWaits cid || s.slackFull c then do
      modify (fun s => s.askHolders (s.dirtyLines c.cl c.core cid))
      throw (.park .commit)
    else if s.areaGone cid then throw (.abort 0x07 0)
    else pure ()
  | none => pure ()

/-- A commit point before an instruction whose terms close the window (R308): in a copy of a pair the terms are folded
when the window closes, once, and not when the instruction goes on after the match. -/
def commitWith (terms : M Unit) : M Unit := do
  match (← myTh).park with
  | .pair _ => commitHere
  | _ => do
    if ← isPaired then awaitCommit else pure ()
    terms
    commitHere

/-- Waits until a release at .clus or wider can be performed: its commit point, and the write-through of what the core then
holds committed, with the lines that the instruction itself stores to (R207, R217). -/
def awaitRelease (lines : List Nat) : M Unit := do
  awaitCommit
  match ← myPlace, agentCid (← me) with
  | some (cl, core), some cid => do
    let more := (← getCrew cid).openLines ++ lines
    if (← get).coreHeld cl core more then do
      modify (fun s => s.askHolders (s.l1Lines cl core ++ more))
      throw (.park .pinned)
    else pure ()
  | _, _ => pure ()

/-- Bytes of a store, lane by lane in ascending order so that the highest lane wins (R150). -/
def storeBytes (n : Nat) (ls : List (Loc × Nat)) : List (Nat × Byte) :=
  ls.foldl (fun bs e => kvSet2 bs (numBytes e.1.pa n e.2)) []
where
  kvSet2 (bs new : List (Nat × Byte)) : List (Nat × Byte) := new.foldl (fun m e => kvSet m e.1 e.2) bs

/-- The signature terms of a store, one for each written element in lane order (R308), and the data as the copy holds
them (R312). -/
def storeTerms (n : Nat) (labs : Nat → Lbl) : List (Loc × Nat) → M (List (Loc × Nat))
  | [] => pure []
  | e :: es => do
    let d ← addTerm true (BitVec.ofNat 64 e.1.va) (BitVec.ofNat 64 (e.2 % 2 ^ (8 * n))) n (labs e.1.lane)
    let rest ← storeTerms n labs es
    pure ((e.1, d.toNat) :: rest)

def oneStore : M Unit := modTh (fun th => { th with outSt := th.outSt + 1 })

/-- What a store in the L1 does first about its line: other crews' uncommitted stores, another virtual tag, other crews' stash
copies. -/
def touchLine (va line : Nat) : M Unit := do
  externalise line
  retag (← myVf) va line
  match ← myPlace, agentCid (← me) with
  | some (cl, core), who => modify (fun s => s.dropMates cl core line who)
  | none, _ => pure ()
def touchAll : List Loc → M Unit
  | [] => pure ()
  | l :: ls => do touchLine l.va l.line; touchAll ls

/-- What the core of the executing crew holds committed is written through. -/
def writeThroughHere : M Unit := do
  match agentCid (← me) with
  | some cid => modify (fun s => s.wtCoreOf cid)
  | none => pure ()

/-- A release at .clus or wider after its stores: the crew's commit point, and the write-through of what the core holds
committed (R207). A copy of a pair closes its window instead, and the match performs it (R307). -/
def releaseNow : M Done := do
  if ← isPaired then pure { close := true }
  else do
    let cid ← myCid
    modify (fun s => s.commitNow cid)
    modify (fun s => s.wtCoreOf cid)
    pure { past := true }

/-- A .core release leaves a notice for each line it stores (R208). One behind its own commit point is not undone with the window
that has begun there (R209, R338). -/
def noticeLines (past : Bool) (lines : List Nat) : M Unit := do
  let cid ← myCid
  let c ← getCrew cid
  if c.copy == .trail then return
  let ns : List Notice := lines.eraseDups.map (fun l =>
    { line := l, cl := c.cl, core := c.core, cid := cid, win := if past then c.matched - 1 else c.win })
  modify (fun s => { s with notices := s.notices ++ ns })

/-- Performs a checked store: one value of n bytes at each location. It answers how the instruction ends: a store to an
MS page, or one released at .clus or wider, is behind its commit point (R151, R206, R207, R219). -/
def storeLocs (sc : Scope) (o : Ord4) (n : Nat) (labs : Nat → Lbl) (ls : List (Loc × Nat)) : M Done := do
  let rel ← relScope (← effScope sc) o
  let rel := if ls.any (fun e => e.1.outside) then rel.map (fun _ => Scope.sys) else rel
  let ms := ls.any (fun e => e.1.ms)
  let cached := ls.filter (fun e => !e.1.ms)
  let lines := cached.map (fun e => e.1.line)
  let all := ls.map (fun e => e.1.line)
  let s0 ← get
  let wide := rel.any (fun r => wider r || !s0.noticesFit all)
  match agentCid (← me) with
  | none => do
    performHome (storeBytes n cached)
    if ms then performHome (storeBytes n (ls.filter (fun e => e.1.ms))) true else pure ()
    takeMark o
    oneStore
    done
  | some _ => do
    touchAll (cached.map Prod.fst)
    if ms then commitWith (do let _ ← storeTerms n labs ls)
    else if wide then pure ()
    else reserveLines lines []
    if wide then awaitRelease lines else pure ()
    if ms && !(← isTrail) then performHome (storeBytes n (ls.filter (fun e => e.1.ms))) true else pure ()
    let held ← if ms then pure cached else storeTerms n labs cached
    holdAs ms (storeBytes n held)
    takeMark o
    oneStore
    if wide then
      if ms then do
        writeThroughHere
        pure { past := true }
      else releaseNow
    else do
      if rel.isSome then noticeLines ms all else pure ()
      pure { past := ms }

/-- Performs one read-modify-write of n bytes at a checked location, in the L1 or at its home, and answers the old value; a
failed compare writes nothing. Where it is performed at home, the commit point has been made (R225, R227). It reads no clean copy
and leaves none behind, so that no later load of its agent reads an older store (R195). -/
def rmwAt (inL1 past : Bool) (n : Nat) (l : Loc) (f : Nat → Option Nat) : M Nat := do
  if inL1 then
    let cid ← myCid
    let c ← getCrew cid
    let old := (← get).coreNat c false l.pa n
    match f old with
    | some v => holdAs past (numBytes l.pa n v)
    | none => pure ()
    dropLines [l.line]
    pure old
  else do
    ownHome [l.line]
    let old := (← get).homeNat l.pa n
    let vf ← myVf
    let who := agentCid (← me)
    match f old with
    | some v => modify (fun s => s.performBy who vf (numBytes l.pa n v) l.ms)
    | none => modify (l.touch vf n false)
    dropLines [l.line]
    pure old
/-- It consumes poison, as a load does (R344). -/
def rmwLoc (inL1 past : Bool) (n : Nat) (l : Loc) (f : Nat → Option Nat) : M Nat := do
  checkPoison l.line
  rmwAt inL1 past n l f

end Sys2Proof.Machine
end

