-- ==== Sys2Proof/Machine/Operands.lean ====
section
/-! DEFINITION. Operand forms: the checks that every instruction makes on the registers it names, vector register words,
mask registers, their labels, addresses of the memory forms, and the opening of lookahead windows. -/

namespace Sys2Proof.Machine

/-! ### Issue: register checks, lookahead, write spans -/

/-- A v register lies in an open scope of the team (R33). -/
def Team.inScope (tm : Team) (r : Nat) : Bool := tm.scopes.any (fun e => decide (e.1 ≤ r) && decide (r < e.1 + e.2))

/-- A register name exists for the executing agent: v registers in open scopes, none at all for an agent without
vector and mask registers (R33, R83). -/
def checkName : RegName → M Unit
  | .s _ => pure ()
  | .v n => do
    let tm ← myTeam
    if tm.inScope n then pure () else illegal .badPair
  | .m _ => do
    let _ ← myFrag
    pure ()

def checkNames : List RegName → M Unit
  | [] => pure ()
  | n :: ns => do checkName n; checkNames ns

/-- Windows that have run out: their instructions complete now; a load still held makes the fragment wait (R40,
R155). -/
def settleWindows : M Unit := do
  let th ← myTh
  if th.pend.any (fun p => p.left == 0 && p.held.isSome) then throw (.park .window)
  else if th.pend.any (fun p => p.left == 0) then
    modTh (fun th => { th with pend := th.pend.filter (fun p => p.left != 0) })
  else pure ()

/-- A load of the thread is still held (R155). -/
def Thread.holding (th : Thread) : Bool := th.pend.any (fun p => p.held.isSome)
/-- What a load could not take back if it faulted waits until none is held (R41, log 27). -/
def awaitHeld : M Unit := do if (← myTh).holding then throw (.park .held) else pure ()

/-- A control instruction or a wait ends every window (R40). -/
def closeWindows : M Unit := do
  let th ← myTh
  if th.holding then throw (.park .held)
  else if th.pend.isEmpty then pure () else modTh (fun th => { th with pend := [] })

/-- The innermost open write span (R60, R62). -/
def Thread.openSpan (th : Thread) : Option OpenSpan := (th.stack.filterMap (fun r => r.span)).head?

/-- A write that the open span declares (R60). -/
def spanAllows (sp : Span) : RegName → Bool
  | .s n => n == 63 || sp.smask.getLsbD n
  | .v n => decide (sp.vlo ≤ n) && decide (n < sp.vlo + sp.vn)
  | .m n => n == 0

/-- The open span declares each write (R60). -/
def declared (ws : List RegName) : M Unit := do
  match (← myTh).openSpan with
  | none => pure ()
  | some o => if ws.all (spanAllows o.span) then pure () else trapU 0x0D

/-- What every instruction checks before anything else of its own: the registers it names exist, no open window holds
one of them (R41), and the open span declares each write (R60). The register sz holds nothing, and never counts as pending, which the
spec leaves open (log 66). -/
def issue (rs ws : List RegName) : M Unit := do
  checkNames (rs ++ ws)
  settleWindows
  let th ← myTh
  if th.pend.any (fun p => p.dsts.any (fun d => (rs ++ ws).contains d && d != .s 63)) then trapU 0x03
  else declared ws

/-- Opens the lookahead window of a long-latency instruction: its destinations stay pending for la further
instructions (R40, R41). A sequencer context has no window: it waits for its result in program order (R268). -/
def openWindow (dsts : List RegName) (la cls : Nat) (held : Option HeldLoad := none) : M Unit := do
  match ← me with
  | .seq _ _ => pure ()
  | _ => modTh (fun th => { th with pend := th.pend ++ [{ dsts := dsts, left := la + 1, cls := cls, held := held }] })

/-! ### Vector register words (R32, R48, R49) -/

def vkey (r g : Nat) : Nat := 32 * r + g
def Team.word (tm : Team) (r g : Nat) : RegWord := kvGet {} tm.v (vkey r g)
def Team.lane (tm : Team) (r l : Nat) : Lane := (tm.word r (l / 32)).lanes.getD (l % 32) 0
def Team.vlab (tm : Team) (r g : Nat) : Lbl := (tm.word r g).lab

/-- The labels of a vector source over the groups that hold an active lane (R48, cross-lane). -/
def Team.crossLab (tm : Team) (exm : Mask) (r : Nat) : List Lbl := (mgroups exm).map (fun g => tm.vlab r g)

/-- The words of a team that a crew's open window has not written yet. -/
def Crew.newWords (c : Crew) (t : Nat) (keys : List Nat) : List LogKey :=
  (keys.filter (fun k => !c.regLog.contains (t, k))).map (fun k => (t, k))

/-- The first write of the window to a register word enters the register log, which holds 512 words; one more first
makes the crew commit (R333, R334). -/
def logWords (keys : List Nat) : M Unit := do
  let (cid, t, _) ← myFrag
  let c ← getCrew cid
  let n := (c.newWords t keys).length
  if n = 0 then pure ()
  else do
    if c.regHeld + n > Config.logWords then limitCommit else pure ()
    modify (fun s => s.modCrew cid (fun c => { c with regLog := c.regLog ++ c.newWords t keys }))

/-- The label a written word takes: W, or W joined with the old label when lanes of the group that exist are not
written (R48, R49). -/
def wordLabel (live exm : Mask) (g : Nat) (old : Lbl) (ls : List Lbl) : M Lbl := do
  let w ← joinAll ls
  if mword live g &&& ~~~(mword exm g) = 0 then pure w else join2 w old

def wordLabels (tm : Team) (exm : Mask) (d : Nat) (labs : Nat → List Lbl) : List Nat → M (List (Nat × Lbl))
  | [] => pure []
  | g :: gs => do
    let l ← wordLabel tm.live exm g (tm.vlab d g) (labs g)
    let rest ← wordLabels tm exm d labs gs
    pure ((g, l) :: rest)

/-- One word with the active lanes replaced. -/
def mixWord (old : RegWord) (active : BitVec 32) (f : Nat → Lane) (lab : Lbl) : RegWord :=
  { lanes := (List.range 32).map (fun j => if active.getLsbD j then f j else old.lanes.getD j 0), lab := lab }

def Team.putWord (tm : Team) (r g : Nat) (w : RegWord) : Team := { tm with v := kvPut {} tm.v (vkey r g) w }

/-- Writes the active lanes of vD: lane l takes f l, and each written word its label from the source labels of its group
and the PC label. Every label is formed before any word is written. -/
def writeV (d : Nat) (labs : Nat → List Lbl) (f : Nat → Lane) : M Unit := do
  let th ← myTh
  let tm ← myTeam
  let gs := mgroups th.exm
  if gs.isEmpty then pure ()
  else do
    let ls ← wordLabels tm th.exm d (fun g => labs g ++ [th.pcl]) gs
    logWords (gs.map (vkey d))
    modTeam (fun tm => ls.foldl (fun tm e =>
      tm.putWord d e.1 (mixWord (tm.word d e.1) (mword th.exm e.1) (fun j => f (32 * e.1 + j)) e.2)) tm)

/-- What a write of vD needs is prepared before the effect that yields its value: its labels exist (a full table faults
now) and its words stand in the register log. -/
def prepareV (d : Nat) (labs : Nat → List Lbl) : M Unit := do
  let th ← myTh
  let tm ← myTeam
  let _ ← wordLabels tm th.exm d (fun g => labs g ++ [th.pcl]) (mgroups th.exm)
  logWords ((mgroups th.exm).map (vkey d))

/-- Names of vector destinations: the register must exist (R33), and an instruction with an empty exm writes nothing
(R26). It then raises no 0x03 for a destination that is pending, while it does for a source: the spec does not say whether the check
by register number (R41) looks at exm (log 66). -/
def vDst (d : Nat) : M (List RegName) := do
  checkName (.v d)
  pure (if (← myTh).exm = 0 then [] else [.v d])
/-- The same of a mask destination: an agent without masks has none to name (R83). -/
def mDst (d : Nat) : M (List RegName) := do
  checkName (.m d)
  pure (if (← myTh).exm = 0 then [] else [.m d])

/-! ### Uniform destinations (R101) -/

/-- WriteS: sz discards. -/
def writeS (d : Nat) (v : Word) (l : Lbl) : M Unit := do
  let ag ← me
  modify (fun s => s.writeS ag d { val := v, lab := l })

/-- A uniform instruction: checks, then the result of its sources with LabelU of them (R101). -/
def uniform (d : Nat) (srcs : List Nat) (f : List Word → Word) : M Done := do
  issue (srcs.map .s) [.s d]
  let l ← labelU srcs
  let vs ← srcs.mapM valS
  writeS d (f vs) l
  done

/-! ### Mask registers (R112) -/

/-- A mask's bits; m0 is the fragment's exm (R27). -/
def maskBits (n : Nat) : M Mask := do
  if n = 0 then pure (← myTh).exm else pure (kvGet {} (← myTeam).m n).bits
/-- A mask's label; exm's is the PC label (R47). -/
def maskLab (n : Nat) : M Lbl := do
  if n = 0 then myPcl else pure (kvGet {} (← myTeam).m n).lab

/-- Writes the bits of some lanes of a mask with a label: m0 takes them only under a PC label that dominates it, and
within the fragment's lane set; another mask joins its old label unless every existing lane of the team is written
(R49, R50, R112). -/
def writeM (d : Nat) (lanes bits : Mask) (labs : List Lbl) : M Unit := do
  let th ← myTh
  let w ← joinAll (labs ++ [th.pcl])
  if d = 0 then
    if ← dominates th.pcl w then
      modTh (fun th => { th with exm := ((th.exm &&& ~~~lanes) ||| (bits &&& lanes)) &&& th.f })
    else trapU 0x0D
  else do
    let tm ← myTeam
    let old := kvGet {} tm.m d
    let l ← if tm.live &&& ~~~lanes = 0 then pure w else join2 w old.lab
    modTeam (fun tm => { tm with
      m := kvPut {} tm.m d (MReg.mk (((old.bits &&& ~~~lanes) ||| (bits &&& lanes)) &&& tm.live) l) })

/-- A mask instruction whose result is given for each active lane; with an empty exm it writes nothing (R112). -/
def maskOp (d : Nat) (rs : List RegName) (labs : M (List Lbl)) (bits : M Mask) : M Done := do
  issue rs (← mDst d)
  let th ← myTh
  if th.exm = 0 then done
  else do
    let ls ← labs
    let b ← bits
    writeM d th.exm b ls
    done

/-! ### Vector instructions by shape (R123) -/

/-- A lane-wise instruction: vector sources, uniform-kind source labels, and the result of each lane. -/
def lanewise (d : Nat) (vs : List Nat) (others : List RegName) (otherLabs : M (List Lbl))
    (f : Team → Nat → Lane) : M Done := do
  issue (vs.map .v ++ others) (← vDst d)
  if (← myTh).exm = 0 then done
  else do
    let tm ← myTeam
    let ol ← otherLabs
    writeV d (fun g => vs.map (fun r => tm.vlab r g) ++ ol) (f tm)
    done

def vec1 (d a : Nat) (f : Lane → Lane) : M Done :=
  lanewise d [a] [] (pure []) (fun tm l => f (tm.lane a l))
def vec2 (d a b : Nat) (f : Lane → Lane → Lane) : M Done :=
  lanewise d [a, b] [] (pure []) (fun tm l => f (tm.lane a l) (tm.lane b l))
def vec3 (d a b c : Nat) (f : Lane → Lane → Lane → Lane) : M Done :=
  lanewise d [a, b, c] [] (pure []) (fun tm l => f (tm.lane a l) (tm.lane b l) (tm.lane c l))

/-! ### Addresses (R146, R147) -/

/-- A register number plus a signed offset, exact. -/
def eaUniform (a b : Word) (ofs : Int) : Int := (a.toNat : Int) + (b.toNat : Int) + ofs

/-- A lane's address from a base, an index scaled by the access size under SC, and an offset. -/
def eaLane (base : Word) (idx : Option Lane) (sc : Bool) (size : Nat) (ofs : Int) : Int :=
  (base.toNat : Int) + (match idx with
    | none => 0
    | some i => if sc then i.toInt * size else i.toInt) + ofs

/-- A lane's 64-bit address from a register pair. -/
def eaPair (lo hi : Lane) (ofs : Int) : Int := ((hi.toNat * 2 ^ 32 + lo.toNat : Nat) : Int) + ofs

/-- The uniform address of an access, with the labels of its registers and the commit phase's claim label. -/
def uniAcc (size : Nat) (a b : Nat) (ofs : Int) : M Acc := do
  let ra ← rdS a
  let rb ← rdS b
  pure { uni := true, size := size, eas := [(0, eaUniform ra.val rb.val ofs)],
         alab := [ra.lab, rb.lab] ++ (← claimLabel) }

def idxName : Option Nat → List RegName
  | some b => [.v b]
  | none => []

/-- The per-lane addresses of [sA + vB*k + o], and each group's address labels. -/
def laneAcc (size a : Nat) (idx : Option Nat) (sc : Bool) (ofs : Int) : M (Acc × (Nat → List Lbl)) := do
  let th ← myTh
  let tm ← myTeam
  let ra ← rdS a
  let cl ← claimLabel
  let labs : Nat → List Lbl := fun g => [ra.lab] ++ (match idx with | some b => [tm.vlab b g] | none => []) ++ cl
  pure ({ uni := false, size := size
          eas := (mlanes th.exm).map (fun l => (l, eaLane ra.val (idx.map (fun b => tm.lane b l)) sc size ofs))
          alab := [ra.lab] ++ (match idx with | some b => tm.crossLab th.exm b | none => []) ++ cl }, labs)

/-- The per-lane addresses of [vP + o]. -/
def pairAcc (size p : Nat) (ofs : Int) : M (Acc × (Nat → List Lbl)) := do
  let th ← myTh
  let tm ← myTeam
  let cl ← claimLabel
  pure ({ uni := false, size := size
          eas := (mlanes th.exm).map (fun l => (l, eaPair (tm.lane p l) (tm.lane (p + 1) l) ofs))
          alab := tm.crossLab th.exm p ++ tm.crossLab th.exm (p + 1) ++ cl },
        fun g => [tm.vlab p g, tm.vlab (p + 1) g] ++ cl)

/-- The check labels of a store or atomic, one for each group that holds an active lane: the data word's, the address
registers' and the PC label (R53). -/
def groupLabels (gs : List Nat) (labs : Nat → List Lbl) : M (List (Nat × Lbl)) := do
  match gs with
  | [] => pure []
  | g :: rest => do
    let l ← joinAll (labs g)
    let more ← groupLabels rest labs
    pure ((g, l) :: more)

/-- The label of a group in a list of groups. -/
def labOf (ls : List (Nat × Lbl)) (g : Nat) : Lbl := ((ls.find? (fun e => e.1 == g)).map Prod.snd).getD 0

end Sys2Proof.Machine
end

