-- ==== Sys2Proof/Machine/Ops.lean ====
section
/-! DEFINITION. Shared operations: reading code, taking an exception and returning from one, and running a meaning as one
step of the current agent. -/

namespace Sys2Proof.Machine

/-! ### Reading code (R71, R79) -/

/-- Why a word of code cannot be read: a fault code and sub-code with the word's address, or poison, with the state after the
translations that have been used (R319, R364). -/
inductive FetchErr where
  | fault (code sub va : Nat)
  | poison (pa : Nat) (after : State)
  deriving DecidableEq, Repr

/-- The unit that fetches an agent's code: a core, a cluster's sequencer, a supervisor core. -/
def State.fetchUnit (s : State) (ag : Agent) : Nat :=
  let place : Nat → Nat × Nat := fun cid => match kvFind s.crews cid with | some c => (c.cl, c.core) | none => (0, 0)
  match ag with
  | .frag cid _ _ => 4 * (place cid).1 + (place cid).2
  | .seq cid x => 512 + 2 * (place cid).1 + (match (kvFind s.crews cid).bind (fun c => kvFind c.body.seqs x) with
    | some q => if q.kind == .copy then 1 else 0
    | none => 0)
  | .sup k => 1024 + k

/-- A fetched word's key; code that a unit with no context reads stands under context 256. -/
def codeKey (unit : Nat) (vf : Option Nat) (va : Nat) : Nat := (512 * unit + vf.getD 256) * 2 ^ 64 + va

/-- A word of code as a unit fetches it: one that has been stored to since the unit last fetched it is its old or its new
value, and the spec leaves open which (R76). -/
def State.seeWord (s : State) (key va : Nat) (w : Word) : Word × State :=
  match kvFind s.code key with
  | some old => if old != w && Config.fetchOld s.tick va then (old, s) else (w, { s with code := kvSet s.code key w })
  | none => (w, { s with code := kvSet s.code key w })

/-- The context of an agent. -/
def State.vfOf (s : State) (ag : Agent) : Option Nat :=
  match ag with
  | .sup k => supVf (s.sup k)
  | ag => (agentCid ag).bind (fun cid => (kvFind s.crews cid).map Crew.vf)

/-- The checks of a clause fetch of one word in their order, and the word at its home slice. Keys do not govern it
(R320). A supervisor core with no context reads at the physical address (log 8). -/
def State.fetchWord (s : State) (unit : Nat) (vf : Option Nat) (cl : Option Nat) (ap : Nat × Nat) (va : Nat) :
    Except FetchErr (Word × State) :=
  if !canonical va then .error (.fault 0x05 0 va)
  else
    match vf with
    | none =>
      let pa := s.normPa (va % 2 ^ 52)
      if !s.linked pa then .error (.fault 0x06 0 va)
      else if s.bad (lineOf pa) then .error (.poison pa s)
      else .ok (s.seeWord (codeKey unit vf va) va (s.home64 pa))
    | some v =>
      let w := s.translate v cl va
      let badPa := match w with
        | .leaf _ e l => paReserved (pteAddr e l va) || !s.egressOk v (s.normPa (pteAddr e l va)) 8 true false
        | .absent _ => false
      if crosses va 8 || inAperture ap va 8 || badPa then .error (.fault 0x06 0 va)
      else match w with
        | .absent sub => .error (.fault 0x07 sub va)
        | .leaf p e l =>
          if !pteX e then .error (.fault 0x09 2 va)
          else
            let pa := s.normPa (pteAddr e l va)
            let s := ((s.noteUse v cl va p e l).setAD v p false).touchHome v pa 8 (pteMs e)
            if s.bad (lineOf pa) then .error (.poison pa s)
            else .ok (s.seeWord (codeKey unit vf va) va (s.home64 pa))

/-- The n words of code from an address on. -/
def State.fetchWords (s : State) (unit : Nat) (vf cl : Option Nat) (ap : Nat × Nat) (va : Nat) :
    Nat → Except FetchErr (List Word × State)
  | 0 => .ok ([], s)
  | n + 1 =>
    match s.fetchWord unit vf cl ap va with
    | .error e => .error e
    | .ok (w, s1) =>
      match s1.fetchWords unit vf cl ap (va + 8) n with
      | .error e => .error e
      | .ok (ws, s2) => .ok (w :: ws, s2)

def hdrOk (w : Word) : Bool := w.extractLsb' 60 4 == 0xF
def hdrEng (w : Word) : BitVec 3 := w.extractLsb' 57 3
/-- Instructions of the clause a header opens. -/
def hdrLen (w : Word) : Nat := (w.extractLsb' 53 4).toNat + 1
def hdrWait (w : Word) : BitVec 8 := w.extractLsb' 45 8
def hdrPri (w : Word) : Nat := (w.extractLsb' 41 4).toNat
def hdrCold (w : Word) : Bool := w.getLsbD 40

/-- A branch's read of a target or join word: its faults belong to the branch and name the word (R79). -/
def readHeader (va : Nat) : M Word := do
  let vf ← myVf?
  let cl ← myCl
  let ap ← myAperture
  let s ← get
  match s.fetchWord (s.fetchUnit (← me)) vf cl ap va with
  | .ok (w, s) => do set s; pure w
  | .error (.poison pa s) => do
    set s
    throw (.poison pa)
  | .error (.fault code sub _) => do
    let th ← myTh
    throw (.trap { code := code, sub := sub, lanes := th.exm, uaddr := some (BitVec.ofNat 64 va) })

/-! ### The trap frame in memory (R325) -/

def leField (n v : Nat) : List Byte := (List.range n).map (fun k => BitVec.ofNat 8 (v / 256 ^ k))

/-- The 256 bytes of a trap frame (R325). -/
def frameBytes (f : TrapFrame) : List Byte :=
  let sp : Span := f.armed.getD { vlo := 0, vn := 0, smask := 0 }
  leField 8 f.pc ++ leField 1 f.slot ++ leField 1 f.code ++ leField 1 f.sub ++ leField 1 f.plbl ++
  leField 1 (match f.priv with | .user => 0 | .ctxSup => 1 | .devSup => 2) ++
  leField 1 (if f.armed.isSome then 1 else 0) ++ leField 2 0 ++ leField 8 f.info.toNat ++
  leField 2 sp.vlo ++ leField 2 sp.vn ++ leField 4 0 ++ leField 8 sp.smask.toNat ++
  leField 4 (msummary f.mask).toNat ++ leField 4 0 ++ leField 128 f.mask.toNat ++ leField 80 0

def zipAddr (pa : Nat) (bs : List Byte) : List (Nat × Byte) := (List.range bs.length).map (fun k => (pa + k, bs.getD k 0))

/-- The fault record beside the frame: the faulting lanes, and each one's address (R326). -/
def recordBytes (pa : Nat) (t : Trap) : List (Nat × Byte) :=
  zipAddr (pa + 0x100) (leField 128 t.lanes.toNat) ++ (mlanes t.lanes).flatMap (fun l =>
    let a := match t.uaddr with
      | some a => a
      | none => kvGet 0 t.addrs l
    zipAddr (pa + 0x200 + 8 * l) (leField 8 a.toNat))

/-! ### Taking an exception (R42, R43, R325 to R329) -/

/-- The codes for which FAULTR.info names an address (R327). -/
def addrCode (code : Nat) : Bool :=
  [0x04, 0x05, 0x06, 0x07, 0x08, 0x09, 0x0A, 0x11, 0x14, 0x1B, 0x23].contains code

/-- FAULTR.info's value for a fault: its own, or, for the codes that name one, the address of a uniform access or branch, or
that of the lowest faulting lane (R111, R327). -/
def trapInfo (t : Trap) : Word :=
  match t.info with
  | some i => i
  | none => if !addrCode t.code then 0 else match t.uaddr with
    | some a => a
    | none => match t.addrs with
      | (_, a) :: _ => a
      | [] => 0

/-- The registers that form the address of an access or of a branch's target (R111, R146). -/
def addrRegs : Instr → List RegName
  | .ret => [.s 62]
  | .brx a => [.s a]
  | .sld _ _ _ _ _ a b _ => [.s a, .s b]
  | .sst _ _ _ _ a b _ => [.s a, .s b]
  | .vld _ _ _ _ _ _ a idx _ => .s a :: idxName idx
  | .vst _ _ _ _ _ a idx _ => .s a :: idxName idx
  | .vldx _ _ _ _ _ a _ => [.v a, .v (a + 1)]
  | .vstx _ _ _ _ a _ => [.v a, .v (a + 1)]
  | .vlds _ _ _ _ a idx _ => .s a :: idxName idx
  | .vsts _ _ _ a idx _ => .s a :: idxName idx
  | .vpref _ a idx _ => .s a :: idxName idx
  | .spwait a b _ => [.s a, .s b]
  | .atom _ _ _ _ .uniform _ _ a _ _ => [.s a]
  | .atom _ _ _ _ .pair _ _ a _ _ => [.v a, .v (a + 1)]
  | .atomc _ _ _ .uniform _ a _ _ => [.s a]
  | .atomc _ _ _ .pair _ a _ _ => [.v a, .v (a + 1)]
  | .red _ _ _ .uniform _ a _ _ => [.s a]
  | .red _ _ _ .pair _ a _ _ => [.v a, .v (a + 1)]
  | .satom _ _ _ _ _ _ a _ _ => [.s a]
  | .stashMap _ a _ _ => [.s a]
  | .stashFlush _ a _ _ => [.s a]
  | .stashUnmap _ a _ _ => [.s a]
  | .wbara _ a b _ => [.s a, .s b]
  | .wbarw _ _ _ a b _ => [.s a, .s b]
  | .wbari _ _ a b _ => [.s a, .s b]
  | .clm _ a idx _ => .s a :: idxName idx
  | .lraise _ a _ _ => [.s a]
  | .tcopy sh _ ct => [.s sh, .s ct]
  | .xfer _ sh _ ct => [.s sh, .s ct]
  | .mma _ _ _ sh _ ct => [.s sh, .s ct]
  | .shape _ a => [.s a]
  | .fork a b _ => [.s a, .s b]
  | .cast a => [.s a]
  | .qput a _ _ => [.s a]
  | .tlbinvPage a => [.s a]
  | .frinv a _ => [.s a]
  | .pgmap a => [.s a]
  | _ => []

/-- The one address of a uniform access (R327): two registers and an offset. -/
def uniRegs : Instr → Option (Nat × Nat × Int)
  | .sld _ _ _ _ _ a b ofs => some (a, b, ofs.toInt)
  | .sst _ _ _ _ a b ofs => some (a, b, ofs.toInt)
  | .satom _ _ _ _ _ _ a _ ofs => some (a, 63, ofs.toInt)
  | .spwait a b ofs => some (a, b, ofs.toInt)
  | .stashMap _ a _ ofs => some (a, 63, ofs.toInt)
  | .stashFlush _ a _ ofs => some (a, 63, ofs.toInt)
  | .stashUnmap _ a _ ofs => some (a, 63, ofs.toInt)
  | .qput a _ ofs => some (a, 63, ofs.toInt)
  | .lraise _ a _ ofs => some (a, 63, ofs.toInt)
  | .wbara _ a b ofs => some (a, b, ofs.toInt)
  | .wbarw _ _ _ a b ofs => some (a, b, ofs.toInt)
  | .wbari _ _ a b ofs => some (a, b, ofs.toInt)
  | _ => none

/-- The label of a register that an agent names; of a vector register, those of the groups that hold an active lane. -/
def State.nameLabels (s : State) (ag : Agent) (th : Thread) : RegName → List Lbl
  | .s n => [(s.readS ag n).lab]
  | .v n => match ag with
    | .frag cid t _ => match s.team? cid t with
      | some tm => tm.crossLab th.exm n
      | none => []
    | _ => []
  | .m _ => []

/-- The claim label, which joins every address label of a commit phase (R63). -/
def State.claimLabels (s : State) : Agent → List Lbl
  | .frag cid t _ => match kvFind s.crews cid with
    | some c => if (kvFind c.body.teams t).map Team.phase == some .commit then [c.body.clab] else []
    | none => []
  | _ => []

/-- The word at which a thread stands. -/
def hereWord (th : Thread) : Word := th.clause.getD th.slot 0

/-- A fault's record has the labels of the address registers of the instruction that raised it, and the one address of a
uniform access, whatever the check that failed (R111, R327). -/
def State.fullTrap (s : State) (ag : Agent) (th : Thread) (t : Trap) : Trap :=
  if t.header then t else match Sys2Proof.decode th.eng (hereWord th) with
    | .error _ => t
    | .ok i => { t with
        alab := if t.alab.isEmpty then
            (match addrRegs i with
              | [] => []
              | rs => rs.flatMap (s.nameLabels ag th) ++ s.claimLabels ag)
          else t.alab
        uaddr := match t.uaddr, uniRegs i with
          | none, some (a, b, ofs) => some (BitVec.ofInt 64 (eaUniform (s.readS ag a).val (s.readS ag b).val ofs))
          | u, _ => u }

/-- The frame that entry saves for a thread. -/
def frameOf (fn : Nat) (th : Thread) (t : Trap) : TrapFrame :=
  { frag := fn, pc := th.pc, slot := if t.header then 16 else th.slot, code := t.code, sub := t.sub, plbl := th.pcl,
    priv := th.priv, info := trapInfo t, armed := th.armed, mask := th.exm, lanes := t.lanes, addrs := t.addrs,
    uaddr := t.uaddr, alab := t.alab, pages := t.pages, len := th.clause.length }

/-- The thread as its handler starts: at the vector of the code, with the faulting lanes active, at context-supervisor
privilege, with no span armed and every outstanding result arrived (R42, R122). -/
def handlerThread (tvec : Word) (th : Thread) (t : Trap) : Thread :=
  { th with pc := tvec.toNat + 64 * t.code, slot := 0, clause := [], exm := t.lanes &&& th.f, priv := .ctxSup,
            handler := true, armed := none, park := .run, pend := [], active := false, count := th.count + 1, began := none, asked := none }

/-- Entry into a team's handler: the team's trap frame, in the state and in the context area, and the thread at the
vector. Without a vector base, or with the frame's page not present, the cast is aborted (R325, R326). -/
def State.enterHandler (s : State) (cid tn fn : Nat) (t : Trap) : State :=
  match kvFind s.crews cid, s.thread? (.frag cid tn fn) with
  | some c, some th =>
    let x := s.ctx c.vf
    let pc := BitVec.ofNat 64 th.pc
    if x.tvec = 0 then s.abortCrew cid t.code pc
    else
      match s.poolAddr c.vf (teamArea x c.block tn) with
      | none => s.abortCrew cid 0x07 0
      | some pa =>
        let fr := frameOf fn th t
        let s1 := s.writeHome c.vf (zipAddr pa (frameBytes fr) ++ recordBytes pa t)
        let s2 := s1.modTeam cid tn (fun tm => { tm with
          frame := some fr, frags := kvModify tm.frags fn (fun th => handlerThread x.tvec th t) })
        let s3 := if c.copy == .solo then s2 else
          (s2.modThread (.frag cid tn fn) (fun th => { th with sig := sigFold th.sig (sigTerm pc (BitVec.ofNat 64 t.code) 0) })).modCrew cid
            (fun c => { c with ord := c.ord + 1 })
        s3.dropTurn cid
  | _, _ => s

/-- A thread parks. An instruction that waits has begun: what it finds in %spva and %pgattr governs it to its end (R354). -/
def State.parkThread (s : State) (ag : Agent) (p : Park) : State :=
  let x := s.ctx ((s.vfOf ag).getD 0)
  { s.modThread ag (fun th => { th with park := p, active := false
                                        began := if th.clause.isEmpty then none else some (th.began.getD (x.spva, x.pgattr))
                                        unready := if th.park == .run then s.cyc else th.unready }) with cur := none }

/-- A precise fault of an agent is taken where R329 sends it: a swapped page to a supervisor core, a breakpoint under odb
to the debugger, a fault in a handler to the double fault of R43, a fault beside a sibling's handler to a wait for
the frame (R328), any other to the handler. A sequencer context stops for a supervisor core (R269); a supervisor core
that faults halts (log 8). -/
def State.takeFull (s : State) (ag : Agent) (t : Trap) : State :=
  match ag, s.thread? ag with
  | .frag cid tn fn, some th =>
    let vf := match kvFind s.crews cid with | some c => c.vf | none => 0
    if t.code == 0x07 && t.sub == 1 then s.parkThread ag (.page (trapInfo t).toNat 1 t.pages)
    else if t.code == 0x20 && (s.ctx vf).breakpoints then s.parkThread ag .debugger
    else if th.handler then (s.dropTurn cid).doubleFault cid (BitVec.ofNat 64 th.pc)
    else if ((s.team? cid tn).bind Team.frame).isSome || th.holding then
      s.parkThread ag (.fault t)
    else s.enterHandler cid tn fn t
  | .seq cid _, some _ =>
    let vf := match kvFind s.crews cid with | some c => c.vf | none => 0
    if t.code == 0x20 && (s.ctx vf).breakpoints then s.parkThread ag .debugger
    else s.parkThread ag (.stopped t.code t.sub (trapInfo t).toNat)
  | .sup _, some _ => s.parkThread ag .halted
  | _, none => s
def State.takeTrap (s : State) (ag : Agent) (t : Trap) : State :=
  match s.thread? ag with
  | some th => s.takeFull ag (s.fullTrap ag th t)
  | none => s

/-! ### Returning from an exception (R108, R328) -/

/-- What TRET restores from the frame, apart from the place it resumes at. -/
def restoreThread (f : TrapFrame) (th : Thread) : Thread :=
  { th with exm := f.mask &&& th.f, pcl := f.plbl, armed := f.armed, priv := f.priv, handler := false, clause := [], began := none, asked := none }

/-- The frame under which the current fragment runs its handler; without one TRET is illegal (R108). Where a BRV has split the
handler's fragment, the frame goes with the side that keeps the fragment's number, the taken one (log 78). -/
def myFrame : M TrapFrame := do
  let (_, _, fn) ← myFrag
  let th ← myTh
  match (← myTeam).frame with
  | some f => if th.handler && f.frag == fn then pure f else illegal .wrongClass
  | none => illegal .wrongClass

/-- Return to a header and slot, with the frame released. A control instruction, it ends the handler's windows (R40). -/
def returnTo (f : TrapFrame) (pc slot : Nat) : M Done := do
  closeWindows
  modTeam (fun tm => { tm with frame := none })
  modTh (fun th => { restoreThread f th with pc := pc, slot := slot, active := false, count := th.count + 1 })
  modify (fun s => { s with cur := none })
  pure { ctl := .stay }

/-! ### Running a meaning -/

/-- Entries that a step has changed, carried over into another table. -/
def kvCarry {β : Type} [DecidableEq β] (old new base : KV β) : KV β :=
  let b1 := new.foldl (fun b e => if kvFind old e.1 = some e.2 then b else kvSet b e.1 e.2) base
  old.foldl (fun b e => if (kvFind new e.1).isSome then b else kvDel b e.1) b1

def Team.carry (old new base : Team) (fn : Nat) : Team :=
  { base with s := kvCarry old.s new.s base.s, m := kvCarry old.m new.m base.m, v := kvCarry old.v new.v base.v
              phase := if old.phase == new.phase then base.phase else new.phase
              frags := match kvFind new.frags fn with | some th => kvSet base.frags fn th | none => base.frags }

/-- What an instruction has changed in the scratchpad. -/
def Pad.carry (old new base : Pad) : Pad :=
  { base with bytes := kvCarry old.bytes new.bytes base.bytes, labs := kvCarry old.labs new.labs base.labs
              dirty := (new.dirty.filter (fun o => !old.dirty.contains o)).foldl addOnce
                (base.dirty.filter (fun o => new.dirty.contains o || !old.dirty.contains o)) }

/-- The commit record of a copy of a pair moves past an instruction performed behind the match of its window (R338): the
instruction's registers, its scratchpad bytes and its thread's place enter the matched state. -/
def Body.carry (old new base : Body) : Agent → Body
  | .frag _ t fn =>
    match kvFind old.teams t, kvFind new.teams t with
    | some o, some n => { base.modTeam t (fun b => o.carry n b fn) with pad := old.pad.carry new.pad base.pad }
    | _, _ => base
  | .seq _ x =>
    match kvFind old.seqs x, kvFind new.seqs x with
    | some o, some n => { base with seqs := kvModify base.seqs x (fun b => { b with s := kvCarry o.s n.s b.s, th := n.th }) }
    | _, _ => base
  | .sup _ => base

/-- The thread after an instruction, at the next slot, at the header after its clause (R75), or at another header. -/
def advance (c : Ctl) (cyc : Nat) (th : Thread) : Thread :=
  let th := { th with park := .run, count := th.count + 1, began := none, asked := none
                      pend := th.pend.map (fun p => { p with left := p.left - 1 }) }
  match c with
  | .next =>
    if th.slot + 1 < th.clause.length then { th with slot := th.slot + 1 }
    else { th with pc := th.pc + 8 * (th.clause.length + 1), slot := 0, clause := [], ready := cyc }
  | .jump pc => { th with pc := pc, slot := 0, clause := [], pend := [], ready := cyc }
  | .stay => th

/-- The entries of a table that a step has changed, each noted in another table with its value before and after. -/
def kvNote {β γ : Type} [DecidableEq β] (d : β) (f : Option γ → β → β → γ) (old new : KV β) (u : KV γ) : KV γ :=
  ((kvKeys old ++ kvKeys new).filter (fun k => kvGet d old k != kvGet d new k)).foldl
    (fun u k => kvSet u k (f (kvFind u k) (kvGet d old k) (kvGet d new k))) u

/-- A register that another fragment has written since is to come back to what that one wrote. -/
def noteS (u : Option (SReg × SReg)) (a b : SReg) : SReg × SReg :=
  match u with
  | some (x, y) => if y = a then (x, b) else (a, b)
  | none => (a, b)
/-- Lanes of a mask or a register word are written by one fragment alone; only the label may be another's since. -/
def noteLab (u : Option (Lbl × Lbl)) (a : Lbl) : Lbl :=
  match u with
  | some (x, y) => if y = a then x else a
  | none => a
def noteM (u : Option MaskUndo) (a b : MReg) : MaskUndo :=
  let w := u.getD { bits := 0, old := 0, lab := a.lab, labNow := a.lab }
  let new := (a.bits ^^^ b.bits) &&& ~~~w.bits
  { bits := w.bits ||| new, old := (w.old &&& w.bits) ||| (a.bits &&& new)
    lab := noteLab (u.map (fun w => (w.lab, w.labNow))) a.lab, labNow := b.lab }
def noteV (u : Option WordUndo) (a b : RegWord) : WordUndo :=
  let w := u.getD { lanes := 0, old := List.replicate 32 0, lab := a.lab, labNow := a.lab }
  let new : Nat → Bool := fun j => a.lanes.getD j 0 != b.lanes.getD j 0 && !w.lanes.getLsbD j
  { lanes := (List.range 32).foldl (fun m j => if new j then m ||| BitVec.ofNat 32 (2 ^ j) else m) w.lanes
    old := (List.range 32).map (fun j => if new j then a.lanes.getD j 0 else w.old.getD j 0)
    lab := noteLab (u.map (fun w => (w.lab, w.labNow))) a.lab, labNow := b.lab }

/-- What one instruction has changed enters the undo record of a held load (R41). -/
def Undo.note (u : Undo) (t0 t : Team) (e0 e : Mask) : Undo :=
  { s := kvNote {} noteS t0.s t.s u.s, m := kvNote {} noteM t0.m t.m u.m, v := kvNote {} noteV t0.v t.v u.v
    exm := if u.exm.isNone && e0 != e then some e0 else u.exm }

/-- How many instructions of an agent are outstanding. -/
def State.pendCount (s : State) (ag : Agent) : Nat := match s.thread? ag with | some th => th.pend.length | none => 0

/-- Notes a change in the undo records of the loads that a fragment still holds, of the first n of its outstanding instructions. -/
def State.noteUndo (s0 s : State) (ag : Agent) (n : Nat) : State :=
  match ag with
  | .frag cid t _ =>
    match s0.thread? ag, s.thread? ag, s0.team? cid t, s.team? cid t with
    | some h0, some h, some t0, some t =>
      if h0.holding then
        s.modThread ag (fun th => { th with pend := (th.pend.take n).map (fun p => { p with
          held := p.held.map (fun x => { x with undo := x.undo.note t0 t h0.exm h.exm }) }) ++ th.pend.drop n })
      else s
    | _, _, _, _ => s
  | _ => s

/-- The contexts, crews and engines without what an instruction of a fragment changes for itself alone: its thread's own state, and
its team's registers and masks, and the label IDs it allocates. -/
def State.beside (s : State) (ag : Agent) : KV Context × KV Crew × List (List Cmd × List Cmd) :=
  let s1 := match ag with
    | .frag cid t fn => s.modCrew cid (fun c => { c.modBody (fun b => b.modTeam t (fun tm => { tm with
        s := [], m := [], v := [], frags := kvModify tm.frags fn (fun th => { th with
          exm := 0, pend := [], sig := 0, count := 0, park := .run }) })) with regLog := [], lvq := [] })
    | _ => s
  (s1.ctxs.map (fun e => (e.1, { e.2 with labels := [], recordedSet := [], rlogOut := [] })), s1.crews,
    s1.clusters.map (fun e => (e.2.mq, e.2.cq)))

/-- An instruction in the window of a load that is still held has an effect that others could see, or that a fault of the load
could not take back: it waits, since its results become architectural only when the load has passed every fault check
(R41, log 27). -/
def State.mustHold (s0 s : State) (ag : Agent) : Bool :=
  (s0.thread? ag).any Thread.holding && s0.beside ag != s.beside ag

/-- Values in a pair's queue about an operation that has now been performed, and is never undone, outlive a rollback until
the trailing copy has taken them (R310, R338). -/
def State.keepValues (s0 s : State) (cid : Nat) : State :=
  match kvFind s0.crews cid, kvFind s.crews cid with
  | some c0, some c =>
    match c.copy with
    | .solo => s
    | .lead =>
      let grow : KV (List LvqEntry) := c.lvq.foldl (fun k e =>
        kvPut [] k e.1 (kvGet [] k e.1 ++ e.2.drop (kvGet [] c0.lvq e.1).length)) c.kept
      s.modCrew cid (fun c => { c with kept := grow })
    | .trail => match kvFind s0.crews c.partner, kvFind s.crews c.partner with
      | some p0, some p =>
        let left : KV (List LvqEntry) := p0.lvq.foldl (fun k e =>
          kvPut [] k e.1 ((kvGet [] k e.1).drop (e.2.length - (kvGet [] p.lvq e.1).length))) p.kept
        s.modCrew c.partner (fun p => { p with kept := left })
      | _, _ => s
  | _, _ => s

/-- A turn ends with its clause; a sequencer context's ends with each instruction (R268). -/
def turnEnds (ag : Agent) (th : Thread) : Bool := th.clause.isEmpty || match ag with | .seq _ _ => true | _ => false

/-- The WAIT class in which an instruction's accesses count while they wait at a controller (R73, R372), by its opcode: loads, stores,
atomics. -/
def waitClass (op : Nat) : Option Nat :=
  if [0x22, 0x78, 0x7A].contains op then some 0
  else if op == 0x7C then some 1
  else if [0x23, 0x79, 0x7B, 0x7D].contains op then some 2
  else if [0x80, 0x81, 0x82, 0x83].contains op then some 3
  else none
/-- The requests that an instruction has left waiting count among its agent's outstanding operations. -/
def State.claimRequests (s0 s : State) (ag : Agent) : State :=
  if s.tbQueue = s0.tbQueue then s else
  match (s0.thread? ag).bind (fun th => waitClass (fOp (hereWord th))) with
  | none => s
  | some k => { s with tbQueue := s.tbQueue.take s0.tbQueue.length ++ (s.tbQueue.drop s0.tbQueue.length).map (fun r =>
      if r.back then r else { r with who := some (ag, k) }) }

/-- The end of an instruction: its thread moves on, its turn ends where it must, and the commit record moves with it
where the instruction stands behind its own commit point (R338). An instruction that must wait for a held load has done
nothing. A trailing copy closes its window where its leading copy did, once all its agents stand there (log 20). -/
def State.finish (s0 s : State) (ag : Agent) (d : Done) : State :=
  if s0.mustHold s ag then s0.parkThread ag .held else
  let s := s0.claimRequests (s0.noteUndo s ag (s.pendCount ag)) ag
  let s1 := match d.ctl with
    | .stay => s
    | c => s.modThread ag (advance c s.cyc)
  let s2 := match s1.thread? ag with
    | some th => if turnEnds ag th then { s1 with cur := none } else s1
    | none => { s1 with cur := none }
  match agentCid ag with
  | none => s2
  | some cid =>
    let s3 := if d.past then
        match kvFind s0.crews cid with
        | some c0 => (s0.keepValues s2 cid).modCrew cid (fun c =>
            if c.copy == .solo then { c with saved := c.body } else { c with
              saved := c0.body.carry c.body c.saved ag
              closed := c.closed.map (fun w => { w with body := c0.body.carry c.body w.body ag }) })
        | none => s2
      else s2
    match kvFind s3.crews cid with
    | some c => if d.close && c.copy == .lead then s3.closeWindow cid else s3
    | none => s3

/-- The label table goes back when a join could not be made (R45). -/
def State.restoreLabels (s0 s : State) (ag : Agent) : State :=
  match (match ag with
    | .sup k => supVf (s0.sup k)
    | _ => (agentCid ag).bind (fun cid => (kvFind s0.crews cid).map Crew.vf)) with
  | some v => s.modCtx v (fun x => { x with labels := (s0.ctx v).labels })
  | none => s

/-- A thread whose window has met its match keeps that fact through the waits that may follow in the same instruction. -/
def keepPair (old new : Park) : Park :=
  match old, new with
  | .pair w, .queue => .pair w
  | .pair w, .pinned => .pair w
  | .pair w, .commit => .pair w
  | .pair w, .word => .pair w
  | .pair w, .line => .pair w
  | .pair w, .engine => .pair w
  | _, p => p

def State.parkOf (s : State) (ag : Agent) : Park := match s.thread? ag with | some th => th.park | none => .run

/-- How an early end of a meaning is taken. An instruction whose own crew has ended with its cast, by a commit point that it forced
on another crew of the cast, ends there (R326, R391). The spec leaves two points open here: poisoned data that a team consumes in its
handler is contained like any other, and is no double fault (R43, R328, R347; log 67); and an instruction that takes a label fault
other than 0x10 sub-code 0 leaves the label IDs that it has allocated (R68; log 68). -/
def State.stopped (s0 s : State) (ag : Agent) : Stop → Host.Outcome State Fault Refusal
  | .trap t =>
    .next ((if t.code == 0x10 && t.sub == 0 then s0.restoreLabels s ag else s).takeTrap ag t)
  | .park p => .next (if s0.mustHold s ag then s0.parkThread ag .held else s.parkThread ag (keepPair (s.parkOf ag) p))
  | .abort code detail => .next (match agentCid ag with | some cid => s.abortCrew cid code detail | none => s)
  | .poison pa =>
    .next (match agentCid ag with
      | some cid => s.consumed cid pa
      | none => s.parkThread ag .halted)
  | .spoilt off => .next (match agentCid ag with | some cid => s.consumedPad cid off | none => s)
  | .gone => .next s
  | .fault f => if s.cur.isNone then .next s else .fault f

/-- One instruction of the current agent. -/
def run (m : M Done) (s : State) : Host.Outcome State Fault Refusal :=
  match s.cur with
  | none => .fault .noAgent
  | some ag =>
    match m s with
    | .ok d s' => .next (s.finish s' ag d)
    | .error e s' => s.stopped s' ag e

end Sys2Proof.Machine
end

