-- ==== Sys2Proof/Machine/Memory.lean ====
section
/-! DEFINITION. Loads and stores (R150 to R153), the scratchpad (R154 to R157) and stash windows (R158, R159). -/

namespace Sys2Proof.Machine

/-- Bytes of one lane of a type (R148). -/
def tySize : Ty → Nat
  | .i16 | .n16 | .f16 | .bf16 => 2
  | .mk8 | .sm8 | .sm4 => 1
  | .i64 => 8
  | _ => 4

/-- WAIT classes (R73). -/
def classLd : Nat := 0
def classSp : Nat := 1

/-- What a loaded number is in a lane (R148). -/
def loadLane (ty : Ty) (v : Nat) : Lane := if ty == .i16 then (BitVec.ofNat 16 v).signExtend 32 else BitVec.ofNat 32 v
/-- What a loaded number is in a uniform register. -/
def loadWord (ty : Ty) (v : Nat) : Word :=
  match ty with
  | .i32 => (BitVec.ofNat 32 v).signExtend 64
  | .i16 => (BitVec.ofNat 16 v).signExtend 64
  | _ => BitVec.ofNat 64 v

/-! ### Decoding loads (R153) -/

/-- The element format that a code type reads; no other type decodes. -/
def codeFmt : Ty → Option Nat
  | .mk8 => some 0
  | .sm8 => some 1
  | .sm4 => some 2
  | _ => none

/-- The format under which a location is read: its line's own, as it was filled (R258); a line on an MS page is not kept in L2, and
stands under the region that now holds it (R219). -/
def Loc.fmt (s : State) (l : Loc) : Option Nat := if l.ms then (s.region? l.pa).map Region.fmt else s.lineFmt l.line

/-- The sub-code with which a decoding load of a location conflicts with its region. -/
def regionConflict (s : State) (fmt : Nat) (l : Loc) : Option Nat :=
  match l.fmt s with
  | none => none
  | some g =>
    if g != fmt then some 1
    else if l.ms then some 3
    else if fmt != 0 && s.scaleAt fmt l.pa == 255 then some 2
    else none

/-- Step 5 of R149. Every line of a region is filled, with its scales, before it is looked at; lanes that fail it carry
the sub-code of the lowest of them. A failed-scale mark is consumed poison (R258). -/
def checkFormat (a : Acc) (ty : Ty) (locs : List Loc) : M Unit := do
  match codeFmt ty with
  | none => pure ()
  | some fmt => do
    let vf ← myVf
    modify (fun s => locs.foldl (fun s l => if l.ms || l.outside then s else s.fill vf l.line) s)
    let s ← get
    match locs.filter (fun l => (regionConflict s fmt l).isSome) with
    | l :: rest =>
      let bad := (l :: rest).map Loc.lane
      raiseAcc a 0x23 ((regionConflict s fmt l).getD 0) (a.eas.filter (fun e => bad.contains e.1))
    | [] =>
      match locs.find? (fun l => !l.ms && (kvGet ({} : L2Line) s.l2 l.line).failed) with
      | some l => throw (.poison l.pa)
      | none => pure ()

/-- A lane that reads an element of an MK8 NaN block receives 0x80. -/
def decodeLane (s : State) (ty : Ty) (l : Loc) (v : Nat) : Nat :=
  match codeFmt ty with
  | none => v
  | some fmt => if !l.ms && (s.lineFmt l.line).isSome && s.scaleAt fmt l.pa == 255 then 0x80 else v

/-! ### Loads -/

/-- Acquire loads of a pair are obtained once (R310). -/
def loadAll (sc : Scope) (o : Ord4) (n : Nat) (locs : List Loc) : M (List Nat) := do
  if isAcq o then
    let vs ← onceLogged n locs (do
      let vs ← locs.mapM (loadLoc sc o n)
      pure (vs.map (BitVec.ofNat 64)))
    acquireTrail (if locs.any Loc.outside then .sys else sc)
    pure (vs.map BitVec.toNat)
  else locs.mapM (loadLoc sc o n)

/-- The value of a lane in a list of values. -/
def laneVal (vs : List (Nat × Nat)) (l : Nat) : Nat := ((vs.find? (fun e => e.1 == l)).map Prod.snd).getD 0

/-- A vector load, with its addresses and the labels of their registers (R52, R150). With an empty exm it opens its window all the
same, so that an instruction of the window that names its destination raises 0x03, which the spec leaves open (R26, R41; log 66). -/
def loadVec (la : Nat) (ty : Ty) (sc : Scope) (o : Ord4) (d : Nat) (names : List RegName)
    (addrs : M (Acc × (Nat → List Lbl))) : M Done := do
  issue names (← vDst d)
  let th ← myTh
  if th.exm = 0 then pure ()
  else do
    let (a, labs) ← addrs
    let locs ← checkAcc .load a
    checkFormat a ty locs
    let s ← get
    let labs' : Nat → List Lbl := fun g =>
      (locs.filter (fun l => l.lane / 32 == g)).map (fun l => s.granLab l.line) ++ labs g
    prepareV d labs'
    let vs ← loadAll sc o a.size locs
    let s1 ← get
    let res := (locs.zip vs).map (fun e => (e.1.lane, decodeLane s1 ty e.1 e.2))
    writeV d labs' (fun l => loadLane ty (laneVal res l))
  openWindow [.v d] la classLd
  done

def execVld (la : Nat) (ty : Ty) (scp : Scope) (o : Ord4) (sc : Bool) (d a : Nat) (idx : Option Nat) (ofs : BitVec 17)
    (s : State) : Host.Outcome State Fault Refusal :=
  run (loadVec la ty scp o d ([.s a] ++ idxName idx) (laneAcc (tySize ty) a idx sc ofs.toInt)) s
def execVldx (la : Nat) (ty : Ty) (scp : Scope) (o : Ord4) (d a : Nat) (ofs : BitVec 18) (s : State) :
    Host.Outcome State Fault Refusal :=
  run (loadVec la ty scp o d [.v a, .v (a + 1)] (pairAcc (tySize ty) a ofs.toInt)) s

/-- SLD replaces value and label whole (R150). -/
def execSld (la : Nat) (ty : Ty) (sc : Scope) (o : Ord4) (d a b : Nat) (ofs : BitVec 18) (s : State) :
    Host.Outcome State Fault Refusal :=
  run (do
    issue [.s a, .s b] [.s d]
    let acc ← uniAcc (tySize ty) a b ofs.toInt
    let locs ← checkAcc .load acc
    let s ← get
    let l ← joinAll (locs.map (fun l => s.granLab l.line) ++ acc.alab ++ [← myPcl])
    let vs ← loadAll sc o acc.size locs
    writeS d (loadWord ty (vs.headD 0)) l
    openWindow [.s d] la classLd
    done) s

/-! ### Stores -/

/-- A vector store of vD (R53, R150). -/
def storeVec (sc : Scope) (o : Ord4) (d : Nat) (names : List RegName)
    (addrs : M (Acc × (Nat → List Lbl))) : M Done := do
  issue (names ++ [.v d]) []
  let th ← myTh
  if th.exm = 0 then done
  else do
    let tm ← myTeam
    let (a, labs) ← addrs
    let locs ← checkAcc .store a
    checkClaims a (locs.map (fun l => (l.lane, l.va)))
    let ls ← groupLabels (mgroups th.exm) (fun g => [tm.vlab d g] ++ labs g ++ [th.pcl])
    let s ← get
    checkFlow a (locs.map (fun l => (l.lane, s.granLab l.line))) (fun l => labOf ls (l / 32))
    storeLocs sc o a.size (fun l => tm.vlab d (l / 32))
      (locs.map (fun l => (l, (tm.lane d l.lane).toNat % 2 ^ (8 * a.size))))

def execVst (ty : Ty) (scp : Scope) (o : Ord4) (sc : Bool) (d a : Nat) (idx : Option Nat) (ofs : BitVec 17) (s : State) :
    Host.Outcome State Fault Refusal :=
  run (storeVec scp o d ([.s a] ++ idxName idx) (laneAcc (tySize ty) a idx sc ofs.toInt)) s
def execVstx (ty : Ty) (scp : Scope) (o : Ord4) (d a : Nat) (ofs : BitVec 18) (s : State) :
    Host.Outcome State Fault Refusal :=
  run (storeVec scp o d [.v a, .v (a + 1)] (pairAcc (tySize ty) a ofs.toInt)) s

def execSst (ty : Ty) (sc : Scope) (o : Ord4) (d a b : Nat) (ofs : BitVec 18) (s : State) :
    Host.Outcome State Fault Refusal :=
  run (do
    issue [.s a, .s b, .s d] []
    let acc ← uniAcc (tySize ty) a b ofs.toInt
    let locs ← checkAcc .store acc
    checkClaims acc (locs.map (fun l => (l.lane, l.va)))
    let rd ← rdS d
    let l ← joinAll ([rd.lab] ++ acc.alab ++ [← myPcl])
    let s ← get
    checkFlow acc (locs.map (fun x => (x.lane, s.granLab x.line))) (fun _ => l)
    storeLocs sc o acc.size (fun _ => rd.lab) (locs.map (fun x => (x, rd.val.toNat % 2 ^ (8 * acc.size))))) s

/-! ### The scratchpad -/

def Pad.lab (p : Pad) (line : Nat) : Lbl := kvGet p.base p.labs line
def padLine (off : Nat) : Nat := off / 128
/-- The little-endian number of n scratchpad bytes. -/
def Pad.nat (p : Pad) (off : Nat) : Nat → Nat
  | 0 => 0
  | n + 1 => (kvGet 0 p.bytes off).toNat + 256 * p.nat (off + 1) n
def Pad.put (p : Pad) (off n v : Nat) : Pad :=
  { p with bytes := (numBytes off n v).foldl (fun m e => kvPut 0 m e.1 e.2) p.bytes }
/-- A number stored to a stash line enters every copy of its global line (R201, log 31). -/
def Pad.mirrors (p : Pad) (off n v : Nat) : Pad :=
  (numBytes off n v).foldl (fun p b => match kvFind p.filled (padLine b.1) with
    | some g => p.mirror (128 * g + b.1 % 128) b.2
    | none => p) p
/-- Bytes of a stash line that have been stored to are dirty. -/
def Pad.soil (p : Pad) (off n : Nat) : Pad :=
  { p with dirty := (List.range n).foldl (fun d k =>
      if (kvFind p.filled (padLine (off + k))).isSome then addOnce d (off + k) else d) p.dirty }
/-- Lines written whole are not poisoned any more (R344). -/
def Pad.cure (p : Pad) (lines : List Nat) : Pad :=
  if p.poison.isEmpty then p else { p with poison := p.poison.filter (fun l => !lines.contains l) }
/-- The stash lines with dirty bytes. -/
def Pad.dirtyLines (p : Pad) : List Nat := (p.dirty.map padLine).eraseDups
/-- Lines that have been written back are clean. -/
def Pad.cleaned (p : Pad) (lines : List Nat) : Pad :=
  { p with dirty := p.dirty.filter (fun o => !lines.contains (padLine o)) }
/-- The checks of a scratchpad access in the order of R149: limit, alignment, the global address of an absent line of a
stash window (R159), and failed lines. It answers the lines such a first touch wants, with the locations touched. -/
def checkPad (k : AccKind) (a : Acc) : M (List (Nat × Loc)) := do
  let c ← myCrew
  let p := c.body.pad
  checkAll a 0x06 0 (fun e => decide (e.2 < 0) || decide ((p.size : Int) < e.2 + a.size))
  checkAll a 0x1B 0 (fun e => e.2 % a.size != 0)
  let first := a.eas.filter (fun e => p.absent.contains (padLine e.2.toNat) && !p.failed.contains (padLine e.2.toNat))
  let glob := first.filterMap (fun e => (p.global e.2.toNat).map (fun g => (e.1, g)))
  let locs ← if glob.isEmpty then pure [] else checkAcc k { a with eas := glob }
  checkAll a 0x14 0 (fun e => p.failed.contains (padLine e.2.toNat))
  pure ((first.filter (fun e => (p.global e.2.toNat).isSome)).filterMap (fun e =>
    (locs.find? (fun l => l.lane == e.1)).map (fun l => (padLine e.2.toNat, l))))

/-- Lines wanted by a first touch of a stash window: their fills begin (R159). -/
def wantLines (ws : List (Nat × Loc)) : M Unit :=
  if ws.isEmpty then pure ()
  else modMyCrew (fun c => c.modBody (fun b => { b with pad := { b.pad with
    wanted := ws.foldl (fun m e => kvSet m e.1 e.2.line) b.pad.wanted } }))

/-- A stash window over an MS page keeps no copy (R219): what is read there is read at the base die, lane by lane, and
what is written is performed there. The bytes of a scratchpad offset, as far as it lies on such a line. -/
def msBytes (s : State) (ws : List (Nat × Loc)) (n : Nat) : List (Nat × Nat) :=
  (ws.filter (fun w => w.2.ms)).map (fun w => (w.2.lane, s.homeNat w.2.pa n))

/-- The bytes of a line that a held load reads. -/
def HeldLoad.take (h : HeldLoad) (p : Pad) (line : Nat) : HeldLoad :=
  let offs := (h.offs.filter (fun e => padLine e.2 == line)).flatMap (fun e => (List.range (tySize h.ty)).map (e.2 + ·))
  { h with need := dropAll h.need line, labs := kvSet h.labs line (p.lab line)
           got := offs.foldl (fun m o => kvPut 0 m o (kvGet 0 p.bytes o)) h.got
           spoilt := if p.poison.contains line then addOnce h.spoilt line else h.spoilt }
def HeldLoad.byteNat (h : HeldLoad) (off : Nat) : Nat → Nat
  | 0 => 0
  | n + 1 => (kvGet 0 h.got off).toNat + 256 * h.byteNat (off + 1) n
/-- What happens to a scratchpad line reaches the loads that are held for it. -/
def Body.tellHeld (b : Body) (line : Nat) (g : HeldLoad → HeldLoad) : Body :=
  let f : Thread → Thread := fun th => { th with pend := th.pend.map (fun p => { p with
    held := p.held.map (fun h => if h.need.contains line then g h else h) }) }
  { b with teams := b.teams.map (fun e => (e.1, { e.2 with frags := e.2.frags.map (fun x => (x.1, f x.2)) })) }
/-- A line has become present: the loads held for it have its bytes (R155). -/
def Body.feed (b : Body) (line : Nat) : Body := b.tellHeld line (fun h => h.take b.pad line)
/-- A line is marked failed: the loads held for it fault, whatever becomes of the line afterwards (R94). -/
def Body.lose (b : Body) (line : Nat) : Body := b.tellHeld line (fun h => { h with lost := addOnce h.lost line })

/-- VLDS. A load that touches an absent line is held: its fragment issues the window, and the value arrives with the
line (R155), when its destination takes its labels; the words that it is to write are logged before (R334). What the present lines
hold it has read at its issue, and a poisoned one it has consumed (R343). -/
def execVlds (la : Nat) (ty : Ty) (sc : Bool) (d a : Nat) (idx : Option Nat) (ofs : BitVec 17) (s : State) :
    Host.Outcome State Fault Refusal :=
  run (do
    issue ([.s a] ++ idxName idx) (← vDst d)
    let th ← myTh
    if th.exm = 0 then
      openWindow [.v d] la classSp
      done
    else do
      let (acc, labs) ← laneAcc (tySize ty) a idx sc ofs.toInt
      let ws ← checkPad .load acc
      checkPoisons ((ws.filter (fun w => w.2.ms)).map Prod.snd)
      let s0 ← get
      let p := (← myCrew).body.pad
      let far := msBytes s0 ws acc.size
      let farLab : Nat → Option Lbl := fun l => (ws.find? (fun w => w.2.ms && w.2.lane == l)).map (fun w => s0.granLab w.2.line)
      let labs' : Nat → List Lbl := fun g =>
        (acc.eas.filter (fun e => e.1 / 32 == g)).map (fun e => (farLab e.1).getD (p.lab (padLine e.2.toNat))) ++ labs g
      let offs : KV Nat := acc.eas.map (fun e => (e.1, e.2.toNat))
      let near := offs.filter (fun e => (farLab e.1).isNone)
      let wait := (near.filter (fun e => p.absent.contains (padLine e.2))).map (fun e => padLine e.2)
      if wait.isEmpty then
        prepareV d labs'
        match near.find? (fun e => p.poison.contains (padLine e.2)) with
        | some e => throw (.spoilt e.2)
        | none => pure ()
        writeV d labs' (fun l => loadLane ty (match far.find? (fun e => e.1 == l) with
          | some e => e.2
          | none => p.nat (kvGet 0 offs l) acc.size))
        openWindow [.v d] la classSp
      else if !far.isEmpty then do
        wantLines (ws.filter (fun w => !w.2.ms))
        throw (.park .line)
      else do
        logWords ((mgroups th.exm).map (vkey d))
        wantLines ws
        let h0 : HeldLoad := {
          pc := th.pc, slot := th.slot, clause := th.clause, ty := ty, dst := d, mask := th.exm, offs := offs
          alab := (mgroups th.exm).map (fun g => (g, labs g ++ [th.pcl])), flab := acc.alab, need := wait.eraseDups
          count := th.count }
        let here := ((offs.map (fun e => padLine e.2)).eraseDups).filter (fun l => !wait.contains l)
        openWindow [.v d] la classSp (some (here.foldl (fun h l => h.take p l) h0))
      done) s

/-- Scratchpad bytes written by the executing crew: their lines enter the scratchpad log, and stash lines become dirty
(R159, R333), which stands in the core's L1 with the rest of what that holds (R1). -/
def padWrite (ws : List (Nat × Nat)) (n : Nat) : M Unit := do
  let lines := (ws.map (fun e => padLine e.1)).eraseDups
  modMyCrew (fun c =>
    let p := ws.foldl (fun p e => (p.mirrors e.1 n e.2).put e.1 n e.2) c.body.pad
    let p' := (ws.foldl (fun p e => p.soil e.1 n) p).cure (lines.filter (fun l =>
      (List.range 128).all (fun k => ws.any (fun e => decide (e.1 ≤ 128 * l + k) && decide (128 * l + k < e.1 + n)))))
    { (c.modBody (fun b => { b with pad := p' })) with padLog := lines.foldl addOnce c.padLog })
  match ← myPlace with
  | some (cl, core) => modify (fun s => s.l1Trim cl core)
  | none => pure ()

/-- Terms of a scratchpad store: elements on stash lines alone make them (R308). -/
def padTerms (p : Pad) (n : Nat) (labs : Nat → Lbl) : List (Nat × Nat × Nat) → M (List (Nat × Nat))
  | [] => pure []
  | (l, off, v) :: es => do
    let v' ← match (if (kvFind p.filled (padLine off)).isSome then p.global off else none) with
      | some g => do
        let w ← addTerm true (BitVec.ofInt 64 g) (BitVec.ofNat 64 v) n (labs l)
        pure w.toNat
      | none => pure v
    let rest ← padTerms p n labs es
    pure ((off, v') :: rest)

/-- VSTS. One that touches an absent line writes after the arriving data (R155). It is a relaxed store at .core (R203), which the
mark of a FENCE .rel makes a release (R231). -/
def execVsts (ty : Ty) (sc : Bool) (d a : Nat) (idx : Option Nat) (ofs : BitVec 17) (s : State) :
    Host.Outcome State Fault Refusal :=
  run (do
    issue ([.s a] ++ idxName idx ++ [.v d]) []
    let th ← myTh
    if th.exm = 0 then done
    else do
      let tm ← myTeam
      let (acc, labs) ← laneAcc (tySize ty) a idx sc ofs.toInt
      let ws ← checkPad .store acc
      let p := (← myCrew).body.pad
      let off : Nat × Int → Nat := fun e => e.2.toNat
      let far : Nat → Option Loc := fun l => (ws.find? (fun w => w.2.ms && w.2.lane == l)).map Prod.snd
      if acc.eas.any (fun e => p.absent.contains (padLine (off e)) && (p.global (off e)).isNone) then throw (.park .line)
      else pure ()
      checkClaims acc (acc.eas.filterMap (fun e => (p.global (off e)).map (fun g => (e.1, g.toNat))))
      let ls ← groupLabels (mgroups th.exm) (fun g => [tm.vlab d g] ++ labs g ++ [th.pcl])
      let s ← get
      let lineLab : Nat → Lbl := fun l => match ws.find? (fun w => w.1 == l) with
        | some w => s.granLab w.2.line
        | none => p.lab l
      checkFlow acc (acc.eas.map (fun e => (e.1, lineLab (padLine (off e))))) (fun l => labOf ls (l / 32))
      let fill := ws.filter (fun w => !w.2.ms)
      if !fill.isEmpty then do
        wantLines fill
        throw (.park .line)
      else pure ()
      let labs : Nat → Lbl := fun l => tm.vlab d (l / 32)
      let val : Nat → Nat := fun l => (tm.lane d l).toNat % 2 ^ (8 * acc.size)
      let home := acc.eas.filterMap (fun e => (far e.1).map (fun x => (x, val e.1)))
      let here := acc.eas.filter (fun e => (far e.1).isNone)
      let lines := here.map (fun e => padLine (off e))
      let globals := lines.filterMap (kvFind p.filled)
      let rel ← relScope .core .rlx
      let s1 ← get
      let wide := rel.any (fun r => wider r || !s1.noticesFit (globals ++ home.map (fun e => e.1.line)))
      if home.isEmpty then reserveLines [] lines
      else commitWith (do let _ ← storeTerms acc.size labs home)
      if wide then awaitRelease globals else pure ()
      if home.isEmpty || (← isTrail) then pure () else performHome (storeBytes acc.size home) true
      let vs ← padTerms p acc.size labs (here.map (fun e => (e.1, off e, val e.1)))
      padWrite vs acc.size
      takeMark .rlx
      oneStore
      if wide then
        let d ← releaseNow
        pure { d with past := d.past || !home.isEmpty }
      else do
        if rel.isSome then noticeLines (!home.isEmpty) (globals ++ home.map (fun e => e.1.line)) else pure ()
        pure { past := !home.isEmpty }) s

/-- SPWAIT (R156). -/
def execSpwait (a b : Nat) (ofs : BitVec 18) (s : State) : Host.Outcome State Fault Refusal :=
  run (do
    issue [.s a, .s b] []
    let acc ← uniAcc 1 a b ofs.toInt
    let p := (← myCrew).body.pad
    checkAll acc 0x06 0 (fun e => decide (e.2 < 0) || decide ((p.size : Int) ≤ e.2))
    checkAll acc 0x14 0 (fun e => p.failed.contains (padLine e.2.toNat))
    if acc.eas.any (fun e => p.absent.contains (padLine e.2.toNat)) then throw (.park .line) else done) s

/-- A prefetch of one address: a clean copy of its line in the core's L1. A lane that would fault is dropped, and nothing in memory
changes: a prefetch is no access that sets a page's A bit (R157, R319). -/
def prefetch (vf : Nat) (cl core : Nat) (ap : Nat × Nat) (pkr : Word) (s : State) (ea : Int) : State :=
  if !canonical ea || crosses ea 4 || inAperture ap ea 4 || ea % 4 != 0 then s else
  match s.translate vf (some cl) ea.toNat with
  | .absent _ => s
  | .leaf p e big =>
    let pa := s.normPa (pteAddr e big ea.toNat)
    let line := lineOf pa
    if paReserved pa || keyDenied pkr .load e || pteMs e || !paLocal pa || s.poison.contains line ||
      (kvFind (s.l1 cl core).clean line).isSome || !(s.holders cl core line none).isEmpty then s
    else (((s.noteUse vf (some cl) ea.toNat p e big).fill vf line).modL1 cl core (fun x => { x with
      tags := kvSet x.tags line (vtag vf ea.toNat) })).l1Fill cl core line

def execVpref (sc : Bool) (a : Nat) (idx : Option Nat) (ofs : BitVec 17) (s : State) : Host.Outcome State Fault Refusal :=
  run (do
    let _ ← myFrag
    issue ([.s a] ++ idxName idx) []
    if (← myTh).exm = 0 then done
    else do
      let (acc, _) ← laneAcc 4 a idx sc ofs.toInt
      let vf ← myVf
      let ap ← myAperture
      let pkr ← myPkr
      match ← myPlace with
      | some (cl, core) => modify (fun s => acc.eas.foldl (fun s e => prefetch vf cl core ap pkr s e.2) s)
      | none => pure ()
      done) s

/-! ### Stash windows (R158) -/

/-- Stash lines enter the core's L1 under their windows' virtual tags. -/
def touchStash (p : Pad) : List Nat → M Unit
  | [] => pure ()
  | l :: ls => do
    match kvFind p.filled l, p.global (128 * l) with
    | some g, some va => touchLine va.toNat g
    | _, _ => pure ()
    touchStash p ls

/-- Dirty stash lines are written back into the core's L1, where they are uncommitted like any store of the crew's, and
rolled back with them (R159). -/
def writeBack (lines : List Nat) : M Unit := do
  let p := (← myCrew).body.pad
  let gs := lines.filterMap (kvFind p.filled)
  touchStash p lines
  reserveLines gs []
  holdHere (lines.flatMap (fun l => match kvFind p.filled l with
      | some g => p.lineBytes l g
      | none => []))
  modMyCrew (fun c => c.modBody (fun b => { b with pad := b.pad.cleaned lines }))

/-- The global address of a stash instruction, its length and scratchpad offset, and its label; no effect with an empty
exm. An agent without a scratchpad executes none (R83). -/
def stashOp (d a b : Nat) (ofs : BitVec 18) (packed : Bool) (body : Int → Nat → Nat → M Word) : M Done := do
  let _ ← myCrew
  issue [.s a, .s b] (if (← myTh).exm = 0 then [] else [.s d])
  let th ← myTh
  if th.exm = 0 then done
  else do
    let ra ← rdS a
    let rb ← rdS b
    let x := (ra.val.toNat : Int) + ofs.toInt
    let off := if packed then (rb.val.extractLsb' 0 32).toNat else 0
    let len := if packed then (rb.val.extractLsb' 32 32).toNat else rb.val.toNat
    let acc : Acc := { uni := true, size := 1, eas := [(0, x)], alab := [ra.lab, rb.lab] }
    checkAll acc 0x1B 0 (fun e => e.2 % 128 != 0 || off % 128 != 0 || len % 128 != 0 || len < 128 || 524288 < len)
    let l ← labelU [a, b]
    let r ← body x off len
    writeS d r l
    done

def allOnes : Word := 0xFFFFFFFFFFFFFFFF

def meets (a n b m : Nat) : Bool := decide (a < b + m) && decide (b < a + n)
def meetsInt (a : Int) (n : Nat) (b : Int) (m : Nat) : Bool := decide (a < b + m) && decide (b < a + n)

def execStashMap (d a b : Nat) (ofs : BitVec 18) (s : State) : Host.Outcome State Fault Refusal :=
  run (stashOp d a b ofs true (fun x off len => do
    let p := (← myCrew).body.pad
    let ra ← rdS a
    let rb ← rdS b
    let acc : Acc := { uni := true, size := 1, eas := [(0, x)], alab := [ra.lab, rb.lab] }
    checkAll acc 0x06 0 (fun _ => decide (p.size < off + len) ||
      p.wins.any (fun e => meets off len e.2.off e.2.len || meetsInt x len e.2.va e.2.len))
    match lowestFree (kvKeys p.wins) 8 with
    | none => pure allOnes
    | some n =>
      let lines := (List.range (len / 128)).map (fun k => off / 128 + k)
      modMyCrew (fun c => c.modBody (fun b => { b with pad := { b.pad with
        wins := kvSet b.pad.wins n (StashWin.mk x off len)
        absent := lines.foldl addOnce b.pad.absent
        failed := b.pad.failed.filter (fun l => !lines.contains l) } }))
      pure (BitVec.ofNat 64 n))) s

def execStashFlush (d a b : Nat) (ofs : BitVec 18) (s : State) : Host.Outcome State Fault Refusal :=
  run (stashOp d a b ofs false (fun x _ len => do
    let p := (← myCrew).body.pad
    let lines := p.dirtyLines.filter (fun l => match p.global (128 * l) with
      | some g => decide (x ≤ g) && decide ((g : Int) < x + len)
      | none => false)
    writeBack lines
    pure (BitVec.ofNat 64 lines.length))) s

def execStashUnmap (d a b : Nat) (ofs : BitVec 18) (s : State) : Host.Outcome State Fault Refusal :=
  run (stashOp d a b ofs true (fun x off len => do
    let p := (← myCrew).body.pad
    match p.wins.find? (fun e => e.2 == StashWin.mk x off len) with
    | none => pure allOnes
    | some (n, _) => do
      let inWin : Nat → Bool := fun l => decide (off / 128 ≤ l) && decide (l < (off + len) / 128)
      let lines := p.dirtyLines.filter inWin
      writeBack lines
      modMyCrew (fun c => c.modBody (fun b => { b with pad := { b.pad with
        wins := kvDel b.pad.wins n
        filled := b.pad.filled.filter (fun e => !inWin e.1)
        wanted := b.pad.wanted.filter (fun e => !inWin e.1) } }))
      pure (BitVec.ofNat 64 lines.length))) s

end Sys2Proof.Machine
end

