-- ==== Sys2Proof/Machine/Float.lean ====
section
/-! DEFINITION. Floating-point and marker formats: exact values, one rounding, and the operations of R132 to R138 and
R252 to R253. -/

namespace Sys2Proof.Machine

/-- An exact value: NaN, an infinity, or (-1)^neg × m × 2^e, whose sign a zero keeps. -/
inductive Fp where
  | nan
  | inf (neg : Bool)
  | fin (neg : Bool) (m : Nat) (e : Int)
  deriving DecidableEq, Repr

/-- A binary format by its exponent and fraction widths (R250). -/
structure Fmt where
  eb : Nat
  fb : Nat
  deriving DecidableEq, Repr

def fmtOf : Ty → Fmt
  | .f16 => { eb := 5, fb := 10 }
  | .bf16 => { eb := 8, fb := 7 }
  | _ => { eb := 8, fb := 23 }

def Fmt.width (k : Fmt) : Nat := 1 + k.eb + k.fb
def Fmt.bias (k : Fmt) : Int := 2 ^ (k.eb - 1) - 1
/-- Exponent of the last place of the smallest normal numbers and of the subnormals. -/
def Fmt.qmin (k : Fmt) : Int := 1 - k.bias - k.fb
/-- Encodings without sign: infinity and the canonical NaN (R133). -/
def Fmt.infBits (k : Fmt) : Nat := (2 ^ k.eb - 1) * 2 ^ k.fb
def Fmt.nanBits (k : Fmt) : Nat := k.infBits + 2 ^ (k.fb - 1)
def Fmt.signBit (k : Fmt) : Nat := 2 ^ (k.eb + k.fb)

/-- The value of an encoding. -/
def Fmt.decode (k : Fmt) (bits : Nat) : Fp :=
  let neg := bits / k.signBit % 2 == 1
  let ex := bits / 2 ^ k.fb % 2 ^ k.eb
  let fr := bits % 2 ^ k.fb
  if ex = 2 ^ k.eb - 1 then (if fr = 0 then .inf neg else .nan)
  else if ex = 0 then .fin neg fr k.qmin
  else .fin neg (2 ^ k.fb + fr) (k.qmin + ((ex : Int) - 1))

/-- Whether rounding a magnitude goes up: q is the truncated significand, rem/2^sh what was cut off, and sticky says that
the exact magnitude is larger still. -/
def roundsUp (r : Rnd) (neg : Bool) (q rem sh : Nat) (sticky : Bool) : Bool :=
  let half := 2 ^ sh / 2
  let inexact := rem != 0 || sticky
  match r with
  | .rn => decide (0 < sh) && (decide (half < rem) || (rem == half && (sticky || q % 2 == 1)))
  | .rz => false
  | .ru => !neg && inexact
  | .rd => neg && inexact

/-- Overflow by rounding direction: infinity or the largest finite magnitude (R132). -/
def overflowBits (k : Fmt) (r : Rnd) (neg : Bool) : Nat :=
  match r with
  | .rn => k.infBits
  | .rz => k.infBits - 1
  | .ru => if neg then k.infBits - 1 else k.infBits
  | .rd => if neg then k.infBits else k.infBits - 1

/-- One rounding of m × 2^e, or, when sticky, of a value between it and (m + 1) × 2^e, to a format. -/
def roundMag (k : Fmt) (r : Rnd) (neg : Bool) (m : Nat) (e : Int) (sticky : Bool) : Nat :=
  let q : Int := max (e + (m.log2 : Int) - k.fb) k.qmin
  let sh := (q - e).toNat
  let base := if e ≥ q then m * 2 ^ (e - q).toNat else m / 2 ^ sh
  let rem := if e ≥ q then 0 else m % 2 ^ sh
  let m' := if roundsUp r neg base rem sh sticky then base + 1 else base
  let bits := (q - k.qmin).toNat * 2 ^ k.fb + m'
  (if neg then k.signBit else 0) + (if bits ≥ k.infBits then overflowBits k r neg else bits)

/-- Round: an exact value in a format. -/
def Fmt.encode (k : Fmt) (r : Rnd) : Fp → Nat
  | .nan => k.nanBits
  | .inf neg => (if neg then k.signBit else 0) + k.infBits
  | .fin neg m e => if m = 0 then (if neg then k.signBit else 0) else roundMag k r neg m e false

/-- A signed magnitude at an exponent. -/
def fpInt (neg : Bool) (m : Nat) (e lo : Int) : Int :=
  let v : Int := (m * 2 ^ (e - lo).toNat : Nat)
  if neg then -v else v

/-- The value of an exact integer at an exponent; zero takes the sign given. -/
def fpOf (zneg : Bool) (v : Int) (e : Int) : Fp := .fin (if v = 0 then zneg else decide (v < 0)) v.natAbs e

/-- Exact sum (R132): the sign of an exact zero follows the operands when they are zeros of like sign, and else the
rounding direction. -/
def fpAdd (r : Rnd) : Fp → Fp → Fp
  | .nan, _ => .nan
  | _, .nan => .nan
  | .inf a, .inf b => if a = b then .inf a else .nan
  | .inf a, .fin _ _ _ => .inf a
  | .fin _ _ _, .inf b => .inf b
  | .fin na ma ea, .fin nb mb eb =>
    let lo := min ea eb
    let zneg := if ma = 0 ∧ mb = 0 ∧ na = nb then na else r == .rd
    fpOf zneg (fpInt na ma ea lo + fpInt nb mb eb lo) lo

def fpNeg : Fp → Fp
  | .nan => .nan
  | .inf a => .inf (!a)
  | .fin a m e => .fin (!a) m e

/-- Exact product (R132). -/
def fpMul : Fp → Fp → Fp
  | .nan, _ => .nan
  | _, .nan => .nan
  | .inf a, .inf b => .inf (a != b)
  | .inf a, .fin b m _ => if m = 0 then .nan else .inf (a != b)
  | .fin a m _, .inf b => if m = 0 then .nan else .inf (a != b)
  | .fin a m e, .fin b n f => .fin (a != b) (m * n) (e + f)

/-- Whether a value lies below another, with −0 below +0 (R134). -/
def fpLt : Fp → Fp → Bool
  | .nan, _ => false
  | _, .nan => false
  | .inf a, .inf b => a && !b
  | .inf a, .fin _ _ _ => a
  | .fin _ _ _, .inf b => !b
  | .fin na ma ea, .fin nb mb eb =>
    let lo := min ea eb
    let x := fpInt na ma ea lo
    let y := fpInt nb mb eb lo
    decide (x < y) || (x == y && ma == 0 && na && !nb)

/-- IEEE comparison: −0 equals +0, and a NaN makes every condition but ne and un false (R113). -/
def condFp (c : Cond) (a b : Fp) : Bool :=
  let isNan : Fp → Bool := fun x => x == .nan
  let un := isNan a || isNan b
  let zero : Fp → Fp := fun x => match x with | .fin _ 0 _ => .fin false 0 0 | x => x
  let lt := fpLt (zero a) (zero b)
  let gt := fpLt (zero b) (zero a)
  match c with
  | .un => un
  | .ord => !un
  | .ne => un || lt || gt
  | .eq => !un && !lt && !gt
  | .lt => !un && lt
  | .le => !un && !gt
  | .gt => !un && gt
  | .ge => !un && !lt

/-- VFMIN and VFMAX on encodings: the other operand when exactly one is a NaN (R134). -/
def fpMinMax (k : Fmt) (isMax : Bool) (a b : Nat) : Nat :=
  match k.decode a, k.decode b with
  | .nan, .nan => k.nanBits
  | .nan, _ => b
  | _, .nan => a
  | x, y => if (if isMax then fpLt x y else fpLt y x) then b else a

/-! ### The functions of R135 -/

/-- 1/a. -/
def fpRcp (r : Rnd) (x : Fp) : Nat :=
  let k := fmtOf .f32
  match x with
  | .nan => k.nanBits
  | .inf neg => if neg then k.signBit else 0
  | .fin neg m e =>
    if m = 0 then (if neg then k.signBit else 0) + k.infBits
    else
      let n := m.log2 + 40
      roundMag k r neg (2 ^ n / m) (-(n : Int) - e) (2 ^ n % m != 0)

/-- The integer square root of n, whose bits below i are still open above the root r found so far. -/
def isqrtGo (n : Nat) : Nat → Nat → Nat
  | 0, r => r
  | i + 1, r => if (r + 2 ^ i) * (r + 2 ^ i) ≤ n then isqrtGo n i (r + 2 ^ i) else isqrtGo n i r
def isqrt (n : Nat) : Nat := isqrtGo n (n.log2 / 2 + 1) 0

/-- 1/√a. -/
def fpRsq (r : Rnd) (x : Fp) : Nat :=
  let k := fmtOf .f32
  match x with
  | .nan => k.nanBits
  | .inf neg => if neg then k.nanBits else 0
  | .fin neg m e =>
    if m = 0 then (if neg then k.signBit else 0) + k.infBits
    else if neg then k.nanBits
    else
      let odd := e % 2 != 0
      let m' := if odd then 2 * m else m
      let e' := if odd then e - 1 else e
      let n := m'.log2 + 40
      let q := isqrt (2 ^ (2 * n) / m')
      roundMag k r false q (-(n : Int) - e' / 2) (q * q * m' != 2 ^ (2 * n))

/-- Fraction bits of the fixed-point arithmetic below; the error of a result stays under 2^(-fixP + 10), far below the
distance of any inexact result of binary32 from a rounding boundary (log 12). -/
def fixP : Nat := 240

/-- ln 2 in fixed point, as the sum of 1/(j 2^j). -/
def fixLn2 : Nat := (List.range fixP).foldl (fun a j => a + 2 ^ fixP / ((j + 1) * 2 ^ (j + 1))) 0

/-- exp(t) of a fixed-point t below 1: the sum of t^j/j!, terms folded one from the other. -/
def fixExp (t : Nat) : Nat :=
  ((List.range 80).foldl (fun (p : Nat × Nat) j => (p.1 + p.2, p.2 * t / 2 ^ fixP / (j + 1))) (0, 2 ^ fixP)).1

/-- ln(g) of a fixed-point g in [1, 2]: 2 artanh z with z = (g − 1)/(g + 1). -/
def fixLn (g : Nat) : Nat :=
  let one := 2 ^ fixP
  let z := (g - one) * one / (g + one)
  let z2 := z * z / one
  2 * ((List.range 90).foldl (fun (p : Nat × Nat) j => (p.1 + p.2 / (2 * j + 1), p.2 * z2 / one)) (0, z)).1

/-- 2^a. -/
def fpExp2 (r : Rnd) (x : Fp) : Nat :=
  let k := fmtOf .f32
  match x with
  | .nan => k.nanBits
  | .inf neg => if neg then 0 else k.infBits
  | .fin neg m e =>
    if m = 0 then roundMag k r false 1 0 false
    else if e + (m.log2 : Int) ≥ 10 then
      (if neg then roundMag k r false 1 (-400) true else roundMag k r false 1 400 false)
    else
      let sh := (-e).toNat
      let v : Int := if neg then -((m * 2 ^ e.toNat : Nat) : Int) else ((m * 2 ^ e.toNat : Nat) : Int)
      let n := v / 2 ^ sh
      let f := (v % 2 ^ sh).toNat
      if f = 0 then roundMag k r false 1 n false
      else roundMag k r false (fixExp (f * fixLn2 / 2 ^ sh)) (n - fixP) true

/-- log₂ a. -/
def fpLog2 (r : Rnd) (x : Fp) : Nat :=
  let k := fmtOf .f32
  match x with
  | .nan => k.nanBits
  | .inf neg => if neg then k.nanBits else k.infBits
  | .fin neg m e =>
    if m = 0 then k.signBit + k.infBits
    else if neg then k.nanBits
    else
      let n : Int := e + (m.log2 : Int)
      if m = 2 ^ m.log2 then k.encode r (fpOf false n 0)
      else
        let g := m * 2 ^ fixP / 2 ^ m.log2
        let t : Int := n * 2 ^ fixP + ((fixLn g * 2 ^ fixP / fixLn2 : Nat) : Int)
        if t < 0 then roundMag k r true (t.natAbs - 1) (-(fixP : Int)) true
        else roundMag k r false t.natAbs (-(fixP : Int)) true

/-! ### The marker format (R252, R138) -/

/-- The value of a payload, in units of 2^-26. -/
def mkUnits (p : Nat) : Nat :=
  if p = 0 then 0 else
  let h := p.log2
  let w := min 2 h
  let f := h - w
  let e := p / 2 ^ f % 2 ^ w
  let fr := p % 2 ^ f
  let top := [23, 19, 15, 11, 7, 5, 4].getD (6 - h) 0
  2 ^ (top + e) * (2 ^ f + fr) / 2 ^ f

/-- The value of an MK8 code. -/
def mkDecode (c : Nat) : Fp :=
  if c % 128 = 0 then (if c / 128 % 2 = 0 then .fin false 0 0 else .nan)
  else .fin (c / 128 % 2 == 1) (mkUnits (c % 128)) (-26)

/-- m × 2^e compared with n units of 2^-26. -/
def unitsLe (n m : Nat) (e : Int) : Bool := decide (n * 2 ^ (-26 - e).toNat ≤ m * 2 ^ (e + 26).toNat)

/-- Rounding to MK8: the nearest code, ties to the even payload, saturating; +0 at or below 2^-23 (R137, R138). -/
def mkEncode : Fp → Nat
  | .nan => 0x80
  | .inf neg => if neg then 0xFF else 0x7F
  | .fin neg m e =>
    let p := ((List.range 127).filter (fun j => unitsLe (mkUnits (j + 1)) m e)).length
    let p' :=
      if p = 127 then 127
      else
        -- twice the value against the sum of the two neighbours
        let two := mkUnits p + mkUnits (p + 1)
        if unitsLe two (2 * m) e then (if unitsLe (two + 1) (2 * m) e || 2 * m * 2 ^ (e + 26).toNat != two * 2 ^ (-26 - e).toNat
          then p + 1 else if p % 2 = 0 then p else p + 1)
        else p
    if p' = 0 then 0 else (if neg then 128 else 0) + p'

/-! ### Conversions (R137, R139, R140) -/

def isFloatTy (t : Ty) : Bool := t == .f32 || t == .f16 || t == .bf16
def isSmTy (t : Ty) : Bool := t == .sm8 || t == .sm4

/-- The exact value of a source lane (R124, R137). -/
def laneFp (t : Ty) (x : Lane) : Fp :=
  if isFloatTy t then (fmtOf t).decode (x.toNat % 2 ^ (fmtOf t).width)
  else if t == .mk8 then mkDecode (x.toNat % 256)
  else fpOf false (laneInt t x) 0

/-- A finite value rounded to an integer (R137). -/
def fpToInt (r : Rnd) (neg : Bool) (m : Nat) (e : Int) : Int :=
  let sh := (-e).toNat
  let q := if e ≥ 0 then m * 2 ^ e.toNat else m / 2 ^ sh
  let rem := if e ≥ 0 then 0 else m % 2 ^ sh
  let q' := if roundsUp r neg q rem sh false then q + 1 else q
  if neg then -(q' : Int) else q'

/-- An integer in the codes of a destination type: sign-magnitude, or two's complement of the type's width. -/
def intCode (t : Ty) (v : Int) : Lane :=
  if isSmTy t then BitVec.ofNat 32 (smCode (tyWidth t) v) else placeInt t v

/-- VCVT of one lane (R137). -/
def convert (dt st : Ty) (sat : Bool) (r : Rnd) (x : Lane) : Lane :=
  let v := laneFp st x
  if isFloatTy dt then BitVec.ofNat 32 ((fmtOf dt).encode r v)
  else if dt == .mk8 then BitVec.ofNat 32 (mkEncode v)
  else match v with
    | .nan => 0
    | .inf neg => intCode dt (if neg then tyLo dt else tyHi dt)
    | .fin neg m e =>
      let i := fpToInt r neg m e
      if isFloatTy st || st == .mk8 || isSmTy dt || sat then intCode dt (satTo i (tyLo dt) (tyHi dt))
      else intCode dt i

/-- An encoding's bits placed in a lane (R124). -/
def placeFp (bits : Nat) : Lane := BitVec.ofNat 32 bits

/-- A two-operand floating-point instruction of one lane. -/
def fpOp2 (t : Ty) (r : Rnd) (f : Rnd → Fp → Fp → Fp) (a b : Lane) : Lane :=
  placeFp ((fmtOf t).encode r (f r (laneFp t a) (laneFp t b)))

/-- The low bits of a lane that a floating-point type reads. -/
def fpBits (t : Ty) (a : Lane) : Nat := a.toNat % 2 ^ (fmtOf t).width

end Sys2Proof.Machine
end

