-- ==== Sys2Proof/Machine/Vector.lean ====
section
/-! DEFINITION. The vector integer instructions (R128 to R130), floating point and conversion (R131 to R140), and lane
exchange and reductions (R141 to R145). -/

namespace Sys2Proof.Machine

/-! ### Integer -/

def execVmov (d a : Nat) (s : State) : Host.Outcome State Fault Refusal := run (vec1 d a id) s
def execVmovi (d : Nat) (imm : BitVec 32) (s : State) : Host.Outcome State Fault Refusal :=
  run (lanewise d [] [] (pure []) (fun _ _ => imm)) s

/-- An exact operation of two lanes, narrowed by type and .sat (R129). -/
def vecArith (ty : Ty) (sat : Bool) (d a b : Nat) (f : Int → Int → Int) : M Done :=
  vec2 d a b (fun x y => narrow ty sat (f (laneInt ty x) (laneInt ty y)))

def execVadd (ty : Ty) (sat : Bool) (d a b : Nat) (s : State) : Host.Outcome State Fault Refusal :=
  run (vecArith ty sat d a b (· + ·)) s
def execVsub (ty : Ty) (sat : Bool) (d a b : Nat) (s : State) : Host.Outcome State Fault Refusal :=
  run (vecArith ty sat d a b (· - ·)) s
def execVmul (ty : Ty) (sat : Bool) (d a b : Nat) (s : State) : Host.Outcome State Fault Refusal :=
  run (vecArith ty sat d a b (· * ·)) s
/-- The high half of the exact double-width product. -/
def execVmulh (ty : Ty) (d a b : Nat) (s : State) : Host.Outcome State Fault Refusal :=
  run (vecArith ty false d a b (fun x y => (x * y) / 2 ^ tyWidth ty)) s
/-- One saturation or wrap of the whole expression. -/
def execVmad (ty : Ty) (sat : Bool) (d a b c : Nat) (s : State) : Host.Outcome State Fault Refusal :=
  run (vec3 d a b c (fun x y z => narrow ty sat (laneInt ty x * laneInt ty y + laneInt ty z))) s
def execVmin (ty : Ty) (d a b : Nat) (s : State) : Host.Outcome State Fault Refusal :=
  run (vecArith ty false d a b (fun x y => if x ≤ y then x else y)) s
def execVmax (ty : Ty) (d a b : Nat) (s : State) : Host.Outcome State Fault Refusal :=
  run (vecArith ty false d a b (fun x y => if x ≤ y then y else x)) s
def execVabs (ty : Ty) (sat : Bool) (d a : Nat) (s : State) : Host.Outcome State Fault Refusal :=
  run (vec1 d a (fun x => narrow ty sat ((laneInt ty x).natAbs : Int))) s
def execVneg (ty : Ty) (sat : Bool) (d a : Nat) (s : State) : Host.Outcome State Fault Refusal :=
  run (vec1 d a (fun x => narrow ty sat (-(laneInt ty x)))) s
def execVaddi (ty : Ty) (sat : Bool) (d a : Nat) (imm : BitVec 26) (s : State) : Host.Outcome State Fault Refusal :=
  run (vec1 d a (fun x => narrow ty sat (laneInt ty x + imm.toInt))) s
/-- VSAT reads its source as i32 and always saturates. -/
def execVsat (ty : Ty) (d a : Nat) (s : State) : Host.Outcome State Fault Refusal :=
  run (vec1 d a (fun x => narrow ty true x.toInt)) s

def execVand (d a b : Nat) (s : State) : Host.Outcome State Fault Refusal := run (vec2 d a b (· &&& ·)) s
def execVor (d a b : Nat) (s : State) : Host.Outcome State Fault Refusal := run (vec2 d a b (· ||| ·)) s
def execVxor (d a b : Nat) (s : State) : Host.Outcome State Fault Refusal := run (vec2 d a b (· ^^^ ·)) s
def execVnot (d a : Nat) (s : State) : Host.Outcome State Fault Refusal := run (vec1 d a (~~~ ·)) s
def execVshl (d a b : Nat) (s : State) : Host.Outcome State Fault Refusal :=
  run (vec2 d a b (fun x y => if y.toNat < 32 then x <<< y.toNat else 0)) s
def execVshr (d a b : Nat) (s : State) : Host.Outcome State Fault Refusal :=
  run (vec2 d a b (fun x y => if y.toNat < 32 then x >>> y.toNat else 0)) s
def execVsar (d a b : Nat) (s : State) : Host.Outcome State Fault Refusal :=
  run (vec2 d a b (fun x y => x.sshiftRight (min y.toNat 32))) s
def execVclz (d a : Nat) (s : State) : Host.Outcome State Fault Refusal :=
  run (vec1 d a (fun x => BitVec.ofNat 32 (clz 32 x.toNat))) s
def execVpopc (d a : Nat) (s : State) : Host.Outcome State Fault Refusal :=
  run (vec1 d a (fun x => BitVec.ofNat 32 (popc 32 x.toNat))) s
/-- a where mC has the lane, else b; mC's label is a uniform-kind source. -/
def execVsel (d a b c : Nat) (s : State) : Host.Outcome State Fault Refusal :=
  run (do
    let _ ← myFrag
    let m ← maskBits c
    lanewise d [a, b] [.m c] (do pure [← maskLab c])
      (fun tm l => if mhas m l then tm.lane a l else tm.lane b l)) s
/-- Bits [b + n − 1 : b] of a, n = min(c, 32). -/
def execVbfe (d a b c : Nat) (s : State) : Host.Outcome State Fault Refusal :=
  run (vec3 d a b c (fun x y z =>
    if y.toNat < 32 then BitVec.ofNat 32 (x.toNat / 2 ^ y.toNat % 2 ^ (min z.toNat 32)) else 0)) s

/-- c with bits [p + n − 1 : p] replaced by the low n bits of a (R130). -/
def bfi (a b c : Lane) : Lane :=
  let p := b.toNat % 256
  let n := min (b.toNat / 256 % 256) (32 - p)
  if p ≥ 32 ∨ n = 0 then c
  else
    let m : Lane := BitVec.ofNat 32 ((2 ^ n - 1) * 2 ^ p)
    (c &&& ~~~m) ||| ((a <<< p) &&& m)
def execVbfi (d a b c : Nat) (s : State) : Host.Outcome State Fault Refusal := run (vec3 d a b c bfi) s

def execVlane (d a : Nat) (s : State) : Host.Outcome State Fault Refusal :=
  run (do
    let r ← rdS a
    lanewise d [] [.s a] (pure [r.lab]) (fun _ l => BitVec.ofNat 32 (l + r.val.toNat % 2 ^ 32))) s
def execVfroms (d a : Nat) (s : State) : Host.Outcome State Fault Refusal :=
  run (do
    let r ← rdS a
    lanewise d [] [.s a] (pure [r.lab]) (fun _ _ => r.val.extractLsb' 0 32)) s

/-! ### Floating point -/

def fpSub (r : Rnd) (a b : Fp) : Fp := fpAdd r a (fpNeg b)

def execVfadd (ty : Ty) (r : Rnd) (d a b : Nat) (s : State) : Host.Outcome State Fault Refusal :=
  run (vec2 d a b (fpOp2 ty r fpAdd)) s
def execVfsub (ty : Ty) (r : Rnd) (d a b : Nat) (s : State) : Host.Outcome State Fault Refusal :=
  run (vec2 d a b (fpOp2 ty r fpSub)) s
def execVfmul (ty : Ty) (r : Rnd) (d a b : Nat) (s : State) : Host.Outcome State Fault Refusal :=
  run (vec2 d a b (fpOp2 ty r (fun _ => fpMul))) s
/-- One rounding of a × b + c. -/
def fma (ty : Ty) (r : Rnd) (a b c : Lane) : Lane :=
  placeFp ((fmtOf ty).encode r (fpAdd r (fpMul (laneFp ty a) (laneFp ty b)) (laneFp ty c)))
def execVfma (ty : Ty) (r : Rnd) (d a b c : Nat) (s : State) : Host.Outcome State Fault Refusal :=
  run (vec3 d a b c (fma ty r)) s
def laneMinMax (ty : Ty) (isMax : Bool) (a b : Lane) : Lane :=
  placeFp (fpMinMax (fmtOf ty) isMax (fpBits ty a) (fpBits ty b))
def execVfmin (ty : Ty) (d a b : Nat) (s : State) : Host.Outcome State Fault Refusal :=
  run (vec2 d a b (laneMinMax ty false)) s
def execVfmax (ty : Ty) (d a b : Nat) (s : State) : Host.Outcome State Fault Refusal :=
  run (vec2 d a b (laneMinMax ty true)) s

/-- WAIT class tr (R73). -/
def classTr : Nat := 4

/-- A long-latency function of one lane: its result, then its lookahead window (R135, R40). -/
def vecFn (la d a : Nat) (f : Fp → Nat) : M Done := do
  let r ← vec1 d a (fun x => placeFp (f (laneFp .f32 x)))
  openWindow [.v d] la classTr
  pure r

def execVfrcp (la : Nat) (r : Rnd) (d a : Nat) (s : State) : Host.Outcome State Fault Refusal :=
  run (vecFn la d a (fpRcp r)) s
def execVfrsq (la : Nat) (r : Rnd) (d a : Nat) (s : State) : Host.Outcome State Fault Refusal :=
  run (vecFn la d a (fpRsq r)) s
def execVfexp2 (la : Nat) (r : Rnd) (d a : Nat) (s : State) : Host.Outcome State Fault Refusal :=
  run (vecFn la d a (fpExp2 r)) s
def execVflog2 (la : Nat) (r : Rnd) (d a : Nat) (s : State) : Host.Outcome State Fault Refusal :=
  run (vecFn la d a (fpLog2 r)) s

/-- The sign bit alone changes, on every encoding (R134). -/
def signOf (ty : Ty) : Nat := (fmtOf ty).signBit
def execVfabs (ty : Ty) (d a : Nat) (s : State) : Host.Outcome State Fault Refusal :=
  run (vec1 d a (fun x => placeFp (fpBits ty x % signOf ty))) s
def execVfneg (ty : Ty) (d a : Nat) (s : State) : Host.Outcome State Fault Refusal :=
  run (vec1 d a (fun x => placeFp (fpBits ty x ^^^ signOf ty))) s

def execVcvt (dt st : Ty) (sat : Bool) (r : Rnd) (d a : Nat) (s : State) : Host.Outcome State Fault Refusal :=
  run (vec1 d a (convert dt st sat r)) s

/-- The low w bits of a converted element. -/
def packElem (ty : Ty) (sat : Bool) (r : Rnd) (x : Lane) : Nat :=
  (convert ty (packSrc ty) sat r x).toNat % 2 ^ tyWidth ty

/-- VPACK: 16-bit elements fill the lane; narrower ones shift the old lane, which is then a source (R139). -/
def execVpack (ty : Ty) (sat : Bool) (r : Rnd) (d a b : Nat) (s : State) : Host.Outcome State Fault Refusal :=
  run (
    let w := tyWidth ty
    if w = 16 then
      vec2 d a b (fun x y => BitVec.ofNat 32 (packElem ty sat r x + packElem ty sat r y * 2 ^ 16))
    else
      vec3 d a b d (fun x y z => BitVec.ofNat 32 (z.toNat / 2 ^ (2 * w) + packElem ty sat r x * 2 ^ (32 - 2 * w) +
        packElem ty sat r y * 2 ^ (32 - w)))) s

/-- VUNPK: an element widened exactly to i32 or f32 (R140). -/
def execVunpk (ty : Ty) (hi : Bool) (d a : Nat) (s : State) : Host.Outcome State Fault Refusal :=
  run (vec1 d a (fun x =>
    let w := tyWidth ty
    let e : Lane := BitVec.ofNat 32 (x.toNat / (if hi then 2 ^ w else 1) % 2 ^ w)
    if isFloatTy ty || ty == .mk8 then convert .f32 ty false .rn e else BitVec.ofInt 32 (laneInt ty e))) s

/-! ### Lane exchange and reductions -/

/-- A cross-lane instruction's write: every word takes the one join over the groups with an active lane (R141). -/
def crossWrite (d : Nat) (labs : List Lbl) (f : Nat → Lane) : M Unit := do
  writeV d (fun _ => labs) f

/-- The source lane of VSHUF (R142). -/
def shufSource (m : ShufMode) (l b : Nat) : Int :=
  match m with
  | .idx => (b : Int)
  | .xor => ((l ^^^ b : Nat) : Int)
  | .up => (l : Int) - b
  | .down => (l : Int) + b

def execVshuf (mode : ShufMode) (d a b : Nat) (s : State) : Host.Outcome State Fault Refusal :=
  run (do
    issue [.v a, .v b] (← vDst d)
    let th ← myTh
    if th.exm = 0 then done
    else do
      let tm ← myTeam
      crossWrite d (tm.crossLab th.exm a ++ tm.crossLab th.exm b) (fun l =>
        let x := shufSource mode l (tm.lane b l).toNat
        if 0 ≤ x ∧ x < 1024 ∧ mhas th.exm x.toNat then tm.lane a x.toNat else tm.lane a l)
      done) s

def execVbcast (d a b : Nat) (s : State) : Host.Outcome State Fault Refusal :=
  run (do
    issue [.v a, .s b] (← vDst d)
    let th ← myTh
    if th.exm = 0 then done
    else do
      let tm ← myTeam
      let rb ← rdS b
      let n := rb.val.toNat
      let v : Lane := if n < tm.lanes ∧ mhas th.exm n then tm.lane a n else 0
      crossWrite d (tm.crossLab th.exm a ++ [rb.lab]) (fun _ => v)
      done) s

/-- One step of a fold for everything but integer addition, on the encodings (R144). -/
def foldOp (op : AOp) (ty : Ty) (r : Rnd) (x y : Lane) : Lane :=
  match op with
  | .add => if ty == .f32 then fpOp2 .f32 r fpAdd x y else x + y
  | .min => if ty == .f32 then laneMinMax .f32 false x y else if laneInt ty x ≤ laneInt ty y then x else y
  | .max => if ty == .f32 then laneMinMax .f32 true x y else if laneInt ty x ≤ laneInt ty y then y else x
  | .and => x &&& y
  | .or => x ||| y
  | .xor => x ^^^ y
  | .exch => y

/-- A single value of an f32 fold is itself, a NaN made canonical (R133, R144). -/
def foldFirst (op : AOp) (ty : Ty) (x : Lane) : Lane :=
  if ty == .f32 && (op == .add || op == .min || op == .max) && laneFp .f32 x == .nan then
    placeFp (fmtOf .f32).nanBits else x

/-- The fold of a list of lanes in its order: integer .add is one exact sum, wrapped or saturated once; every other
operator goes lane by lane (R144). -/
def foldLanes (op : AOp) (ty : Ty) (sat : Bool) (r : Rnd) (xs : List Lane) : Lane :=
  if op == .add && ty != .f32 then narrow ty sat ((xs.map (laneInt ty)).sum)
  else match xs with
    | [] => 0
    | x :: rest => rest.foldl (foldOp op ty r) (foldFirst op ty x)

/-- The identity of an exclusive scan's first lane (R145). -/
def foldIdentity (op : AOp) (ty : Ty) : Lane :=
  match op with
  | .min => if ty == .f32 then 0x7F800000 else if ty == .i32 then 0x7FFFFFFF else 0xFFFFFFFF
  | .max => if ty == .f32 then 0xFF800000 else if ty == .i32 then 0x80000000 else 0
  | .and => 0xFFFFFFFF
  | _ => 0

/-- VRED: the fold in ascending lane order, into a uniform register whose label it replaces (R144). -/
def execVred (la : Nat) (ty : Ty) (sat : Bool) (r : Rnd) (op : AOp) (d a : Nat) (s : State) :
    Host.Outcome State Fault Refusal :=
  run (do
    let th ← myTh
    issue [.v a] (if th.exm = 0 then [] else [.s d])
    if th.exm = 0 then pure ()
    else do
      let tm ← myTeam
      let l ← joinAll (tm.crossLab th.exm a ++ [th.pcl])
      let v := foldLanes op ty sat r ((mlanes th.exm).map (fun l => tm.lane a l))
      writeS d (if ty == .i32 then v.signExtend 64 else v.zeroExtend 64) l
    openWindow [.s d] la classTr
    done) s

/-- VSCAN: to each active lane the fold up to it, or before it under .excl (R145). -/
def execVscan (la : Nat) (ty : Ty) (sat : Bool) (r : Rnd) (op : AOp) (excl : Bool) (d a : Nat) (s : State) :
    Host.Outcome State Fault Refusal :=
  run (do
    issue [.v a] (← vDst d)
    let th ← myTh
    if th.exm = 0 then pure ()
    else do
      let tm ← myTeam
      let ls := mlanes th.exm
      crossWrite d (tm.crossLab th.exm a) (fun l =>
        let before := ls.filter (fun k => if excl then decide (k < l) else decide (k ≤ l))
        if before.isEmpty then foldIdentity op ty
        else foldLanes op ty sat r (before.map (fun k => tm.lane a k)))
    openWindow [.v d] la classTr
    done) s

end Sys2Proof.Machine
end

