-- ==== Sys2Proof/Machine/Atomics.lean ====
section
/-! DEFINITION. The atomics (R222 to R229). -/

namespace Sys2Proof.Machine

/-- WAIT class at (R73). -/
def classAt : Nat := 3

/-- Performed in the core's L1: an ordinary page of this module under .core (R227). -/
def inL1 (sc : Scope) (l : Loc) : Bool := sc == .core && !l.ms && !l.outside
/-- The scope that says where an agent's atomic is performed: a supervisor core has no L1 of its own (R3), and performs its
.core atomics where .clus ones are. -/
def placeScope (sc : Scope) : M Scope := do
  match ← me with
  | .sup _ => pure (if sc == .core then .clus else sc)
  | _ => effScope sc

/-- One lane of an atomic: its location, the new value as a function of the old, or none where it writes nothing, its operand
and operand's label. -/
structure Rmw where
  loc : Loc
  f : Nat → Option Nat
  operand : Nat
  lab : Lbl

def rmwTerms (sc : Scope) : List Rmw → M Unit
  | [] => pure ()
  | r :: rs => do
    if inL1 sc r.loc then pure ()
    else
      let _ ← addTerm false (BitVec.ofNat 64 r.loc.va) (BitVec.ofNat 64 r.operand) 8 r.lab
      pure ()
    rmwTerms sc rs

/-- Performs lanes one after another in the order of the list (R225). -/
def rmwAll (sc : Scope) (past : Bool) (n : Nat) : List Rmw → M (List Word)
  | [] => pure []
  | r :: rs => do
    let v ← rmwLoc (inL1 sc r.loc) past n r.loc r.f
    let vs ← rmwAll sc past n rs
    pure (BitVec.ofNat 64 v :: vs)

/-- What a trailing copy does in place of the accesses: its own L1 alone takes the new values (R310). -/
def rmwTrail (sc : Scope) (n : Nat) : List (Rmw × Word) → M Unit
  | [] => pure ()
  | (r, v) :: rs => do
    match inL1 sc r.loc, r.f v.toNat with
    | true, some x => holdHere (numBytes r.loc.pa n x)
    | _, _ => pure ()
    rmwTrail sc n rs

def acquireLines (sc : Scope) : List Loc → M Unit
  | [] => pure ()
  | l :: ls => do acquireLine sc l.line; acquireLines sc ls

/-- Performs a checked atomic and answers the old values, where it returns any, and how the instruction ends. Outside
the L1 it stands behind a commit point and is never undone (R227, R338). -/
def rmwLocs (sc : Scope) (o : Ord4) (n : Nat) (returns : Bool) (rs : List Rmw) : M (List Word × Done) := do
  let out := rs.any (fun r => r.loc.outside)
  let rel ← relScope (← effScope sc) o
  let rel := if out then rel.map (fun _ => Scope.sys) else rel
  let acq ← effScope (if out then .sys else sc)
  let sc ← placeScope sc
  let locs := rs.map Rmw.loc
  let lines := locs.map Loc.line
  let homes := rs.any (fun r => !inL1 sc r.loc)
  let s0 ← get
  let wide := rel.any (fun r => wider r || !s0.noticesFit lines)
  awaitLines ((locs.filter (fun l => !inL1 sc l)).map Loc.line)
  touchAll (locs.filter (fun l => !l.ms))
  if wide then awaitRelease (lines.filter (fun _ => !homes)) else pure ()
  if homes then commitWith (rmwTerms sc rs) else if wide then pure () else reserveLines lines []
  if isAcq o then acquireLines acq locs else pure ()
  checkPoisons locs
  let trail ← isTrail
  let act : M (List Word) := rmwAll sc homes n rs
  let vs ← if returns then onceLogged n locs act
    else if trail then do
      let _ ← rmwAll sc homes n (rs.filter (fun r => inL1 sc r.loc))
      pure []
    else act
  if trail then dropLines ((locs.filter (fun l => !inL1 sc l)).map Loc.line) else pure ()
  if trail && returns then rmwTrail sc n (rs.zip vs) else pure ()
  takeMark o
  if wide then
    if homes then do
      writeThroughHere
      pure (vs, { past := true })
    else do
      let d ← releaseNow
      pure (vs, d)
  else do
    if rel.isSome && (agentCid (← me)).isSome then noticeLines homes lines else pure ()
    pure (vs, { past := homes })

/-- Addresses of a vector atomic: one base for every lane, or a register pair (R223). -/
def atomAcc (pb : ABase) (a : Nat) (ofs : BitVec 14) : M (Acc × (Nat → List Lbl)) :=
  match pb with
  | .uniform => laneAcc 4 a none false ofs.toInt
  | .pair => pairAcc 4 a ofs.toInt

def atomNames (pb : ABase) (a : Nat) : List RegName :=
  match pb with
  | .uniform => [.s a]
  | .pair => [.v a, .v (a + 1)]

/-- A checked vector atomic (R225): the labels of its operand registers enter the check label (R55), and so every lane's
operation. -/
def vecAtomic (sc : Scope) (o : Ord4) (pb : ABase) (regs : List Nat) (b a : Nat) (ofs : BitVec 14) (d : Option Nat)
    (f : Team → Nat → Nat → Option Nat) (operand : Team → Nat → Nat) : M Done := do
  let dst ← match d with | some r => vDst r | none => pure []
  issue (atomNames pb a ++ regs.map .v) dst
  let th ← myTh
  if th.exm = 0 then done
  else do
    let tm ← myTeam
    let (acc, labs) ← atomAcc pb a ofs
    let locs ← checkAcc .atomic acc
    checkClaims acc (locs.map (fun l => (l.lane, l.va)))
    let ls ← groupLabels (mgroups th.exm) (fun g => regs.map (fun r => tm.vlab r g) ++ labs g ++ [th.pcl])
    let s ← get
    checkFlow acc (locs.map (fun l => (l.lane, s.granLab l.line))) (fun l => labOf ls (l / 32))
    let labs' : Nat → List Lbl := fun g =>
      (locs.filter (fun l => l.lane / 32 == g)).map (fun l => s.granLab l.line) ++ [labOf ls g]
    match d with
    | some r => prepareV r labs'
    | none => pure ()
    let (vs, e) ← rmwLocs sc o 4 d.isSome (locs.map (fun l =>
      { loc := l, f := f tm l.lane, operand := operand tm l.lane, lab := tm.vlab b (l.lane / 32) }))
    match d with
    | some r =>
      let res := (locs.zip vs).map (fun e => (e.1.lane, e.2.toNat))
      writeV r labs' (fun l => BitVec.ofNat 32 (laneVal res l))
    | none => pure ()
    pure e

/-- Combine on lanes (R224, R225). -/
def combine (op : AOp) (ty : Ty) (old : Nat) (x : Lane) : Nat := (foldOp op ty .rn (BitVec.ofNat 32 old) x).toNat

def execAtom (la : Nat) (ty : Ty) (scp : Scope) (o : Ord4) (pb : ABase) (op : AOp) (d a b : Nat) (ofs : BitVec 14)
    (s : State) : Host.Outcome State Fault Refusal :=
  run (do
    let e ← vecAtomic scp o pb [b] b a ofs (some d) (fun tm l old => some (combine op ty old (tm.lane b l)))
      (fun tm l => (tm.lane b l).toNat)
    openWindow [.v d] la classAt
    pure e) s

/-- ATOMC: vD is the compare value and takes the old one; its label is among the operands' (R55). -/
def execAtomc (la : Nat) (scp : Scope) (o : Ord4) (pb : ABase) (d a b : Nat) (ofs : BitVec 14) (s : State) :
    Host.Outcome State Fault Refusal :=
  run (do
    let e ← vecAtomic scp o pb [b, d] b a ofs (some d)
      (fun tm l old => if old = (tm.lane d l).toNat then some (tm.lane b l).toNat else none) (fun tm l => (tm.lane b l).toNat)
    openWindow [.v d] la classAt
    pure e) s

/-- RED returns nothing; it is outstanding until acknowledged (R228). -/
def execRed (ty : Ty) (scp : Scope) (o : Ord4) (pb : ABase) (op : AOp) (a b : Nat) (ofs : BitVec 14) (s : State) :
    Host.Outcome State Fault Refusal :=
  run (do
    let e ← vecAtomic scp o pb [b] b a ofs none (fun tm l old => some (combine op ty old (tm.lane b l)))
      (fun tm l => (tm.lane b l).toNat)
    if (← myTh).exm = 0 then pure e
    else do
      modTh (fun th => { th with outAt := th.outAt + 1 })
      pure e) s

/-- Combine on doublewords, unsigned for TY 0x0 and signed for i64 (R224). -/
def combine64 (op : AOp) (i64 : Bool) (old : Nat) (x : Word) : Nat :=
  let w : Word := BitVec.ofNat 64 old
  let le : Word → Word → Bool := fun p q => if i64 then p.sle q else decide (p ≤ q)
  (match op with
    | .add => w + x
    | .min => if le w x then w else x
    | .max => if le w x then x else w
    | .and => w &&& x
    | .or => w ||| x
    | .xor => w ^^^ x
    | .exch => x).toNat

def execSatom (la : Nat) (i64 : Bool) (scp : Scope) (o : Ord4) (op : AOp) (d a b : Nat) (ofs : BitVec 14) (s : State) :
    Host.Outcome State Fault Refusal :=
  run (do
    issue [.s a, .s b] [.s d]
    let ra ← rdS a
    let rb ← rdS b
    let acc : Acc := { uni := true, size := 8, eas := [(0, eaUniform ra.val 0 ofs.toInt)], alab := [ra.lab] ++ (← claimLabel) }
    let locs ← checkAcc .atomic acc
    checkClaims acc (locs.map (fun l => (l.lane, l.va)))
    let l ← joinAll ([rb.lab] ++ acc.alab ++ [← myPcl])
    let s ← get
    checkFlow acc (locs.map (fun x => (x.lane, s.granLab x.line))) (fun _ => l)
    let res ← joinAll (locs.map (fun x => s.granLab x.line) ++ [l])
    let (vs, e) ← rmwLocs scp o 8 true (locs.map (fun x =>
      { loc := x, f := fun old => some (combine64 op i64 old rb.val), operand := rb.val.toNat, lab := rb.lab }))
    writeS d (vs.headD 0) res
    openWindow [.s d] la classAt
    pure e) s

end Sys2Proof.Machine
end

