-- ==== Sys2Proof/Machine/Sync.lean ====
section
/-! DEFINITION. Fences (R230, R231), named barriers (R232 to R234), barrier words (R160 to R163), CKPT (R235) and the claim
instructions (R236 to R239). -/

namespace Sys2Proof.Machine

/-- Instructions that act once when exm has an active lane, and always in sequencer and supervisor code (R18, R162,
R233). -/
def acts : M Bool := do
  match ← me with
  | .frag _ _ _ => pure ((← myTh).exm != 0)
  | _ => pure true

/-! ### Fences -/

/-- How wide a scope is (R193). -/
def scopeRank : Scope → Nat
  | .core => 0
  | .clus => 1
  | .die => 2
  | .dev => 3
  | .sys => 4
/-- The mark of a fence beside that of one before it: the store that both make a release is released at the wider scope (R231). -/
def widest (old : Option Scope) (sc : Scope) : Scope :=
  match old with
  | some o => if scopeRank sc < scopeRank o then o else sc
  | none => sc

/-- What both fences do (R231, R215). The release side at .clus or wider is a commit point and marks the next relaxed store or
atomic; FENCE .ar, and every FENCEX, at .clus or wider makes what its agent has stored visible at the home slices before
anything later; the acquire side drops the core's clean lines. -/
def fenceOp (sc : Scope) (o : Ord4) (cross : Bool) : M Done := do
  issue [] []
  let sc ← effScope sc
  let commits := wider sc && (isRel o || cross)
  let through := wider sc && (cross || o == .ar)
  if through then awaitRelease [] else pure ()
  if commits then commitHere else pure ()
  match agentCid (← me) with
  | some cid => if through then modify (fun s => s.wtCoreOf cid) else pure ()
  | none => pure ()
  if isAcq o && wider sc then dropClean else pure ()
  if isRel o then modTh (fun th => { th with relNext := some (widest th.relNext sc) }) else pure ()
  pure { past := commits }

def execFence (scp : Scope) (o : Ord4) (s : State) : Host.Outcome State Fault Refusal := run (fenceOp scp o false) s

/-- FENCEX also makes the stores before it visible to every path (R215, log 37): what the crew and its core hold is
committed and written through. The path set names which paths are promised; the model's engines read at the home
slices, so it promises all of them. -/
def execFencex (scp : Scope) (o : Ord4) (paths : BitVec 6) (s : State) : Host.Outcome State Fault Refusal :=
  run (if paths = 0 then illegal .badField else fenceOp scp o true) s

/-! ### Named barriers -/

/-- A barrier of a crew; unlisted it stands as at placement, RLD and CNT the crew's teams (R232). -/
def Body.bar (b : Body) (teams n : Nat) : NBar := (kvFind b.bars n).getD { rld := teams, cnt := teams }

/-- The teams of the executing agent's crew, by its launch record. -/
def myTeams : M Nat := do
  let c ← myCrew
  pure (match (← get).cast? c.vf c.key with | some k => k.launch.teams | none => c.body.teams.length)

/-- A barrier's name for an agent: teams and contexts arrive each for itself. -/
def barKey : Agent → Nat
  | .frag _ t _ => 2 * t
  | .seq _ x => 2 * x + 1
  | .sup _ => 0

/-- One arrival (R233). -/
def NBar.arrive (b : NBar) (k : Nat) : NBar :=
  let b1 := { b with ap := kvSet b.ap k b.ph }
  if b.cnt ≤ 1 then { b1 with ph := !b.ph, cnt := b.rld } else { b1 with cnt := b.cnt - 1 }

/-- Threads parked on a barrier that flips pass it. -/
def Thread.pass (n : Nat) (th : Thread) : Thread := if th.park == .bar n then { th with park := .passed n } else th
def Body.passBar (b : Body) (n : Nat) : Body :=
  { b with teams := b.teams.map (fun e => (e.1, { e.2 with frags := e.2.frags.map (fun f => (f.1, f.2.pass n)) }))
           seqs := b.seqs.map (fun e => (e.1, { e.2 with th := e.2.th.pass n })) }

def arriveBar (n : Nat) : M Unit := do
  let teams ← myTeams
  let k := barKey (← me)
  modMyCrew (fun c => c.modBody (fun b =>
    let old := b.bar teams n
    let new := old.arrive k
    let b1 := { b with bars := kvSet b.bars n new }
    if new.ph != old.ph then b1.passBar n else b1))

/-- BARW: with no arrival of its own the agent waits for the next flip. -/
def waitBar (n : Nat) : M Unit := do
  let teams ← myTeams
  let b := (← myCrew).body.bar teams n
  match (← myTh).park with
  | .passed _ => pure ()
  | _ => if (kvGet b.ph b.ap (barKey (← me))) != b.ph then pure () else throw (.park (.bar n))

def execBara (n : Nat) (s : State) : Host.Outcome State Fault Refusal :=
  run (do
    issue [] []
    if ← acts then arriveBar n else pure ()
    done) s
def execBarw (n : Nat) (s : State) : Host.Outcome State Fault Refusal :=
  run (do
    issue [] []
    waitBar n
    done) s
/-- BARAW is one arrival and its wait: a fragment that stands parked on it has arrived. -/
def execBaraw (n : Nat) (s : State) : Host.Outcome State Fault Refusal :=
  run (do
    issue [] []
    if ← acts then
      match (← myTh).park with
      | .bar _ => pure ()
      | .passed _ => pure ()
      | _ => arriveBar n
      waitBar n
    else pure ()
    done) s
def execBari (n a : Nat) (s : State) : Host.Outcome State Fault Refusal :=
  run (do
    issue [.s a] []
    if ← acts then
      let teams ← myTeams
      let v := (← valS a).toNat % 4096
      let r := if v = 0 then 4096 else v
      modMyCrew (fun c => c.modBody (fun b =>
        let old := b.bar teams n
        { b with bars := kvSet b.bars n { old with rld := r, cnt := if old.cnt = old.rld then r else old.cnt } }))
    else pure ()
    done) s

/-! ### Barrier words -/

/-- A barrier word (R160). -/
def bwErr (w : Nat) : Bool := w.testBit 31
def bwPh (w : Nat) : Bool := w.testBit 30
def bwFc (w : Nat) : Nat := w / 2 ^ 24 % 64
def bwRld (w : Nat) : Nat := w / 2 ^ 12 % 4096
def bwCnt (w : Nat) : Nat := w % 4096
def bwMake (err ph : Bool) (fc rld cnt : Nat) : Nat :=
  (if err then 2 ^ 31 else 0) + (if ph then 2 ^ 30 else 0) + fc % 64 * 2 ^ 24 + rld % 4096 * 2 ^ 12 + cnt % 4096

/-- One arrival: an engine's error code enters ERR and FC when ERR was 0, and completes the phase (R162). -/
def bwArrive (err : Option Nat) (w : Nat) : Nat :=
  let e := bwErr w || err.isSome
  let fc := match err with | some c => if bwErr w then bwFc w else c | none => bwFc w
  if err.isSome || bwCnt w ≤ 1 then bwMake e (!bwPh w) fc (bwRld w) (bwRld w)
  else bwMake e (bwPh w) fc (bwRld w) (bwCnt w - 1)

/-- Where a barrier word lies: in the crew's scratchpad, through its aperture, or in memory (R161). -/
inductive WordAt where
  | pad (off : Nat)
  | mem (l : Loc)

/-- The checks of a barrier-word access. In the aperture: the limit, alignment and the state of the line; in memory those
of R149. Then, with a check label, which is formed there, the label check of R56; a word that is read consumes poison (R343). -/
def checkWord (k : AccKind) (a : Acc) (lab : Option (M Lbl)) : M WordAt := do
  let ap ← myAperture
  let ea := (a.eas.headD (0, 0)).2
  if canonical ea && inAperture ap ea 1 then
    let off := ea.toNat - ap.1
    let p := (← myCrew).body.pad
    checkAll a 0x06 0 (fun _ => decide (p.size < off + 4))
    checkAll a 0x1B 0 (fun e => e.2 % 4 != 0)
    checkAll a 0x14 0 (fun _ => p.failed.contains (padLine off))
    if p.absent.contains (padLine off) then throw (.park .line) else pure ()
    match lab with
    | some m => do
      let l ← m
      checkFlow a [(0, p.lab (padLine off))] (fun _ => l)
    | none => pure ()
    if k != .store && p.poison.contains (padLine off) then throw (.spoilt off) else pure (.pad off)
  else
    let locs ← checkAcc k a
    if isWrite k then checkClaims a (locs.map (fun l => (l.lane, l.va))) else pure ()
    let s ← get
    match lab with
    | some m => do
      let l ← m
      checkFlow a (locs.map (fun x => (x.lane, s.granLab x.line))) (fun _ => l)
    | none => pure ()
    match locs with
    | l :: _ => pure (.mem l)
    | [] => throw (.fault .noAgent)

/-- Updates a barrier word in place: in the scratchpad, at the L1, at the home slice, or beside the channel. A release at
.clus or wider, and in a pair any access to memory, stands behind a commit point (R161, R207, R310). On a word in the aperture a
release acts as one at .core, whatever scope its instruction or the fence before it names (R161, log 80). -/
def updateWord (k : AccKind) (sc : Scope) (o : Ord4) (a : Acc) (term : Word) (f : Nat → Nat) : WordAt → M Done
  | .pad off => do
    let rel ← relScope .core o
    let lines := ((← myCrew).body.pad.filled.filter (fun e => e.1 == padLine off)).map Prod.snd
    let wide := rel.isSome && !(← get).noticesFit lines
    reserveLines [] [padLine off]
    if wide then awaitRelease lines else pure ()
    let p := (← myCrew).body.pad
    padWrite [(off, f (p.nat off 4))] 4
    takeMark o
    if wide then releaseNow
    else do
      if rel.isSome then noticeLines false lines else pure ()
      done
  | .mem l => do
    let pcl ← myPcl
    let rel ← relScope (← effScope sc) o
    let rel := if l.outside then rel.map (fun _ => Scope.sys) else rel
    let paired ← isPaired
    let l1 := inL1 (← placeScope sc) l && !paired
    let wide := rel.any (fun r => wider r) || (rel.isSome && !(← get).noticesFit [l.line])
    if l1 then pure () else awaitLines [l.line]
    touchAll (if l.ms then [] else [l])
    if wide then awaitRelease [] else pure ()
    if !l1 || wide then
      commitWith (do
        let _ ← addTerm false (BitVec.ofNat 64 (a.eas.headD (0, 0)).2.toNat) term 4 pcl
        pure ())
    else reserveLines [l.line] []
    if ← isTrail then dropLines [l.line]
    else
      if k == .store then pure () else checkPoison l.line
      let _ ← rmwAt (l1 && !wide) false 4 l (fun v => some (f v))
      pure ()
    takeMark o
    if wide || (rel.isSome && paired) then writeThroughHere
    else if rel.isSome && (agentCid (← me)).isSome then noticeLines (!l1) [l.line]
    else pure ()
    pure { past := !l1 || wide }

/-- WBARA: an arrival, which is an atomic with the PC label for an operand (R56). -/
def execWbara (scp : Scope) (a b : Nat) (ofs : BitVec 18) (s : State) : Host.Outcome State Fault Refusal :=
  run (do
    issue [.s a, .s b] []
    if ← acts then
      let acc ← uniAcc 4 a b ofs.toInt
      let pcl ← myPcl
      let w ← checkWord .atomic acc (some (joinAll (acc.alab ++ [pcl])))
      updateWord .atomic scp .rel acc 0 (bwArrive none) w
    else done) s

/-- WBARI: a store of the low half of sD (R56, R162). -/
def execWbari (scp : Scope) (d a b : Nat) (ofs : BitVec 18) (s : State) : Host.Outcome State Fault Refusal :=
  run (do
    issue [.s a, .s b, .s d] []
    if ← acts then
      let rd ← rdS d
      let acc ← uniAcc 4 a b ofs.toInt
      let pcl ← myPcl
      let w ← checkWord .store acc (some (joinAll ([rd.lab] ++ acc.alab ++ [pcl])))
      let v := rd.val.toNat % 2 ^ 32
      updateWord .store scp .rlx acc (BitVec.ofNat 64 v) (fun _ => v) w
    else done) s

/-- WBARW: parks until the word's phase differs from p, then answers ERR and FC (R162, R163). -/
def execWbarw (scp : Scope) (p : Bool) (d a b : Nat) (ofs : BitVec 18) (s : State) : Host.Outcome State Fault Refusal :=
  run (do
    issue [.s a, .s b] [.s d]
    let acc ← uniAcc 4 a b ofs.toInt
    let w ← checkWord .load acc none
    let lineLab ← match w with
      | .pad off => do pure ((← myCrew).body.pad.lab (padLine off))
      | .mem l => do pure ((← get).granLab l.line)
    let lab ← joinAll [lineLab, ← myPcl]
    let v ← match w with
      | .pad off => do
        let v := (← myCrew).body.pad.nat off 4
        if bwPh v == p then throw (.park .word) else pure v
      | .mem l => do
        let vs ← onceLogged 4 [l] (do
          let v ← loadLoc scp .acq 4 l
          if bwPh v == p then throw (.park .word) else pure [BitVec.ofNat 64 v])
        acquireTrail (if l.outside then .sys else scp)
        pure (vs.headD 0).toNat
    writeS d (BitVec.ofNat 64 ((if bwErr v then 64 else 0) + bwFc v)) lab
    done) s

/-! ### CKPT -/

def execCkpt (s : State) : Host.Outcome State Fault Refusal :=
  run (do
    issue [] []
    commitHere
    donePast) s

/-! ### Claims -/

/-- The executing team in a given phase of a reserving cast, or illegal (R236). -/
def needPhase (p : Phase) (one : Bool) : M Team := do
  let tm ← myTeam
  if tm.phase != p || (one && tm.frags.length != 1) then illegal .wrongClass else pure tm

def claimTerms (labs : Nat → Lbl) : List (Nat × Int) → M Unit
  | [] => pure ()
  | e :: es => do
    let _ ← addTerm false (BitVec.ofInt 64 e.2) 0 8 (labs (e.1 / 32))
    claimTerms labs es

/-- CLM: every lane posts its claim, or none (R165, R237). -/
def execClm (sc : Bool) (a : Nat) (idx : Option Nat) (ofs : BitVec 17) (s : State) : Host.Outcome State Fault Refusal :=
  run (do
    let _ ← needPhase .claim false
    issue ([.s a] ++ idxName idx) []
    let th ← myTh
    if th.exm = 0 then done
    else do
      let (acc, labs) ← laneAcc 4 a idx sc ofs.toInt
      checkAll acc 0x05 0 (fun e => !canonical e.2)
      checkAll acc 0x06 0 (fun e => crosses e.2 4)
      let c ← myCrew
      if 64 < c.body.claims + acc.eas.length then trapU 0x12
      else do
        let ls ← groupLabels (mgroups th.exm) labs
        let l ← joinAll ([c.body.clab] ++ acc.alab)
        claimTerms (labOf ls) acc.eas
        modMyCrew (fun c => c.modBody (fun b => { b with
          sig := acc.eas.foldl (fun m e => m ||| claimBits (e.2.toNat / 16)) b.sig
          claims := b.claims + acc.eas.length, clab := l }))
        done) s

/-- Every team of a crew that has not retired has left the claim phase, or the commit phase. -/
def Body.allPast (b : Body) (p : Phase → Bool) : Bool := b.teams.all (fun e => e.2.retired || p e.2.phase)
def afterClaim (p : Phase) : Bool := p == .sealed || p == .commit || p == .done

/-- An item seals when every team of every copy has executed CLMSEAL or retired (R238, R311). The Riddle uses the leading
copy's signature. -/
def State.sealItem (s : State) (cid : Nat) : State :=
  match kvFind s.crews cid with
  | none => s
  | some c =>
    let bodies := (s.copies cid).filterMap (fun k => (kvFind s.crews k).map (fun c => (c.copy, c.body)))
    let ready := bodies.all (fun e => e.2.allPast afterClaim && e.2.teams.any (fun t => afterClaim t.2.phase))
    let sg := match bodies.find? (fun e => e.1 != .trail) with | some e => e.2.sig | none => 0
    if ready then s.modCast c.vf c.key (fun k => { k with
      items := kvSet k.items c.index { kvGet ({} : Item) k.items c.index with isSealed := true, sig := sg } })
    else s

/-- CLMSEAL: a commit point; the team parks until its item is admitted, and stays sealed in the commit-point state
(R170). -/
def execClmseal (s : State) : Host.Outcome State Fault Refusal :=
  run (do
    let (_, t, fn) ← myFrag
    if (← myTh).park == .admission then throw (.park .admission) else pure ()
    let _ ← needPhase .claim true
    issue [] []
    closeWindows
    commitHere
    let cid ← myCid
    let f : Body → Body := fun b => b.modTeam t (fun tm => { tm with
      phase := .sealed, frags := kvModify tm.frags fn (fun th => { th with park := .admission, pend := [] }) })
    modMyCrew (fun c => { c with
      body := f c.body, saved := f c.saved, closed := c.closed.map (fun w => { w with body := f w.body }) })
    modify (fun s => s.sealItem cid)
    throw (.park .admission)) s

/-- The item finishes when every team of it has executed CLMDONE or retired; the leading copy's counts (R238, R311). -/
def State.finishItem (s : State) (cid : Nat) : State :=
  match kvFind s.crews cid with
  | none => s
  | some c =>
    if c.copy != .trail && c.body.allPast (· == .done) then
      s.modCast c.vf c.key (fun k => { k with
        items := kvSet k.items c.index { kvGet ({} : Item) k.items c.index with finished := true } })
    else s

/-- CLMDONE: a commit point and a release at .dev over every path (R238). -/
def execClmdone (s : State) : Host.Outcome State Fault Refusal :=
  run (do
    let _ ← needPhase .commit true
    issue [] []
    let cid ← myCid
    awaitRelease []
    commitHere
    modify (fun s => s.wtCoreOf cid)
    modTeam (fun tm => { tm with phase := .done })
    modify (fun s => s.finishItem cid)
    donePast) s

/-- CLMQ (R239). -/
def execClmq (la d : Nat) (s : State) : Host.Outcome State Fault Refusal :=
  run (do
    let tm ← myTeam
    if tm.phase == .none then illegal .wrongClass else pure ()
    issue [] [.s d]
    let c ← myCrew
    let l ← joinAll [← myPcl, c.body.clab]
    let vs ← once [0] (do
      match (← get).cast? c.vf c.key with
      | some k =>
        pure [BitVec.ofNat 64 (k.waves % 2 ^ 32 + (kvGet ({} : Item) k.items c.index).wave % 2 ^ 32 * 2 ^ 32)]
      | none => pure [0])
    writeS d (vs.headD 0) l
    openWindow [.s d] la 6
    done) s

end Sys2Proof.Machine
end

