-- ==== Sys2Proof/Machine/Control.lean ====
section
/-! DEFINITION. The control instructions (R104 to R110): branches, labelled branches and write spans (R58 to R62), splits
(R28 to R30), fusion, exit and retirement (R38, R106), traps and returns. -/

namespace Sys2Proof.Machine

/-! ### Targets (R79) -/

/-- Address of the executing instruction, and of the header that follows its clause. -/
def wordAddr (th : Thread) : Int := (th.pc : Int) + 8 * ((th.slot : Int) + 1)
def nextHeader (th : Thread) : Nat := th.pc + 8 * (th.clause.length + 1)
def targetOf (th : Thread) (ofs : BitVec 17) : Int := wordAddr th + 8 * ofs.toInt

/-- A precise fault of a branch about the word it reads. -/
def branchFault {α : Type} (code sub : Nat) (va : Int) (alab : List Lbl) : M α := do
  let th ← myTh
  throw (.trap { code := code, sub := sub, lanes := th.exm, uaddr := some (BitVec.ofInt 64 va), alab := alab })

/-- Reads the word at a branch's target or join. -/
def readTarget (va : Int) : M Word := if va < 0 then branchFault 0x05 0 va [] else readHeader va.toNat

def readTargets : List Int → M (List (Int × Word))
  | [] => pure []
  | va :: vas => do
    let w ← readTarget va
    let ws ← readTargets vas
    pure ((va, w) :: ws)

/-- Reads the words at a branch's target and join, and then requires both to be headers. -/
def checkHeaders (vas : List Int) (alab : List Lbl := []) : M Unit := do
  let ws ← readTargets vas
  match ws.find? (fun e => !hdrOk e.2 || e.1 % 8 != 0) with
  | some (va, _) => branchFault 0x04 0 va alab
  | none => pure ()

/-! ### Labelled branches (R58 to R62) -/

/-- The armed span lies within an enclosing one. -/
def spanWithin (inner outer : Span) : Bool :=
  (inner.vn == 0 || (decide (outer.vlo ≤ inner.vlo) && decide (inner.vlo + inner.vn ≤ outer.vlo + outer.vn))) &&
    (inner.smask &&& ~~~outer.smask &&& 0x7FFFFFFFFFFFFFFF) == 0

/-- The flow checks of a conditional branch: its condition label under the clearance, and, for a labelled branch, its
span and the PC label of both sides. An unlabelled one opens nothing. -/
def flowCheck (cond : Lbl) (join : Bool) : M (Option (OpenSpan × Lbl)) := do
  let th ← myTh
  if !(← dominates (← myClear) cond) then trapU 0x0B
  else if ← dominates th.pcl cond then pure none
  else
    match th.armed, join with
    | some sp, true => do
      match th.openSpan with
      | some o => if spanWithin sp o.span then pure () else trapU 0x0D
      | none => pure ()
      let l ← join2 th.pcl cond
      pure (some ({ span := sp, cond := cond, groups := mgroups th.exm }, l))
    | _, _ => trapU 0x0D

/-- A new split-table entry of the team; the sequencers have their own (R28). -/
def newSid : M Nat := do
  match ← me with
  | .frag _ _ _ => do
    let n := (← myTeam).nextSid
    modTeam (fun tm => { tm with nextSid := n + 1 })
    pure n
  | _ => pure 0

/-- A conditional branch that moves the whole fragment: it drops or opens the armed span (R59). -/
def moveWhole (taken : Bool) (pc : Int) (join : Int) (sp : Option (OpenSpan × Lbl)) : M Done := do
  if taken then closeWindows else pure ()
  match sp with
  | none => modTh (fun th => { th with armed := none })
  | some (o, l) => do
    let sid ← newSid
    modTh (fun th => { th with
      armed := none, pcl := l
      stack := SplitRef.mk sid join.toNat th.pcl (some o) false taken 0 0 :: th.stack })
  if taken then goto pc.toNat else done

/-- A uniform conditional branch after its condition is known. -/
def branchIf (c : Bool) (cond : Lbl) (tgt join : BitVec 17) : M Done := do
  let th ← myTh
  let t := targetOf th tgt
  let j := targetOf th join
  checkHeaders ((if c then [t] else []) ++ (if join = 0 then [] else [j]))
  let sp ← flowCheck cond (join != 0)
  moveWhole c t j sp

/-! ### The instructions -/

def execNop (s : State) : Host.Outcome State Fault Refusal :=
  run (do
    issue [] []
    closeWindows
    done) s

def execBra (tgt : BitVec 17) (s : State) : Host.Outcome State Fault Refusal :=
  run (do
    issue [] []
    let t := targetOf (← myTh) tgt
    checkHeaders [t]
    closeWindows
    goto t.toNat) s

/-- The condition of a BRC and its label (R58, R79, R104). -/
def brCond (k : BrKind) (a : Nat) : M (Bool × Lbl) := do
  let th ← myTh
  match k with
  | .nz => do let r ← rdS a; pure (r.val != 0, r.lab)
  | .z => do let r ← rdS a; pure (r.val == 0, r.lab)
  | .any => do let b ← maskBits a; let l ← maskLab a; pure (th.exm &&& b != 0, l)
  | .all => do let b ← maskBits a; let l ← maskLab a; pure (th.exm &&& ~~~b == 0, l)

def brName (k : BrKind) (a : Nat) : RegName :=
  match k with
  | .nz => .s a
  | .z => .s a
  | .any => .m a
  | .all => .m a

def execBrc (kind : BrKind) (a : Nat) (tgt join : BitVec 17) (s : State) : Host.Outcome State Fault Refusal :=
  run (do
    issue [brName kind a] []
    let (c, l) ← brCond kind a
    branchIf c l tgt join) s

/-- LOOP: every check comes before the write, and the write before the branch (R105). The span checks follow the reads of the
target and the join (R104). An sA that the open span does not declare (0x0D, R60) comes before a label that the clearance does not
dominate (0x0B, R58), an order that the spec leaves open (log 77). -/
def execLoop (a : Nat) (tgt join : BitVec 17) (s : State) : Host.Outcome State Fault Refusal :=
  run (do
    issue [.s a] []
    let th ← myTh
    let v := (← valS a) - 1
    let c := v != 0
    let t := targetOf th tgt
    let j := targetOf th join
    checkHeaders ((if c then [t] else []) ++ (if join = 0 then [] else [j]))
    declared [.s a]
    let l ← labelU [a]
    let sp ← flowCheck l (join != 0)
    if c then closeWindows else pure ()
    writeS a v l
    moveWhole c t j sp) s

/-- BRX has no join, so it may not be labelled (R105). -/
def execBrx (a : Nat) (s : State) : Host.Outcome State Fault Refusal :=
  run (do
    issue [.s a] []
    let r ← rdS a
    let t : Int := r.val.toNat
    checkHeaders [t] [r.lab]
    let sp ← flowCheck r.lab false
    moveWhole true t 0 sp) s

/-- CALL's own write, of lnk, is checked after the read of its target (R60, R104). -/
def execCall (tgt : BitVec 17) (s : State) : Host.Outcome State Fault Refusal :=
  run (do
    issue [.s 62] []
    let th ← myTh
    let t := targetOf th tgt
    checkHeaders [t]
    declared [.s 62]
    closeWindows
    writeS 62 (BitVec.ofNat 64 (nextHeader th)) th.pcl
    goto t.toNat) s

/-- RET requires that the PC label dominate lnk's (R58). -/
def execRet (s : State) : Host.Outcome State Fault Refusal :=
  run (do
    issue [.s 62] []
    let th ← myTh
    let r ← rdS 62
    checkHeaders [(r.val.toNat : Int)] [r.lab]
    if ← dominates th.pcl r.lab then
      closeWindows
      goto r.val.toNat
    else trapU 0x0B) s

def execYield (s : State) : Host.Outcome State Fault Refusal :=
  run (do
    issue [] []
    closeWindows
    done) s

/-! ### Splits (R28, R30, R100) -/

/-- The split-table entries that a team holds: its own and those of its open splits; none once it has retired (R28, R38). -/
def Team.splits (t : Team) : Nat :=
  if t.retired then 0 else 1 + ((t.frags.flatMap (fun f => f.2.stack.map SplitRef.sid)).eraseDups).length
/-- The split-table entries in use on a core (R28). -/
def State.coreSplits (s : State) (cl core : Nat) : Nat :=
  ((s.crews.filter (fun e => e.2.resident && e.2.cl == cl && e.2.core == core)).map (fun e =>
    (e.2.body.teams.map (fun t => t.2.splits)).sum)).sum

/-- Where a team's area keeps a spilled fragment and the span record of its branch (R30, R61, R326; log 44). -/
def spillOfs (t fn : Nat) : Nat := 0x10000 + 0x4000 * t + 0x2200 + 192 * (fn % 40)
/-- The bytes there: PC, exm and PC label, and of a span its join, the PC label from before the branch, its registers, its condition label
and its groups. -/
def spillBytes (th : Thread) : List Byte :=
  leField 8 th.pc ++ leField 128 th.exm.toNat ++ leField 1 th.pcl ++ match th.stack with
    | r :: _ => match r.span with
      | some o => leField 8 r.join ++ leField 1 r.pcl ++ leField 2 o.span.vlo ++ leField 2 o.span.vn ++ leField 8 o.span.smask.toNat ++
          leField 1 o.cond ++ leField 4 ((o.groups.map (2 ^ ·)).sum)
      | none => []
    | [] => []
/-- Writes a spilled fragment to the context area. -/
def spillOut (t fn : Nat) (th : Thread) : M Unit := do
  let c ← myCrew
  match (← get).blockAddr c (spillOfs t fn) with
  | none => throw (.abort 0x07 0)
  | some pa => modify (fun s => s.writeHome c.vf (zipAddr pa (spillBytes th)))

/-- The two sides of a split. The taken side keeps the fragment's number and comes first; the other is spilled when no
entry is free (R30). -/
def splitFrag (pc : Nat) (join : Nat) (m : Mask) (sp : Option (OpenSpan × Lbl)) : M Done := do
  closeWindows
  let (cid, t, fn) ← myFrag
  let c ← getCrew cid
  let tm ← myTeam
  let th ← myTh
  let s ← get
  let full := decide (Config.coreSplits ≤ s.coreSplits c.cl c.core) || decide (Config.teamFrags ≤ tm.frags.length)
  let ref : Bool → SplitRef := fun taken =>
    { sid := tm.nextSid, join := join, pcl := th.pcl, span := sp.map Prod.fst, split := true, taken := taken, psig := th.sig
      born := c.win * 2 ^ 32 + th.count + 1 }
  let pcl := match sp with | some (_, l) => l | none => th.pcl
  let base : Thread := { th with clause := [], slot := 0, pend := [], armed := none, pcl := pcl, sig := 0, count := th.count + 1, ready := s.cyc,
                                 park := .run, entered := s.cyc, began := none }
  let on := th.exm &&& m
  let taken : Thread := { base with pc := pc, exm := on, f := on, stack := ref true :: th.stack }
  let rest : Thread := { base with pc := nextHeader th, exm := th.exm &&& ~~~m, f := th.f &&& ~~~on,
                                   stack := ref false :: th.stack, spilled := full, active := false
                                   outSt := 0, outAt := 0, outEng := 0 }
  if full then spillOut t tm.nextFrag rest else pure ()
  modify (fun s => s.modTeam cid t (fun tm => { tm with
    frags := kvSet (kvSet tm.frags fn taken) tm.nextFrag rest, nextFrag := tm.nextFrag + 1, nextSid := tm.nextSid + 1 }))
  modify (fun s => { s with cur := none })
  pure { ctl := .stay }

/-- BRV: lanes that agree move as one (R28). -/
def execBrv (m : Nat) (tgt join : BitVec 17) (s : State) : Host.Outcome State Fault Refusal :=
  run (do
    issue [.m m] []
    let th ← myTh
    let b ← maskBits m
    let l ← maskLab m
    let on := th.exm &&& b
    let t := targetOf th tgt
    let j := targetOf th join
    checkHeaders ((if on != 0 then [t] else []) ++ [j])
    let sp ← flowCheck l true
    if on = 0 then moveWhole false t j sp
    else if on = th.exm then moveWhole true t j sp
    else splitFrag t.toNat j.toNat b sp) s

/-! ### Joins (R29, R61) -/

/-- Joins a label into the label of every register that a span declares (R61). -/
def joinRegs (cond : Lbl) (sp : Span) (regs : KV SReg) (tab : List (BitVec 64)) :
    Option (KV SReg × List (BitVec 64)) :=
  (List.range 63).foldl (fun acc n => acc.bind (fun (m, tab) =>
    if sp.smask.getLsbD n then
      let r := kvGet {} m n
      (joinIn tab r.lab cond).map (fun e => (kvPut {} m n { r with lab := e.1 }, e.2))
    else some (m, tab))) (some (regs, tab))

def joinWords (o : OpenSpan) (words : KV RegWord) (tab : List (BitVec 64)) : Option (KV RegWord × List (BitVec 64)) :=
  ((List.range o.span.vn).flatMap (fun k => o.groups.map (fun g => vkey (o.span.vlo + k) g))).foldl
    (fun acc k => acc.bind (fun (m, tab) =>
      let r := kvGet {} m k
      (joinIn tab r.lab o.cond).map (fun e => (kvPut {} m k { r with lab := e.1 }, e.2)))) (some (words, tab))

/-- Closes a span of an agent (R61); none when the label table is full. That the uniform registers are joined first, in ascending
order, and then the vector words is the model's choice (log 68). -/
def State.closeSpan (s : State) (ag : Agent) (o : OpenSpan) : Option State :=
  match ag with
  | .frag cid t _ =>
    match kvFind s.crews cid, s.team? cid t with
    | some c, some tm =>
      (joinRegs o.cond o.span tm.s (s.ctx c.vf).labels).bind (fun (rs, tab) =>
        (joinWords o tm.v tab).map (fun (ws, tab) =>
          (s.modTeam cid t (fun tm => { tm with s := rs, v := ws })).modCtx c.vf (fun x => { x with labels := tab })))
    | _, _ => some s
  | .seq cid x =>
    match kvFind s.crews cid with
    | some c =>
      match kvFind c.body.seqs x with
      | some q =>
        (joinRegs o.cond o.span q.s (s.ctx c.vf).labels).map (fun (rs, tab) =>
          (s.modCrew cid (fun c => c.modBody (fun b => { b with
            seqs := kvModify b.seqs x (fun q => { q with s := rs }) }))).modCtx c.vf (fun x => { x with labels := tab }))
      | none => some s
    | none => some s
  | .sup _ => some s

/-- The fragment's innermost entry is done: its span closes and the PC label reverts. -/
def State.popEntry (s : State) (ag : Agent) (r : SplitRef) : Option State :=
  let s1 := match r.span with
    | some o => s.closeSpan ag o
    | none => some s
  s1.map (fun s => s.modThread ag (fun th => { th with stack := th.stack.tail, pcl := r.pcl, park := .run }))

/-- A fragment waits at its join, and no load of its is still held, whose faults come before what follows it (R41). -/
def atJoin (th : Thread) : Bool := th.park == .join && !th.pend.any (fun p => p.held.isSome)

/-- The sibling of a fragment at its innermost split. -/
def Team.sibling (tm : Team) (fn : Nat) (r : SplitRef) : Option (Nat × Thread) :=
  tm.frags.find? (fun e => e.1 != fn && match e.2.stack with | q :: _ => q.sid == r.sid | [] => false)
/-- Some fragment other than one holds an entry of a split, at any depth. -/
def Team.others (tm : Team) (fn sid : Nat) : Bool :=
  tm.frags.any (fun e => e.1 != fn && e.2.stack.any (fun q => q.sid == sid))

/-- Fuses two siblings that both stand at their join with no load held: the survivor is the taken side's number (R29). It waits
for both sides' open windows (R40) and, where the sides have armed spans that differ, keeps the taken side's, which the
spec leaves open (log 70). -/
def State.fuse (s : State) (cid t sid : Nat) : Option State :=
  match s.team? cid t with
  | none => none
  | some tm =>
    let at_ : Bool → Option (Nat × Thread) := fun b => tm.frags.find? (fun e => atJoin e.2 &&
      match e.2.stack with | q :: _ => q.sid == sid && q.taken == b && q.split | [] => false)
    match at_ true, at_ false with
    | some (a, x), some (b, y) =>
      match x.stack with
      | r :: _ =>
        let z : Thread := { x with exm := x.exm ||| y.exm, f := x.f ||| y.f, sig := splitSig r.psig (some x.sig) (some y.sig)
                                   outSt := x.outSt + y.outSt, outAt := x.outAt + y.outAt, outEng := x.outEng + y.outEng
                                   pend := x.pend ++ y.pend, ready := s.cyc, count := x.count + y.count }
        (s.modTeam cid t (fun tm => { tm with frags := kvSet (kvDel tm.frags b) a z })).popEntry (.frag cid t a) r
      | [] => none
    | _, _ => none

/-! ### Exit and retirement (R38, R106, R289) -/

/-- Register words that a team holds (R33, R35). -/
def Team.groups (tm : Team) : Nat := (tm.lanes + 31) / 32
def Team.words (tm : Team) : Nat := (tm.scopes.map Prod.snd).sum * tm.groups + tm.reserve

/-- A participant arrives at the crew's rendezvous, which completes when all have (R289). -/
def Body.arriveRdv (b : Body) (ag : Agent) : Body :=
  match b.grant with
  | none => b
  | some g =>
    let arrived := if g.arrived.contains ag then g.arrived else g.arrived ++ [ag]
    let stream : Option Nat → Bool := fun o => match o with
      | some x => arrived.any (fun a => match a with | .seq _ y => y == x | _ => false)
      | none => true
    let team := arrived.any (fun a => match a with | .frag _ t _ => t == g.team | _ => false)
    { b with grant := some { g with arrived := arrived, met := g.met || (team && stream g.mseq && stream g.cseq) } }

/-- A grant ends when its rendezvous is complete, every stream has exited and no tile operation is left (R245). -/
def State.endGrant (s : State) (cid : Nat) : State :=
  match kvFind s.crews cid with
  | none => s
  | some c =>
    match c.body.grant with
    | none => s
    | some g =>
      let gone : Option Nat → Bool := fun o => match o with
        | some x => match kvFind c.body.seqs x with | some q => q.ended | none => true
        | none => true
      if g.met && gone g.mseq && gone g.cseq && (s.tileOps cid).isEmpty then
        s.modCrew cid (fun c => c.modBody (fun b => { b with grant := none }))
      else s

/-- The team's last group retires: its words stay held for the crew until its next commit point (R35, R38). -/
def State.retireTeam (s : State) (cid t : Nat) : State :=
  match s.team? cid t with
  | none => s
  | some tm =>
    let s1 := s.modCrew cid (fun c => { (c.modBody (fun b => (b.modTeam t (fun tm => { tm with
        retired := true, frags := [], v := [], old := [], scopes := [], reserve := 0, live := 0, frame := none })))) with
      held := kvSet c.held t (kvGet 0 c.held t + tm.words) })
    let s2 := s1.modCrew cid (fun c => c.modBody (fun b => match b.grant with
      | some g => if g.team == t then b.arriveRdv (.frag cid t 0) else b
      | none => b))
    if tm.phase == .none then s2 else (s2.sealItem cid).finishItem cid

/-- A fragment with no lane left ends: it releases its trap frame, where it has that, and its store signature waits for its sibling.
The side of a split handler that does not have the frame (log 78) ends without releasing it. -/
def State.endFrag (s : State) (cid t fn : Nat) : State :=
  match s.team? cid t with
  | none => s
  | some tm =>
    let th := (kvFind tm.frags fn).getD {}
    let ended := endSig tm.ended (tm.others fn) th.stack th.sig
    let s1 := s.modTeam cid t (fun tm => { tm with
      frags := kvDel tm.frags fn, ended := ended
      frame := match tm.frame with | some f => if th.handler && f.frag == fn then none else some f | none => none })
    if (kvDel tm.frags fn).isEmpty then s1.retireTeam cid t else s1

/-- A crew has nothing left to run: every team retired, every stream exited, no engine operation of its left. -/
def State.crewDone (s : State) (cid : Nat) : Bool :=
  match kvFind s.crews cid with
  | none => false
  | some c =>
    c.resident && c.body.teams.all (fun e => e.2.retired) && c.body.seqs.all (fun e => e.2.ended) && !s.commitWaits cid &&
      !(s.cluster c.cl).cq.any (fun q => q.cid == cid) && !s.coreHeld c.cl c.core c.openLines

def State.countRetired (s : State) (vf key : Nat) : State :=
  s.modCast vf key (fun k =>
    { k with retired := k.retired + 1, st := if k.launch.crews ≤ k.retired + 1 then .draining else k.st })

/-- A crew retires: its writes, and what its core holds committed of others before them, are performed at their homes, and it
leaves its core (R24, R38, R207). A pair retires when the last window of both copies has matched (R307). -/
def State.retireCrew (s : State) (cid : Nat) : State :=
  match kvFind s.crews cid with
  | none => s
  | some c =>
    if c.copy == .solo then
      if s.crewDone cid then
        (((s.commitNow cid).wtCoreAt c.cl c.core).removeCrew cid).countRetired c.vf c.key
      else s
    else
      let quiet : Nat → Bool := fun k => match kvFind s.crews k with
        | some c => s.crewDone k && c.closed.isEmpty && c.win == c.matched
        | none => false
      if quiet cid && quiet c.partner then
        let lead := if c.copy == .lead then cid else c.partner
        (((s.wtCoreOf lead).removeCrew cid).removeCrew c.partner).countRetired c.vf c.key
      else s

/-- EXIT (R106). The exit that retires a team of an item waits for the crew's commit point, since the item may seal or finish
with it (R168, R238); the one that ends a copy of a pair, for its slack (R307). -/
def execExit (s : State) : Host.Outcome State Fault Refusal :=
  run (do
    issue [] []
    closeWindows
    match ← me with
    | .sup _ => done
    | .seq cid x => do
      let c ← getCrew cid
      let lastAll := c.copy != .solo && c.body.teams.all (fun e => e.2.retired) && c.body.seqs.all (fun e => e.1 == x || e.2.ended)
      if lastAll then awaitCommit else pure ()
      modMyCrew (fun c => c.modBody (fun b =>
        ({ b with seqs := kvModify b.seqs x (fun q => { q with ended := true, rdv := true }) } : Body).arriveRdv (.seq cid x)))
      modify (fun s => { s with cur := none })
      modify (fun s => (s.endGrant cid).retireCrew cid)
      pure { ctl := .stay, close := lastAll }
    | .frag cid t fn => do
      let th ← myTh
      let tm ← myTeam
      let c ← getCrew cid
      let rest := th.f &&& ~~~th.exm
      let last := rest = 0 && tm.frags.length == 1
      let lastTeam := last && c.body.teams.all (fun e => e.1 == t || e.2.retired)
      let item := last && (tm.phase == .claim || tm.phase == .commit)
      if item then
        awaitRelease []
        commitHere
        modify (fun s => s.wtCoreOf cid)
      else if lastTeam && c.copy != .solo then awaitCommit
      else pure ()
      modTeam (fun tm => { tm with
        live := tm.live &&& ~~~th.exm
        m := (tm.m.map (fun e => (e.1, { e.2 with bits := e.2.bits &&& ~~~th.exm }))).filter (fun e => e.2 != {}) })
      if rest = 0 then
        modify (fun s => { s.endFrag cid t fn with cur := none })
        modify (fun s => (s.endGrant cid).retireCrew cid)
        pure { ctl := .stay, past := item
               close := lastTeam && c.copy != .solo && c.body.seqs.all (fun e => e.2.ended) }
      else
        modTh (fun th => { th with f := rest, exm := rest })
        done) s

/-! ### Traps and returns (R104, R108 to R110) -/

def execTrap (n : BitVec 25) (s : State) : Host.Outcome State Fault Refusal :=
  run (do
    issue [] []
    trapU 0x21 0 (some (n.zeroExtend 64))) s
/-- BKPT: a control instruction, it ends every window before it stops (R40, R75, R109). -/
def execBkpt (n : BitVec 25) (s : State) : Host.Outcome State Fault Refusal :=
  run (do
    issue [] []
    closeWindows
    trapU 0x20 0 (some (n.zeroExtend 64))) s

/-- TRET.retry resumes at the faulting instruction, or at the header a header fault names. -/
def execTretRetry (s : State) : Host.Outcome State Fault Refusal :=
  run (do
    let f ← myFrame
    returnTo f f.pc (if f.slot = 16 then 0 else f.slot)) s

/-- TRET.skip resumes after the faulting instruction; after a header fault, at the header after that clause, whose length
the header gives; one that still cannot be read is met again (log 13). -/
def execTretSkip (s : State) : Host.Outcome State Fault Refusal :=
  run (do
    let f ← myFrame
    if f.slot = 16 then
      let vf ← myVf?
      let cl ← myCl
      let ap ← myAperture
      let s ← get
      match s.fetchWord (s.fetchUnit (← me)) vf cl ap f.pc with
      | .ok (w, s1) => do
        set s1
        returnTo f (f.pc + 8 * (hdrLen w + 1)) 0
      | .error _ => returnTo f f.pc 0
    else if f.slot + 1 < f.len then returnTo f f.pc (f.slot + 1)
    else returnTo f (f.pc + 8 * (f.len + 1)) 0) s

/-- HALT stops a supervisor core; a context supervisor's handler may not (R110). -/
def execHalt (s : State) : Host.Outcome State Fault Refusal :=
  run (do
    match ← me with
    | .sup _ => do
      closeWindows
      throw (.park .halted)
    | _ => do
      issue [] []
      trapU 0x1C) s

end Sys2Proof.Machine
end

