-- ==== Sys2Proof/Machine/Labels.lean ====
section
/-! DEFINITION. The label instructions (R64 to R66, R117 to R122) and register scopes (R35 to R37, R114 to R116). -/

namespace Sys2Proof.Machine

/-! ### Reading labels (R118) -/

def execLget (d a : Nat) (s : State) : Host.Outcome State Fault Refusal :=
  run (do
    issue [.v a] [.s d]
    let th ← myTh
    let tm ← myTeam
    let l ← joinAll (tm.crossLab th.exm a)
    writeS d (BitVec.ofNat 64 l) th.pcl
    done) s

def execLchk (d a b : Nat) (s : State) : Host.Outcome State Fault Refusal :=
  run (do
    issue [.v a, .s b] [.s d]
    let th ← myTh
    let tm ← myTeam
    let rb ← rdS b
    let t := rb.val.toNat
    let m ← ownersAll (tm.crossLab th.exm a ++ [th.pcl])
    let c := (← get).ctx (← myVf)
    let ok := decide (t < 256) && decide (t < c.labels.length) && (m &&& ~~~(c.owners t)) == 0
    let l ← join2 rb.lab th.pcl
    writeS d (boolWord ok) l
    done) s

/-! ### Operations that are never undone (R310, R338) -/

/-- An operation whose outcome (0: performed) decides a precise fault and whose effect is never undone: it stands behind
a commit point, and in a pair the leading copy alone performs it after the match. -/
def irrevocable (addr : Nat) (check : M Nat) (eff : M Unit) : M Nat := do
  if ← isPaired then
    commitWith (pure ())
    let vs ← once [addr] (do
      let r ← check
      if r = 0 then eff else pure ()
      pure [BitVec.ofNat 64 r])
    pure (vs.headD 0).toNat
  else
    let r ← check
    if r = 0 then
      commitHere
      eff
    else pure ()
    pure r

/-! ### LRAISE (R119) -/

/-- The 128-byte granules of [x, x + b), numbered as the lanes of an access. -/
def granules (x : Int) (b : Nat) : List (Nat × Int) := (List.range (b / 128)).map (fun k => (k, x + 128 * k))

/-- New labels at the granules' homes: like any other agent's store there, they invalidate stash copies (R52, R159). -/
def setLabels (t : Lbl) : List Loc → State → State
  | [], s => s
  | l :: ls, s => setLabels t ls ((({ s with gran := kvPut 0 s.gran l.line t }).forceHolders s.chain [] l.line).dropStash [] l.line)

/-- The checks of LRAISE on its target, in their order: 0 when all pass, the sub-code of 0x0A, or 4 for a full label table. The
label K exists from its check on, whatever the outcome (log 68). -/
def raiseCheck (t : Nat) (ks : List Lbl) (locs : List Loc) : M Nat := do
  let vf ← myVf
  let c := (← get).ctx vf
  if 255 < t || c.labels.length ≤ t then pure 1
  else match joinAllIn c.labels 0 ks with
    | none => pure 4
    | some (k, tab) => do
      modify (fun s => s.modCtx vf (fun c => { c with labels := tab }))
      let s ← get
      let c := s.ctx vf
      if !c.dominates t k then pure 2
      else if locs.any (fun l => !c.dominates t (s.granLab l.line)) then pure 3
      else pure 0

def execLraise (d a b : Nat) (ofs : BitVec 18) (s : State) : Host.Outcome State Fault Refusal :=
  run (do
    issue [.s a, .s b, .s d] []
    let ra ← rdS a
    let rb ← rdS b
    let rd ← rdS d
    let x := (ra.val.toNat : Int) + ofs.toInt
    let n := rb.val.toNat
    let one : Acc := { uni := true, size := 128, eas := [(0, x)], alab := [ra.lab] }
    checkAll one 0x1B 0 (fun e => e.2 % 128 != 0 || n % 128 != 0)
    if n = 0 then done
    else do
      let all : Acc := { one with eas := granules x n }
      let locs ← checkAcc .store all
      checkClaims all (locs.flatMap (fun l => (List.range 8).map (fun k => (l.lane, l.va + 16 * k))))
      let t := rd.val.toNat
      if ← isTrail then pure () else awaitLines (locs.map Loc.line)
      let r ← irrevocable x.toNat (raiseCheck t [ra.lab, rb.lab, rd.lab, ← myPcl] locs) (modify (setLabels t locs))
      if r = 0 then donePast
      else if r = 4 then trapU 0x10
      else raiseAcc one 0x0A r one.eas) s

/-! ### DECL and ENDORSE (R64 to R66, R120, R121) -/

def bitsOf (m : BitVec 64) : List Nat := (List.range 64).filter (fun k => m.getLsbD k)

def endorseCount (t : List Endorse) (site k : Nat) : Nat :=
  match t.find? (fun e => e.site == site && e.owner == k) with
  | some e => e.count
  | none => 0

def takeCount (t : List Endorse) (site k : Nat) : List Endorse :=
  t.map (fun e => if e.site == site && e.owner == k then { e with count := e.count - 1 } else e)

/-- Adds to an owner's entry; a new entry takes an empty place, else the lowest-numbered whose count is zero (R64). -/
def addCount (site n k : Nat) (t : List Endorse) : Option (List Endorse) :=
  if t.any (fun e => e.site == site && e.owner == k) then
    some (t.map (fun e => if e.site == site && e.owner == k then { e with count := min (e.count + n) 0xFFFFFFFF } else e))
  else if t.length < 64 then some (t ++ [{ site := site, owner := k, count := n }])
  else match t.findIdx? (fun e => e.count == 0) with
    | some i => some (t.set i { site := site, owner := k, count := n })
    | none => none

/-- Adds to every owner's entry or to none: owners that have an entry first, so that none of theirs is reused. -/
def addCounts (site n : Nat) (ks : List Nat) (t : List Endorse) : Option (List Endorse) :=
  let has : Nat → Bool := fun k => t.any (fun e => e.site == site && e.owner == k)
  (ks.filter has ++ ks.filter (fun k => !has k)).foldl (fun acc k => acc.bind (addCount site n k)) (some t)

def myEndorse : M (List Endorse) := do pure ((← get).ctx (← myVf)).endorse
def setEndorse (t : List Endorse) : M Unit := do
  let vf ← myVf
  modify (fun s => s.modCtx vf (fun c => { c with endorse := t }))

/-- ENDORSE adds its count for every owner of %auth (R65, R121). The counts stand at the end of its own step; whether one that
no wait follows may still be outstanding later the spec leaves open (R18, log 64). -/
def execEndorse (site : BitVec 16) (count : BitVec 10) (s : State) : Host.Outcome State Fault Refusal :=
  run (do
    issue [] []
    if !(← acts) then done
    else do
      let auth ← myAuth
      let pm ← owners (← myPcl)
      if auth = 0 || (pm &&& ~~~auth) != 0 then trapU 0x0F
      else do
        let r ← irrevocable site.toNat
          (do
            match addCounts site.toNat count.toNat (bitsOf auth) (← myEndorse) with
            | some _ => pure 0
            | none => pure 1)
          (do
            match addCounts site.toNat count.toNat (bitsOf auth) (← myEndorse) with
            | some t => setEndorse t
            | none => pure ())
        if r = 0 then donePast else trapU 0x10 1) s

/-- FAULTR.info of a denied DECL: the site, and the first missing owner; with sub-codes 1 and 2 none is missing, and the field is 0,
which the spec leaves open (log 79). -/
def declInfo (site : BitVec 16) (k : Nat) : Word := BitVec.ofNat 64 (site.toNat + k * 2 ^ 16)

/-- The labels that a DECL's destination words take exist, and are allocated, or the table is full. -/
def declLabels (tm : Team) (th : Thread) (d : Nat) (t : Lbl) : M Nat :=
  tryCatch (do
    let _ ← wordLabels tm th.exm d (fun _ => [t, th.pcl]) (mgroups th.exm)
    pure 0) (fun _ => pure 65)

/-- DECL lowers a label to the target, and consumes a count of every owner it removes (R66, R120). A missing count comes before a
label table that is full for its destination. -/
def execDecl (d a : Nat) (site : BitVec 16) (target : BitVec 8) (s : State) : Host.Outcome State Fault Refusal :=
  run (do
    issue [.v a] (← vDst d)
    let th ← myTh
    let t := target.toNat
    let c := (← get).ctx (← myVf)
    if c.labels.length ≤ t then trapU 0x0E 1 (some (declInfo site 0))
    else if !c.dominates t th.pcl then trapU 0x0E 2 (some (declInfo site 0))
    else if th.exm = 0 then done
    else do
      let tm ← myTeam
      let src ← joinAll (tm.crossLab th.exm a ++ [th.pcl])
      let gone := bitsOf ((← owners src) &&& ~~~(← owners t))
      if gone.isEmpty then
        writeV d (fun _ => [t]) (tm.lane a)
        done
      else do
        logWords ((mgroups th.exm).map (vkey d))
        let r ← irrevocable site.toNat
          (do
            let e ← myEndorse
            match gone.find? (fun k => endorseCount e site.toNat k == 0) with
            | some k => pure (k + 1)
            | none => declLabels tm th d t)
          (do
            let e ← myEndorse
            setEndorse (gone.foldl (fun e k => takeCount e site.toNat k) e))
        if r = 0 then
          writeV d (fun _ => [t]) (tm.lane a)
          donePast
        else if r = 65 then trapU 0x10
        else trapU 0x0E 0 (some (declInfo site (r - 1)))) s

/-! ### LSPAN (R122) -/

/-- LSPAN only declares its v registers, which must exist; it reads none of them (R41, R117). -/
def execLspan (d n a : Nat) (s : State) : Host.Outcome State Fault Refusal :=
  run (do
    checkNames ((List.range n).map (fun k => .v (d + k)))
    issue [.s a] []
    let r ← rdS a
    if ← dominates (← myPcl) r.lab then
      modTh (fun th => { th with armed := some (Span.mk d n r.val) })
      done
    else trapU 0x0D) s

/-! ### Register scopes and growth (R35 to R37, R114, R115) -/

/-- The words held for a crew until its next commit point, or the match of its window (R35, R307). -/
def Crew.heldWords (c : Crew) : Nat :=
  (c.held.map Prod.snd).sum + (c.closed.map (fun w => (w.held.map Prod.snd).sum)).sum
/-- Register words in use by a crew on its core: its log, its teams' words, and words held for it. -/
def Crew.words (c : Crew) : Nat :=
  Config.logWords + (c.body.teams.map (fun e => e.2.words)).sum + c.heldWords
def onCore (cl core : Nat) (c : Crew) : Bool := c.resident && c.cl == cl && c.core == core
def State.freeWords (s : State) (cl core : Nat) : Nat :=
  Config.coreWords - ((s.crews.filter (fun e => onCore cl core e.2)).map (fun e => e.2.words)).sum

/-- Crews of a core whose held words a commit point frees now (R35). -/
def State.holding (s : State) (cl core : Nat) : List Nat :=
  (s.crews.filter (fun e => onCore cl core e.2 && !e.2.held.isEmpty && e.2.copy == .solo && !s.commitWaits e.1)).map Prod.fst
def State.heldWords (s : State) (cs : List Nat) : Nat :=
  (cs.map (fun k => match kvFind s.crews k with | some c => c.heldWords | none => 0)).sum
/-- The words that a core would have free once every crew that holds words there has made its commit point. -/
def State.wordsLater (s : State) (cl core : Nat) : Nat :=
  s.freeWords cl core + ((s.crews.filter (fun e => onCore cl core e.2)).map (fun e => e.2.heldWords)).sum
/-- A request that needs words held for crews on a core asks them for their commit points: a pair closes its window, whose
match frees them (R35). A crew whose commit point must wait makes it later. -/
def State.askHeld (s : State) (cl core : Nat) : State :=
  ((s.crews.filter (fun e => onCore cl core e.2 && !e.2.held.isEmpty && e.2.copy != .solo)).map Prod.fst).foldl
    State.askClose s

def parkedGrow (th : Thread) : Bool := match th.park with | .grow _ => true | _ => false
/-- An older team of the core has a request pending: oldest crew first, then team index (R37). A younger request waits behind
it even where it alone would fit, which the spec leaves open (log 65). -/
def State.olderRequest (s : State) (cl core order t : Nat) : Bool :=
  s.crews.any (fun e => onCore cl core e.2 && e.2.body.teams.any (fun tm =>
    tm.2.frags.any (fun f => parkedGrow f.2) && (decide (e.2.order < order) || (e.2.order == order && decide (tm.1 < t)))))

/-- Whether a request can be granted whole now, with or without commit points of the crews that hold returned words. -/
def State.grantable (s : State) (cid t n : Nat) : Bool :=
  match kvFind s.crews cid with
  | some c =>
    !s.olderRequest c.cl c.core c.order t &&
      (decide (n ≤ kvGet 0 c.held t + s.freeWords c.cl c.core) ||
        decide (n ≤ s.freeWords c.cl c.core + s.heldWords (s.holding c.cl c.core)))
  | none => false

/-- Whether a request can be granted now or after commit points that have still to be made, which is what R37 asks. -/
def State.couldGrant (s : State) (cid t n : Nat) : Bool :=
  match kvFind s.crews cid with
  | some c => !s.olderRequest c.cl c.core c.order t && decide (n ≤ s.wordsLater c.cl c.core)
  | none => false

/-- Gives a team n words that can be granted: the words held for it first, else what commit points of the holding crews free
with the core's own (R35). -/
def State.giveWords (s : State) (cid t n : Nat) : State :=
  match kvFind s.crews cid with
  | none => s
  | some c =>
    let s1 := if n ≤ kvGet 0 c.held t + s.freeWords c.cl c.core then
        s.modCrew cid (fun c => { c with held := kvPut 0 c.held t (kvGet 0 c.held t - n) })
      else (s.holding c.cl c.core).foldl (fun s k => (s.commitOther k).2) s
    s1.modTeam cid t (fun tm => { tm with reserve := tm.reserve + n })

/-- Takes n words for the executing team's reserve, or waits for them (R35), once no load is held (log 27). -/
def takeWords (n : Nat) : M Unit := do
  let (cid, t, _) ← myFrag
  if n = 0 then pure () else awaitHeld
  if n = 0 then pure ()
  else if !(← get).grantable cid t n then do
    let c ← getCrew cid
    modify (fun s => s.askHeld c.cl c.core)
    throw (.park (.grow n))
  else modify (fun s => s.giveWords cid t n)

/-- Scope instructions need the team to be one fragment (R115). -/
def oneFrag : M Team := do
  let tm ← myTeam
  if tm.frags.length != 1 then illegal .badScope else pure tm

def noSpan : M Unit := do
  match (← myTh).openSpan with
  | some _ => trapU 0x0D
  | none => pure ()

/-- What a word of a newly opened scope holds: zero, or what the team itself last left there; the spec leaves open which
(R36). -/
def reopened (tick : Nat) (tm : Team) (keys : List Nat) : KV RegWord :=
  keys.foldl (fun v k => match kvFind tm.old k with
    | some w => if Config.reopenKeeps (tick * 8192 + k) then kvPut {} v k w else v
    | none => v) tm.v

def scopeKeys (tm : Team) (base n : Nat) : List Nat :=
  (List.range n).flatMap (fun k => (List.range tm.groups).map (fun g => vkey (base + k) g))

def execScopeo (n base : Nat) (s : State) : Host.Outcome State Fault Refusal :=
  run (do
    let tm ← oneFrag
    if n = 0 || 256 < base + n || tm.scopes.length ≥ 8 || tm.scopes.any (fun e => meets base n e.1 e.2) then illegal .badScope
    else do
      issue [] []
      noSpan
      let need := n * tm.groups
      takeWords (need - tm.reserve)
      let tick := (← get).tick
      modTeam (fun tm => { tm with
        reserve := tm.reserve - need, scopes := (base, n) :: tm.scopes
        v := reopened tick tm (scopeKeys tm base n)
        old := (scopeKeys tm base n).foldl kvDel tm.old })
      done) s

def execScopec (s : State) : Host.Outcome State Fault Refusal :=
  run (do
    let (cid, t, _) ← myFrag
    let tm ← oneFrag
    match tm.scopes with
    | (base, n) :: rest =>
      if rest.isEmpty then illegal .badScope
      else do
        issue [] []
        noSpan
        let keys := scopeKeys tm base n
        modTeam (fun tm => { tm with
          scopes := rest
          v := keys.foldl kvDel tm.v
          old := keys.foldl (fun o k => kvPut {} o k (kvGet {} tm.v k)) tm.old })
        modify (fun s => s.modCrew cid (fun c => { c with held := kvPut 0 c.held t (kvGet 0 c.held t + n * tm.groups) }))
        done
    | [] => illegal .badScope) s

/-- RGROW. One that has waited has its words already (R35). -/
def execRgrow (n : Nat) (s : State) : Host.Outcome State Fault Refusal :=
  run (do
    let _ ← oneFrag
    issue [] []
    if (← myTh).park == .granted then done
    else do
      takeWords n
      done) s

def execRshrink (n : Nat) (s : State) : Host.Outcome State Fault Refusal :=
  run (do
    let (cid, t, _) ← myFrag
    let tm ← oneFrag
    if tm.reserve < n then illegal .badScope
    else do
      issue [] []
      modTeam (fun tm => { tm with reserve := tm.reserve - n })
      modify (fun s => s.modCrew cid (fun c => { c with held := kvPut 0 c.held t (kvGet 0 c.held t + n) }))
      done) s

end Sys2Proof.Machine
end

