-- ==== Sys2Proof/Machine/Engines.lean ====
section
/-! DEFINITION. The engine instructions (R284 to R304): FORK and RDV, the commands TCOPY, XFER and MMA as they are issued,
tile operations, SHAPE, and the appends of CAST and QPUT. What the engines then do is in EngineEvents. -/

namespace Sys2Proof.Machine

def classEng : Nat := 6
def classMd : Nat := 5

/-! ### Grants and tiles (R245, R270) -/

/-- Tiles of a cluster's matrix engine that no grant holds, and free contexts of one of its sequencers (R245, R267). -/
def State.freeTiles (s : State) (cl : Nat) : Nat :=
  Config.tiles - ((s.crews.filter (fun e => e.2.resident && e.2.cl == cl)).map (fun e =>
    match e.2.body.grant with | some g => g.tiles.length | none => 0)).sum
def State.freeSeqs (s : State) (cl : Nat) (k : Eng) : Nat :=
  Config.seqContexts - ((s.crews.filter (fun e => e.2.resident && e.2.cl == cl)).map (fun e =>
    (e.2.body.seqs.filter (fun q => q.2.kind == k && !q.2.ended)).length)).sum

def State.forkFits (s : State) (cl n : Nat) (ea eb : Word) : Bool :=
  decide (n ≤ s.freeTiles cl) && (ea == 0 || decide (0 < s.freeSeqs cl .matrix)) &&
    (eb == 0 || decide (0 < s.freeSeqs cl .copy))

/-- A context as its stream starts (R245). -/
def startSeq (tm : Team) (t : Nat) (pcl : Lbl) (cyc : Nat) (k : Eng) (entry : Word) : SeqCtx :=
  { kind := k, team := t, th := { pc := entry.toNat, eng := k, pcl := pcl, ready := cyc }
    s := tm.s.filter (fun e => decide (e.1 < 32)), pkr := tm.pkr, clear := tm.clear, auth := tm.auth }

/-- The crew takes its tiles, each +0, public and not poisoned, and its streams start. -/
def State.grantFork (s : State) (cid t fn n : Nat) (ea eb : Word) : State :=
  match s.team? cid t, s.thread? (.frag cid t fn) with
  | some tm, some th =>
    s.modCrew cid (fun c => c.modBody (fun b =>
      let a := b.nextSeq
      let m := if ea = 0 then none else some a
      let k := if eb = 0 then none else some (a + if ea = 0 then 0 else 1)
      let put : Option Nat → Eng → Word → KV SeqCtx → KV SeqCtx := fun o e w q => match o with
        | some x => kvSet q x (startSeq tm t th.pcl s.cyc e w)
        | none => q
      { b with
        grant := some { team := t, tiles := List.replicate n {}, mseq := m, cseq := k }
        seqs := put k .copy eb (put m .matrix ea b.seqs)
        nextSeq := a + 2 }))
  | _, _ => s

/-- An entry of a stream: zero, or a canonical address aligned to 8 bytes (R288). -/
def checkEntry (e : SReg) : M Unit := do
  let th ← myTh
  let bad : Nat → M Unit := fun code =>
    throw (.trap { code := code, lanes := th.exm, uaddr := some e.val, alab := [e.lab] })
  if e.val = 0 then pure ()
  else if !canonical (e.val.toNat : Int) then bad 0x05
  else if e.val.toNat % 8 != 0 then bad 0x1B
  else pure ()

/-- FORK. One that waits holds nothing; it completes once it has been granted (R245, R288). -/
def execFork (a b c : Nat) (s : State) : Host.Outcome State Fault Refusal :=
  run (do
    let (cid, t, fn) ← myFrag
    issue [.s a, .s b, .s c] []
    if (← myTh).park == .granted then done
    else do
      let cr ← getCrew cid
      let n := (← valS c).toNat
      if cr.body.grant.isSome then illegal .wrongClass
      else if n < 1 || 8 < n then illegal .badField
      else if (← myTeam).frags.length != 1 then illegal .badScope
      else if !(← acts) then done
      else do
        checkEntry (← rdS a)
        checkEntry (← rdS b)
        awaitHeld
        let ea ← valS a
        let eb ← valS b
        if (← get).forkFits cr.cl n ea eb then
          modify (fun s => s.grantFork cid t fn n ea eb)
          done
        else throw (.park .fork)) s

/-- A context arrives at most once. -/
def Body.rdvDone (b : Body) (x : Nat) : Body := { b with seqs := kvModify b.seqs x (fun q => { q with rdv := true }) }

/-- RDV: the participants of the crew's current grant wait for one another (R289). -/
def execRdv (s : State) : Host.Outcome State Fault Refusal :=
  run (do
    let cid ← myCid
    let c ← getCrew cid
    let ag ← me
    let part ← match ag with
      | .frag _ t _ => do
        if (← myTeam).frags.length != 1 then illegal .badScope
        else pure (match c.body.grant with | some g => g.team == t | none => false)
      | .seq _ x => pure ((c.body.grant.isSome) && match kvFind c.body.seqs x with | some q => !q.rdv | none => false)
      | .sup _ => pure false
    issue [] []
    if !part then done
    else do
      modMyCrew (fun c => c.modBody (fun b => b.arriveRdv ag))
      let met := match (← getCrew cid).body.grant with | some g => g.met | none => true
      if !met then throw (.park .rdv)
      else do
        match ag with
        | .seq _ x => modMyCrew (fun c => c.modBody (fun b => b.rdvDone x))
        | _ => pure ()
        modify (fun s => s.endGrant cid)
        done) s

/-- The tile an instruction names (R270); after the rendezvous no team may name one (R289). -/
def myTile (n : Nat) : M Tile := do
  let c ← myCrew
  match c.body.grant with
  | none => illegal .wrongClass
  | some g =>
    let mine := match (← me) with
      | .seq _ x => g.mseq == some x
      | _ => !g.met
    match g.tiles[n]? with
    | some t => if mine then pure t else illegal .wrongClass
    | none => illegal .wrongClass

/-- An MMA of the crew that has not been applied to a tile holds back what reaches the tile after it (R247). -/
def State.tileBusy (s : State) (cid n : Nat) : Bool :=
  (s.tileOps cid).any (fun m => !m.applied && match m.kind with | .mma _ _ k => k == n | _ => false)
def awaitTile (n : Nat) : M Unit := do
  let cid ← myCid
  if (← get).tileBusy cid n then throw (.park .engine) else pure ()

def Grant.setTile (g : Grant) (n : Nat) (t : Tile) : Grant := { g with tiles := g.tiles.set n t }
def Body.setTile (b : Body) (n : Nat) (t : Tile) : Body := { b with grant := b.grant.map (fun g => g.setTile n t) }
/-- A tile is changed, once the tile log holds it as the window found it (R277). -/
def putTile (n : Nat) (t : Tile) : M Unit := do
  match (← get).logTile (← myCid) n with
  | none => throw (.abort 0x07 0)
  | some s => do
    set s
    modMyCrew (fun c => c.modBody (fun b => b.setTile n t))

/-- The tile has been poisoned (R272). -/
def checkTile (t : Tile) : M Unit := if t.poison then trapU 0x15 else pure ()

def Tile.at (t : Tile) (r c : Nat) : BitVec 32 := kvGet 0 t.elems (128 * r + c)
/-- One row with every element replaced. -/
def Tile.setRow (t : Tile) (r : Nat) (f : Nat → BitVec 32) : Tile :=
  { t with elems := t.elems.filter (fun e => decide (e.1 < 128 * r)) ++
      (List.range 128).filterMap (fun c => if f c = 0 then none else some (128 * r + c, f c)) ++
      t.elems.filter (fun e => decide (128 * (r + 1) ≤ e.1)) }
def Tile.put (t : Tile) (r c : Nat) (v : BitVec 32) : Tile := { t with elems := kvPut 0 t.elems (128 * r + c) v }
/-- One row multiplied by a binary32 value (R246). -/
def scale32 (v x : BitVec 32) : BitVec 32 := fpOp2 .f32 .rn (fun _ a b => fpMul a b) x v
def Tile.scaleRow (t : Tile) (r : Nat) (v : BitVec 32) : Tile :=
  let row := t.elems.filter (fun e => e.1 / 128 == r)
  t.setRow r (fun c => scale32 v (kvGet 0 row (128 * r + c)))

/-! ### Commands (R284, R285) -/

/-- The completion word's checks at issue: in the aperture its bytes and alignment, in memory steps 1 to 4 of R149, and
the flow check of R56, whose label is formed after them, as WBARA makes them of its own word. -/
def checkCt (ct : SReg) : M Unit := do
  let ap ← myAperture
  let acc : Acc := { uni := true, size := 4, eas := [(0, (ct.val.toNat : Int))], alab := [ct.lab] ++ (← claimLabel) }
  let labs := acc.alab ++ [← myPcl]
  let ea := ct.val.toNat
  if canonical (ea : Int) && inAperture ap ea 1 then
    let p := (← myCrew).body.pad
    checkAll acc 0x06 0 (fun _ => decide (ap.1 + p.size < ea + 4))
    checkAll acc 0x1B 0 (fun e => e.2 % 4 != 0)
    let l ← joinAll labs
    checkFlow acc [(0, p.lab (padLine (ea - ap.1)))] (fun _ => l)
  else
    let locs ← checkAcc .atomic acc
    let l ← joinAll labs
    let s ← get
    checkFlow acc (locs.map (fun x => (x.lane, s.granLab x.line))) (fun _ => l)

def cmdRegs (sh co ct : Nat) : List Nat := [sh, co, co + 1, co + 2, co + 3, ct]

/-- The place of the executing instruction in its crew's program order. -/
def myPlaceIn : M (Nat × Nat × Nat) := do
  let th ← myTh
  pure ((← myCrew).win, agentKey (← me) th, th.count)

/-- A command as its registers give it, with whether the commit record of its crew stands past it (R310, R338), and, in a pair,
whether what it does in memory has been done already, before a rollback (log 55). -/
def makeCmd (kind : CmdKind) (sh co ct : Nat) (past : Bool) : M Cmd := do
  let ag ← me
  let s ← get
  let rd := s.readS ag
  let pkr ← myPkr
  let pcl ← myPcl
  let c ← myCrew
  let (win, key, count) ← myPlaceIn
  let (spva, _) ← myAperture
  pure { op := s.nextOp, cid := (agentCid ag).getD 0, win := win, past := past, ag := ag, kind := kind
         key := key, count := count, quiet := (c.doneOp? win key count).isSome
         sh := (rd sh).val, coords := (List.range 4).map (fun k => (rd (co + k)).val.toNat % 2 ^ 32), ct := (rd ct).val
         labs := (match kind with
           | .mma _ _ _ => [sh, co, co + 1, co + 2, co + 3]
           | .tcopy => [sh, co, co + 1, co + 2, co + 3]
           | .xfer _ => [sh, co, co + 1, co + 2, co + 3, ct]).map (fun r => (rd r).lab) ++ [pcl]
         pcl := pcl, pkr := pkr, spva := spva, progress := s.cyc }

/-- Tile fetch of an MMA has begun: FRINV waits for it, and one that has not begun waits for FRINV (R259). -/
def Cmd.begun (m : Cmd) : Bool := m.k != 0 || !m.lines.isEmpty

/-- Puts a command in its engine's queue. -/
def pushCmd (copy : Bool) (m : Cmd) : M Unit := do
  let c ← myCrew
  modify (fun s => { (s.modCluster c.cl (fun q =>
    if copy then { q with cq := q.cq ++ [m] } else { q with mq := q.mq ++ [m] })) with nextOp := s.nextOp + 1 })
  modTh (fun th => { th with outEng := th.outEng + 1 })

/-- The copy engine's queue holds 64 commands (R279). -/
def awaitQueue : M Unit := do
  let c ← myCrew
  if 64 ≤ ((← get).cluster c.cl).cq.length then throw (.park .engine) else pure ()

/-- The word is in memory, not in the crew's aperture. -/
def inMemory (va : Word) : M Bool := do
  let ap ← myAperture
  pure !(inAperture ap (va.toNat : Int) 1)

/-- The term of a TCOPY or XFER in a copy of a pair (R308). -/
def cmdTerm (sh co ct : Nat) : M Unit := do
  if ← isPaired then
    let s ← get
    let ag ← me
    let l ← joinAll [(s.readS ag sh).lab, (s.readS ag co).lab, (s.readS ag ct).lab]
    let _ ← addTerm false (s.readS ag sh).val (BitVec.ofNat 64 ((s.readS ag ct).val.toNat % 2 ^ 32)) 4 l
    pure ()
  else pure ()

/-! ### Shape records (R92, R286) -/

/-- The n-byte field at an offset of a record given as one little-endian number. -/
def fieldAt (v ofs n : Nat) : Nat := v / 256 ^ ofs % 256 ^ n

def shapeOf (v : Nat) : ShapeRec :=
  { base := fieldAt v 0 8, ty := fieldAt v 8 1, rank := fieldAt v 9 1
    ext := (List.range 4).map (fun d => fieldAt v (0x10 + 4 * d) 4)
    stride := (List.range 4).map (fun d => fieldAt v (0x20 + 8 * d) 8)
    box := (List.range 4).map (fun d => fieldAt v (0x40 + 2 * d) 2)
    resv := fieldAt v 0x0A 6 != 0 || fieldAt v 0x60 32 != 0
    grid := [fieldAt v 0x48 1, fieldAt v 0x49 1, fieldAt v 0x4A 1]
    pos := [fieldAt v 0x4B 1, fieldAt v 0x4C 1, fieldAt v 0x4D 1]
    repl := BitVec.ofNat 64 (fieldAt v 0x50 8), op := fieldAt v 0x58 1, handle := fieldAt v 0x5C 4
    resvx := fieldAt v 0x4E 2 != 0 || fieldAt v 0x59 3 != 0 }

/-- Bytes of an element; an SM4 element is a nibble of one. -/
def elemSize (ty : Nat) : Nat := match tyOf (BitVec.ofNat 4 ty) with | some t => tySize t | none => 1
def isSm4 (ty : Nat) : Bool := ty == 11

/-- The first check of R286 after the record's own address that fails, by its number in the table. -/
def shapeCheck (accepts : Nat → Bool) (r : ShapeRec) : Option Nat :=
  let dims := List.range 4
  let at_ : List Nat → Nat → Nat := fun l d => l.getD d 0
  if 11 < r.ty || !accepts r.ty then some 2
  else if r.rank = 0 || 4 < r.rank then some 3
  else if dims.any (fun d => if d < r.rank then at_ r.ext d == 0 || at_ r.box d == 0
      else at_ r.ext d != 0 || at_ r.stride d != 0 || at_ r.box d != 0) then some 4
  else if r.resv || r.stride.any (fun x => decide (2 ^ 48 ≤ x)) then some 5
  else if r.base % elemSize r.ty != 0 || (r.stride.drop 1).any (fun x => x % elemSize r.ty != 0) ||
      (isSm4 r.ty && at_ r.stride 0 != 0) then some 6
  else none

/-- The error code of a failed check. -/
def shapeFc (check : Nat) : Nat := if check = 6 then 0x1B else 0x01

/-- Elements of a box (R300). -/
def boxCount (r : ShapeRec) : Nat := (r.box.take r.rank).foldl (· * ·) 1
/-- SHAPE's count of a box; the spec states none for a box of 2^32 elements or more (log 74). -/
def shapeCount (r : ShapeRec) : Nat := if boxCount r < 2 ^ 32 then boxCount r else (Config.bigBox (boxCount r)).toNat

/-- SHAPE (R300). -/
def execShape (d a : Nat) (s : State) : Host.Outcome State Fault Refusal :=
  run (do
    issue [.s a] [.s d]
    let ra ← rdS a
    let acc : Acc := { uni := true, size := 128, eas := [(0, (ra.val.toNat : Int))], alab := [ra.lab] ++ (← claimLabel) }
    let locs ← checkAcc .load acc
    let s ← get
    let l ← joinAll (locs.map (fun x => s.granLab x.line) ++ [ra.lab, ← myPcl])
    let vs ← locs.mapM (loadLoc .core .rlx 128)
    let r := shapeOf (vs.headD 0)
    let v := match shapeCheck (fun _ => true) r with
      | some k => k
      | none => shapeCount r * 2 ^ 32
    writeS d (BitVec.ofNat 64 v) l
    done) s

/-! ### Records and lines as an engine reads them -/

/-- A command waits for a page. -/
def Cmd.await (m : Cmd) (w : Nat × Nat) (cyc : Nat) : Cmd := { m with wants := some w, asked := cyc }

/-- Why an engine's access stops: an error code, a line whose data are poisoned, a page that must first be mapped or brought up, or
a line at whose home its store must wait. -/
inductive EngErr where
  | code (fc : Nat)
  | poisoned (line : Nat)
  | wait (va sub : Nat)
  | pinned (line : Nat)
  deriving DecidableEq, Repr

/-- One access of an engine for a context: the checks of R149 in their order, and A and D (R285, R392). An arrival reads and writes
(R382). It answers the physical address and the final entry. -/
def State.engAccess (s : State) (vf cl : Nat) (ap : Nat × Nat) (pkr : Word) (k : AccKind) (va : Int) (n : Nat) :
    Except EngErr (Nat × Word × State) :=
  if !canonical va then .error (.code 0x05)
  else
    let w := s.translate vf (some cl) va.toNat
    let bad := match w with
      | .leaf _ e l => paReserved (pteAddr e l va.toNat) || !s.egressOk vf (s.normPa (pteAddr e l va.toNat)) n (k != .store) (k != .load)
      | .absent _ => false
    if crosses va n || inAperture ap va n || bad then .error (.code 0x06)
    else match w with
      | .absent sub => .error (if sub = 2 then .code 0x07 else .wait va.toNat sub)
      | .leaf p e l =>
        if keyDenied pkr k e then .error (.code 0x08)
        else if isWrite k && !pteW e then .error (.code 0x09)
        else
          let pa := s.normPa (pteAddr e l va.toNat)
          let s1 := (s.noteUse vf (some cl) va.toNat p e l).setAD vf p (isWrite k)
          .ok (pa, e, if isWrite k then s1 else s1.touchHome vf pa n (pteMs e))

/-- A shape record as a command's engine reads it whole, or the error code of R286's first check. Neither engine waits
for a record's page. -/
def State.engRecord (s : State) (vf cl : Nat) (ap : Nat × Nat) (pkr : Word) (accepts : Nat → Bool) (va : Int) :
    Except Nat ShapeRec × State :=
  if canonical va && va % 128 != 0 then (.error 0x1B, s)
  else match s.engAccess vf cl ap pkr .load va 128 with
    | .error (.code c) => (.error c, s)
    | .error _ => (.error 0x07, s)
    | .ok (pa, _, s1) =>
      if s1.bad (lineOf pa) then (.error 0x1A, s1.tell vf (lineOf pa))
      else
        let r := shapeOf (s1.homeNat pa 128)
        (match shapeCheck accepts r with | some k => .error (shapeFc k) | none => .ok r, s1)

/-- Both records of a command, checked; the pages used stay recorded whatever the checks say (R364). -/
def State.engRecords (s : State) (vf cl : Nat) (ap : Nat × Nat) (pkr : Word) (sh : Word) (accepts : Nat → Bool) :
    Except Nat (ShapeRec × ShapeRec) × State :=
  match s.engRecord vf cl ap pkr accepts sh.toNat with
  | (.error c, s1) => (.error c, s1)
  | (.ok a, s1) =>
    match s1.engRecord vf cl ap pkr accepts (sh.toNat + 128) with
    | (.error c, s2) => (.error c, s2)
    | (.ok b, s2) => (.ok (a, b), s2)

/-- The byte address of an element, and its nibble for SM4 (R286). -/
def elemAddr (r : ShapeRec) (e : List Nat) : Nat × Option Nat :=
  let dot : Nat → Nat := fun from_ => ((List.range 4).map (fun d =>
    if d < from_ then 0 else e.getD d 0 * r.stride.getD d 0)).sum
  if isSm4 r.ty then (r.base + dot 1 + e.getD 0 0 / 2, some (e.getD 0 0 % 2)) else (r.base + dot 0, none)

/-- In range in every dimension below the rank (R287). -/
def elemIn (r : ShapeRec) (e : List Nat) : Bool :=
  (List.range r.rank).all (fun d => decide (e.getD d 0 < r.ext.getD d 0))

/-- The indices of a record's box, dimension 0 fastest. -/
def boxElems (r : ShapeRec) : List (List Nat) :=
  let n : Nat → Nat := fun d => if d < r.rank then r.box.getD d 0 else 1
  (List.range (n 3)).flatMap (fun l => (List.range (n 2)).flatMap (fun k => (List.range (n 1)).flatMap (fun j =>
    (List.range (n 0)).map (fun i => [i, j, k, l]))))

/-- Scratchpad lines that a destination record's box falls on, in the order of its elements (R281). -/
def destLines (ap : Nat × Nat) (r : ShapeRec) : List Nat :=
  (((boxElems r).filter (elemIn r)).flatMap (fun e =>
    let a := (elemAddr r e).1
    if ap.1 ≤ a && a + elemSize r.ty ≤ ap.1 + ap.2
    then [padLine (a - ap.1), padLine (a + elemSize r.ty - 1 - ap.1)] else [])).eraseDups

/-- A destination whose lines meet a stash window of the crew (R281). -/
def Pad.stashed (p : Pad) (lines : List Nat) : Bool := lines.any (fun l => (p.global (128 * l)).isSome)

/-- What a command does to its crew's scratchpad holds in every state of the crew that comes after its issue. -/
def Crew.modPads (c : Crew) (m : Cmd) (f : Pad → Pad) : Crew :=
  let g : Body → Body := fun b => { b with pad := f b.pad }
  if m.orphan then c else
  { c with body := g c.body
           closed := c.closed.map (fun w => if m.win ≤ w.win then { w with body := g w.body } else w)
           saved := if c.after m then c.saved else g c.saved }

/-- What a command does to its crew's tiles, likewise. -/
def Crew.modTile (c : Crew) (m : Cmd) (n : Nat) (f : Tile → Tile) : Crew :=
  let g : Body → Body := fun b => match b.grant.bind (fun g => g.tiles[n]?) with
    | some t => b.setTile n (f t)
    | none => b
  { c with body := g c.body
           closed := c.closed.map (fun w => if m.win ≤ w.win then { w with body := g w.body } else w)
           saved := if c.after m then c.saved else g c.saved }

/-- The presence bits of a copy's destination lines, with their failed marks, go at its issue (R281). -/
def Pad.clearLines (p : Pad) (ls : List Nat) : Pad :=
  { p with absent := ls.foldl addOnce p.absent, failed := p.failed.filter (fun l => !ls.contains l) }

/-! ### TCOPY, XFER and MMA at issue -/

/-- TCOPY (R295). What its destination record names is known at issue only as memory then holds it; every line of it loses its
presence bit, whatever ends the copy later (R281). A record that cannot be read then names none, which the spec leaves open
(log 39). In a pair, one whose destination lies in memory completes at the match without effect in the trailing copy, and in the
leading one where it has been performed before, but for its arrival in the aperture, which a rollback undoes (R310, log 55). -/
def execTcopy (sh co ct : Nat) (s : State) : Host.Outcome State Fault Refusal :=
  run (do
    issue ((cmdRegs sh co ct).map .s) []
    let c ← myCrew
    if !(← acts) then done
    else do
      checkCt (← rdS ct)
      awaitQueue
      let ap ← myAperture
      let pkr ← myPkr
      let sv ← valS sh
      let dst := match ((← get).engRecord c.vf c.cl ap pkr (fun _ => true) (sv.toNat + 128)).1 with
        | .ok d => some d
        | .error _ => none
      let dmem := match dst with | some d => !inAperture ap (d.base : Int) 1 | none => true
      let behind := c.copy != .solo && (dmem || (← inMemory (← valS ct)))
      if behind then commitWith (cmdTerm sh co ct) else cmdTerm sh co ct
      let (win, key, count) ← myPlaceIn
      let alone := behind && dmem
      let found := (← myCrew).doneOp? win key count
      match (if alone then found else none) with
      | some d => do
        if c.copy == .trail || (← inMemory (← valS ct)) then done
        else do
          let m ← makeCmd .tcopy sh co ct false
          pushCmd true { m with alone := true, st := .accepted, written := true, fc := d.fc }
          modTh (fun th => { th with outEng := th.outEng - 1 })
          done
      | none =>
      if alone && c.copy == .trail then done
      else do
        let lines := match dst with
          | some d => if dmem then [] else destLines ap d
          | none => []
        let m ← makeCmd .tcopy sh co ct false
        modMyCrew (fun c => c.modPads m (fun p => p.clearLines lines))
        pushCmd true { m with todo := lines, alone := alone }
        done) s

/-- XFER stands behind a commit point; the leading copy alone issues it (R299). -/
def execXfer (red : Bool) (sh co ct : Nat) (s : State) : Host.Outcome State Fault Refusal :=
  run (do
    issue ((cmdRegs sh co ct).map .s) []
    let c ← myCrew
    if !(← acts) then done
    else do
      checkCt (← rdS ct)
      awaitQueue
      commitWith (cmdTerm sh co ct)
      if c.copy == .trail then donePast
      else do
        let m ← makeCmd (.xfer red) sh co ct true
        pushCmd true { m with alone := true }
        donePast) s

/-- MMA (R244, R290). -/
def execMma (ty : Ty) (i32 : Bool) (tile : Nat) (sh co ct : Nat) (s : State) : Host.Outcome State Fault Refusal :=
  run (do
    match ← me with
    | .frag _ _ _ => illegal .wrongClass
    | _ => pure ()
    let _ ← myTile tile
    issue ((cmdRegs sh co ct).map .s) []
    let c ← myCrew
    checkCt (← rdS ct)
    let behind := c.copy != .solo && (← inMemory (← valS ct))
    if behind then commitWith (pure ()) else pure ()
    let m ← makeCmd (.mma ty i32 tile) sh co ct false
    pushCmd false m
    done) s

/-! ### Tile operations (R246, R291 to R294) -/

def execMzero (tile : Nat) (s : State) : Host.Outcome State Fault Refusal :=
  run (do
    match ← me with
    | .frag _ _ _ => illegal .wrongClass
    | _ => pure ()
    let _ ← myTile tile
    issue [] []
    awaitTile tile
    let l ← myPcl
    putTile tile { lab := l }
    done) s

/-- MDRAIN: .f32 is exact, whatever the element's bits hold (R246, R271). -/
def execMdrain (la : Nat) (ty : Ty) (r : Rnd) (d tile b : Nat) (s : State) : Host.Outcome State Fault Refusal :=
  run (do
    let _ ← myFrag
    let _ ← myTile tile
    issue [.s b] (← vDst d)
    if (← myTh).exm = 0 then pure ()
    else do
      awaitTile tile
      let t ← myTile tile
      checkTile t
      let rb ← rdS b
      let col := rb.val.toNat % 128
      writeV d (fun _ => [t.lab, rb.lab]) (fun l => if ty == .f32 then t.at (l % 128) col
        else convert ty .f32 false r (t.at (l % 128) col))
    openWindow [.v d] la classMd
    done) s

/-- The label that a tile takes from a team instruction (R271). -/
def tileLabel (t : Tile) (a : Nat) (others : List Lbl) : M Lbl := do
  let tm ← myTeam
  joinAll ([t.lab] ++ tm.crossLab (← myTh).exm a ++ others ++ [← myPcl])

/-- A lane read as a type and widened to binary32 (R293). -/
def widen (ty : Ty) (x : Lane) : BitVec 32 := convert .f32 ty false .rn x

def execMfill (ty : Ty) (tile a b : Nat) (s : State) : Host.Outcome State Fault Refusal :=
  run (do
    let _ ← myFrag
    let _ ← myTile tile
    issue [.v a, .s b] []
    let th ← myTh
    if th.exm = 0 then done
    else do
      awaitTile tile
      let t ← myTile tile
      checkTile t
      let tm ← myTeam
      let rb ← rdS b
      let l ← tileLabel t a [rb.lab]
      let col := rb.val.toNat % 128
      let t' := (mlanes th.exm).foldl (fun t l => t.put (l % 128) col (widen ty (tm.lane a l))) t
      putTile tile { t' with lab := l }
      done) s

/-- MRSCL of team code: lanes in ascending order (R246). -/
def execMrsclVector (tile a : Nat) (s : State) : Host.Outcome State Fault Refusal :=
  run (do
    let _ ← myFrag
    let _ ← myTile tile
    issue [.v a] []
    let th ← myTh
    if th.exm = 0 then done
    else do
      awaitTile tile
      let t ← myTile tile
      checkTile t
      let tm ← myTeam
      let l ← tileLabel t a []
      let t' := (mlanes th.exm).foldl (fun t l => t.scaleRow (l % 128) (tm.lane a l)) t
      putTile tile { t' with lab := l }
      done) s

/-- MRSCL of the matrix sequencer: every row (R294). -/
def execMrsclUniform (tile a : Nat) (s : State) : Host.Outcome State Fault Refusal :=
  run (do
    match ← me with
    | .frag _ _ _ => illegal .wrongClass
    | _ => pure ()
    let _ ← myTile tile
    issue [.s a] []
    awaitTile tile
    let t ← myTile tile
    checkTile t
    let ra ← rdS a
    let l ← joinAll [t.lab, ra.lab, ← myPcl]
    let t' := (List.range 128).foldl (fun t r => t.scaleRow r (ra.val.extractLsb' 0 32)) t
    putTile tile { t' with lab := l }
    done) s

/-! ### Appends to launch queues (R173, R174, R301) -/

def refused (n : Nat) : Word := BitVec.ofNat 64 (2 ^ 63 + n)

/-- The physical address of a word of a context's queue structures, which the append or the dispatcher reads and writes: a present MS
page, and a writable one where that is asked, as a slot is; in a peer's memory only where the context's egress table opens it (R173,
R382). -/
def State.msAddr (s : State) (vf : Nat) (write : Bool) (va : Nat) : Option Nat :=
  if !canonical (va : Int) then none else
  match s.walk (s.ctx vf).root va with
  | .leaf _ e l =>
    let pa := s.normPa (pteAddr e l va)
    if pteMs e && (!write || pteW e) && !paReserved pa && s.egressOk vf pa (if write then 16 else 64) (!write) true then some pa
    else none
  | .absent _ => none

/-- A descriptor of a queue (R173). -/
structure QDesc where
  ring : Nat
  log2n : Nat
  enable : Nat
  tail : Nat
  head : Nat
  rcount : Nat
  resv : Bool
  deriving DecidableEq, Repr

def State.qdesc (s : State) (pa : Nat) : QDesc :=
  let v := s.homeNat pa 64
  { ring := fieldAt v 0 8, log2n := fieldAt v 8 1, enable := fieldAt v 9 1, tail := fieldAt v 0x10 8
    head := fieldAt v 0x18 8, rcount := fieldAt v 0x2C 4, resv := fieldAt v 0x0A 6 != 0 || fieldAt v 0x30 16 != 0 }

/-- The queue is enabled and its descriptor is one that is served. -/
def QDesc.ok (d : QDesc) : Bool :=
  d.enable == 1 && decide (4 ≤ d.log2n) && decide (d.log2n ≤ 16) && d.ring % 4096 == 0 && !d.resv

def QDesc.slot (d : QDesc) (t : Nat) : Nat := d.ring + 16 * (t % 2 ^ d.log2n)

/-- The outcome of an append, or of the flow check that stands with it. -/
inductive Append where
  | done (seq : Nat) (s : State)
  | refused (n : Nat)
  | flow
  | held (lines : List Nat)

/-- One append, indivisible at the memory-side unit: with a label for a program's, none for the host's and a peer's. -/
def State.append (s : State) (vf q : Nat) (record : Word) (who : Option (BitVec 64 × Lbl)) (lab : Option Lbl) : Append :=
  let c := s.ctx vf
  let va := c.lqt.toNat + 64 * q
  match (if c.lqt = 0 then none else s.msAddr vf false va) with
  | none => .refused (if q = 0 || c.lqt = 0 then 4 else 1)
  | some dpa =>
    let d := s.qdesc dpa
    if !d.ok then .refused 1
    else if 2 ^ d.log2n ≤ d.tail - d.head then .refused 2
    else match s.msAddr vf true (d.slot d.tail) with
      | none => .refused 1
      | some spa =>
        if !s.storable (lineOf spa) || !s.storable (lineOf dpa) then .held [lineOf spa, lineOf dpa]
        else if (match lab with | some l => !c.dominates (s.granLab (lineOf spa)) l | none => false) then .flow
        else
          let s1 := s.perform vf (numBytes spa 8 record.toNat ++ numBytes (spa + 8) 8 d.tail) true
          let s2 := s1.perform vf (numBytes (dpa + 0x10) 8 (d.tail + 1)) true
          .done d.tail (s2.modCtx vf (fun c => { c with pktAuth := match who with
            | some w => kvSet c.pktAuth (2 ^ 40 * q + d.tail) w
            | none => kvDel c.pktAuth (2 ^ 40 * q + d.tail) }))

/-- What an issuer is told in place of a sequence number where the flow check fails; no register ever receives it. -/
def flowWord : Word := 0xFFFFFFFFFFFFFFFF

/-- The outcome of an append that a peer performs (R301). -/
def peerAnswer (n : Nat) : Word :=
  if (Config.peerOutcome n).val = 0 then (Config.peerSeq n).zeroExtend 64
  else if (Config.peerOutcome n).val = 5 then flowWord
  else refused (Config.peerOutcome n).val

/-- The append of CAST or QPUT by the executing agent. -/
def appendNow (q : Option Nat) (record : Word) (k : Lbl) : M Word := do
  let auth ← myAuth
  let clear ← myClear
  let vf ← myVf
  match q with
  | none => pure (refused 4)
  | some q =>
    match (← get).append vf q record (some (auth, clear)) (some k) with
    | .done t s => do set s; pure (BitVec.ofNat 64 t)
    | .refused n => pure (refused n)
    | .flow => pure flowWord
    | .held ls => do
      modify (fun s => s.askHolders ls)
      throw (.park .pinned)

/-- What CAST and QPUT share after their checks: the commit point, the append behind it, a release at .sys, and the
outcome in the register that held the record address (R301, R303). -/
def appendOp (reg : Nat) (addr d : Word) (k : Lbl) (app : M Word) : M Done := do
  commitWith (do
    let _ ← addTerm false addr d 8 k
    pure ())
  match agentCid (← me) with
  | some cid => if ← isTrail then pure () else modify (fun s => s.wtCoreOf cid)
  | none => pure ()
  let vs ← once [addr.toNat] (do pure [← app])
  let v := vs.headD 0
  recordHere 8 [addr, v]
  if v = flowWord then trapU 0x0C
  else do
    writeS reg v k
    donePast

def execCast (a : Nat) (s : State) : Host.Outcome State Fault Refusal :=
  run (do
    issue [.s a] []
    if !(← acts) then done
    else do
      declared [.s a]
      let ra ← rdS a
      let k ← joinAll [ra.lab, ← myPcl]
      awaitRelease []
      let q := if (← myVf?).isSome then some 0 else none
      appendOp a ra.val 0 k (appendNow q ra.val k)) s

/-- QPUT: x is the descriptor of queue 1 to 15 in the context's table, or lies in a peer's memory (R301). -/
def execQput (a b : Nat) (ofs : BitVec 18) (s : State) : Host.Outcome State Fault Refusal :=
  run (do
    issue [.s a, .s b] []
    if !(← acts) then done
    else do
      declared [.s b]
      let ra ← rdS a
      let rb ← rdS b
      let x := (ra.val.toNat : Int) + ofs.toInt
      let acc : Acc := { uni := true, size := 64, eas := [(0, x)], alab := [ra.lab] ++ (← claimLabel) }
      let locs ← checkAcc .load acc
      let k ← joinAll [rb.lab, ra.lab, ← myPcl]
      awaitRelease []
      let c := (← get).ctx (← myVf)
      let d := x - (c.lqt.toNat : Int)
      let q : Option Nat := if c.lqt != 0 && d % 64 == 0 && decide (64 ≤ d) && decide (d < 1024) &&
        locs.all Loc.ms then some (d.toNat / 64) else none
      let peer := locs.any (fun l => l.outside && !decide (0x800 ≤ paWindow l.pa))
      let tick := (← get).tick
      appendOp b (BitVec.ofInt 64 x) (BitVec.ofNat 64 (d.toNat / 64 % 256)) k
        (if peer then pure (peerAnswer tick) else appendNow q rb.val k)) s

end Sys2Proof.Machine
end

