-- ==== Sys2Proof/Machine/EngineEvents.lean ====
section
/-! DEFINITION. What the matrix engine, the tile fetch unit, the copy engine and the ring sequencers do: acceptance (R286),
tile fetch and accumulation (R260 to R262, R273 to R275), copies (R280 to R283), collectives (R264, R296 to R299,
R383 to R386), and arrivals (R285). An event that is not enabled leaves the state as it is. -/

namespace Sys2Proof.Machine

abbrev Out := Host.Outcome State Fault Refusal

/-! ### Commands in an engine -/

def State.cmd? (s : State) (cl op : Nat) : Option Cmd :=
  ((s.cluster cl).mq ++ (s.cluster cl).cq).find? (fun m => m.op == op)
def State.modCmd (s : State) (cl op : Nat) (f : Cmd → Cmd) : State :=
  let g : List Cmd → List Cmd := fun l => l.map (fun m => if m.op == op then { f m with progress := s.cyc } else m)
  s.modCluster cl (fun q => { q with mq := g q.mq, cq := g q.cq })
def State.dropCmd (s : State) (cl op : Nat) : State :=
  s.modCluster cl (fun q => { q with mq := q.mq.filter (fun m => m.op != op), cq := q.cq.filter (fun m => m.op != op) })
/-- The scratchpad aperture as the command was issued under it (R161, R354). -/
def Cmd.ap (m : Cmd) (c : Crew) : Nat × Nat := (m.spva, c.body.pad.size)

/-- The command leaves WAIT class eng of the thread that issued it. -/
def State.accepted (s : State) (m : Cmd) : State := s.modThread m.ag (fun th => { th with outEng := th.outEng - 1 })

/-- An engine changes a tile of a crew, once the tile log holds it as the window found it (R277); a cast whose log has lost its
page ends (R326). -/
def State.changeTile (s : State) (m : Cmd) (n : Nat) (f : Tile → Tile) : State :=
  match s.logTile m.cid n with
  | none => s.abortCrew m.cid 0x07 0
  | some s1 => s1.modCrew m.cid (fun c => c.modTile m n f)

/-- An MMA ends in error phase: its tile is poisoned and its pins are released (R274). -/
def State.failMma (s : State) (cl : Nat) (m : Cmd) (n fc : Nat) : State :=
  let s1 := s.modCmd cl m.op (fun m => { m with st := .accepted, fc := some fc, lines := [] })
  ({ s1 with pins := unpin s1.pins m.pinned }).changeTile m n (fun t => { t with poison := true })

/-! ### Acceptance (R286, R290, R295, R296) -/

def mmaFmt (ty : Ty) : Nat := (tyCode ty).toNat

/-- The rules of R243 and R290 for the operands of an MMA. -/
def mmaRecsOk (ty : Ty) (a b : ShapeRec) : Bool :=
  let k := a.box.getD 0 0
  a.rank == 2 && b.rank == 2 && a.ty == mmaFmt ty && b.ty == mmaFmt ty && b.box.getD 1 0 == k && a.box.getD 1 0 == 128 &&
    b.box.getD 0 0 == 128 && k % 32 == 0 && decide (32 ≤ k) && decide (k ≤ 65504)

def State.acceptMma (s : State) (cl : Nat) (c : Crew) (m : Cmd) (ty : Ty) (n : Nat) : State :=
  let poisoned := match c.body.grant.bind (fun g => g.tiles[n]?) with | some t => t.poison | none => true
  let s0 := s.accepted m
  if poisoned then s0.failMma cl m n 0x15
  else match s0.engRecords c.vf cl (m.ap c) m.pkr m.sh (· == mmaFmt ty) with
    | (.error fc, s1) => s1.failMma cl m n fc
    | (.ok (a, b), s1) =>
      if mmaRecsOk ty a b then s1.modCmd cl m.op (fun m => { m with st := .accepted, recs := some (a, b) })
      else s1.failMma cl m n 0x01

/-- Marks the lines that a failed copy has not written (R281). -/
def Pad.failLines (p : Pad) (ls : List Nat) : Pad := { p with failed := ls.foldl addOnce p.failed }
/-- A copy marks lines of its crew's scratchpad failed, and the loads held for them fault (R94, R281). -/
def Crew.failLines (c : Crew) (m : Cmd) (ls : List Nat) : Crew :=
  if m.orphan then c else (c.modPads m (fun p => p.failLines ls)).modBody (fun b => ls.foldl Body.lose b)

/-- A TCOPY is accepted: same type and boxes, and no destination on a stash window. One that fails keeps the scratchpad lines
that its destination names, which end up marked failed (R281). -/
def State.acceptCopy (s : State) (cl : Nat) (c : Crew) (m : Cmd) : State :=
  let fail : State → List Nat → Nat → State := fun s ls fc => s.modCmd cl m.op (fun m => { m with
    st := .accepted, fc := some fc, todo := ls.foldl addOnce m.todo })
  let s := if m.alone then s.modCrew m.cid (fun c => c.markDone m) else s
  match s.engRecords c.vf cl (m.ap c) m.pkr m.sh (fun _ => true) with
  | (.error fc, s1) => fail s1 [] fc
  | (.ok (a, b), s1) =>
    let pad := inAperture (m.ap c) (b.base : Int) 1
    let lines := if pad then destLines (m.ap c) b else []
    if a.ty != b.ty || a.box != b.box || a.rank != b.rank then fail s1 lines 0x01
    else if c.body.pad.stashed lines then fail s1 lines 0x06
    else
      let gone := m.todo.filter (fun l => !lines.contains l)
      (s1.modCmd cl m.op (fun m => { m with
        st := .accepted, recs := some (a, b), todo := lines
        before := if inAperture (m.ap c) (a.base : Int) 1 then c.body.pad.bytes else []
        bad := if inAperture (m.ap c) (a.base : Int) 1 then c.body.pad.poison else [] })).modCrew m.cid (fun c =>
          (c.modPads m (fun p =>
            let p1 := p.clearLines (lines.filter (fun l => !m.todo.contains l))
            { p1 with absent := p1.absent.filter (fun l => !gone.contains l) })).failLines m gone)

/-- Ranks of a collective, this rank, and its contributors in ascending rank (R296, R297). -/
def gridSize (r : ShapeRec) : Nat := r.grid.foldl (· * ·) 1
def myRank (r : ShapeRec) : Nat := r.pos.getD 0 0 + r.grid.getD 0 0 * (r.pos.getD 1 0 + r.grid.getD 1 0 * r.pos.getD 2 0)
def contributors (r : ShapeRec) : List Nat :=
  (List.range (gridSize r)).filter (fun q => r.repl == 0 || (decide (q < 64) && r.repl.getLsbD q))

/-- The types and operators that a collective reduction accepts (R265). -/
def redOk (ty op : Nat) : Bool :=
  decide (op ≤ 5) && ((decide (1 ≤ ty) && decide (ty ≤ 4)) || (decide (6 ≤ ty) && decide (ty ≤ 8) && decide (op ≤ 2)))

def extOk (red : Bool) (r : ShapeRec) : Bool :=
  decide (1 ≤ gridSize r) && decide (gridSize r ≤ 192) &&
    (List.range 3).all (fun d => decide (r.pos.getD d 0 < r.grid.getD d 0)) &&
    (List.range 64).all (fun q => decide (q < gridSize r) || !r.repl.getLsbD q) && !r.resvx &&
    (!red || redOk r.ty r.op)

def State.handle? (s : State) (vf h : Nat) : Option Handle := kvFind (s.ctx vf).handles h

/-- The handle's membership check of this rank (R383). -/
def State.memberOk (s : State) (vf : Nat) (r : ShapeRec) : Bool :=
  match s.handle? vf r.handle, s.fabricId with
  | some h, some id => decide (gridSize r ≤ h.reg.ranks.length) && h.reg.ranks[myRank r]? == some (id, vf)
  | _, _ => false

/-- The XFERs that some context has had taken as the same step of the same group. -/
def State.stepPosts (s : State) (k : PostKey) : List (Nat × Post) :=
  s.ctxs.flatMap (fun e => (e.2.posts.filter (fun p =>
    p.key.jobkey == k.jobkey && p.key.ranks == k.ranks && p.key.step == k.step)).map (fun p => (e.1, p)))
def State.modPost (s : State) (vf : Nat) (k : PostKey) (f : Post → Post) : State :=
  s.modCtx vf (fun c => { c with posts := c.posts.map (fun p => if p.key == k then f p else p) })

/-- An XFER on a registered handle takes its place among those of its group: it is the next of its rank. A reduction has the answer that
the switch has given to the step already (R386). Where the source record cannot be read, its type and box stand as the destination
has them. -/
def State.post (s : State) (cl vf : Nat) (m : Cmd) (red : Bool) (b : ShapeRec) (fc : Option Nat) : State :=
  match s.handle? vf b.handle with
  | none => s
  | some h =>
    let n := ((s.ctx vf).posts.filter (fun p =>
      p.key.jobkey == h.reg.jobkey && p.key.ranks == h.reg.ranks && p.key.rank == myRank b)).length
    let k : PostKey := { jobkey := h.reg.jobkey, ranks := h.reg.ranks, rank := myRank b, step := n }
    let p : Post := { key := k, handle := b.handle, red := red, grid := b.grid, repl := b.repl, op := b.op, ty := b.ty, rank := b.rank
                      box := b.box, fc := fc, slot := (s.stepPosts k).findSome? (fun e => e.2.slot) }
    (s.modCtx vf (fun c => { c with posts := c.posts ++ [p] })).modCmd cl m.op (fun m => { m with post := some k })

/-- A step that fails at a rank fails with the first code that it met, and the other ranks of this module find it there (R298). -/
def State.failXfer (s : State) (cl vf : Nat) (m : Cmd) (fc : Nat) : State :=
  let s1 := s.modCmd cl m.op (fun m => { m with fc := some (m.fc.getD fc) })
  match m.post with
  | some k => s1.modPost vf k (fun p => { p with fc := some (p.fc.getD fc) })
  | none => s1

/-- An XFER is accepted, or fails at once: other ranks learn of that where its destination record names a registered handle. -/
def State.acceptXfer (s : State) (cl : Nat) (c : Crew) (m : Cmd) (red : Bool) : State :=
  let take : State → Option (ShapeRec × ShapeRec) → Option Nat → State := fun s rs fc =>
    s.modCmd cl m.op (fun m => { m with st := .accepted, recs := rs, fc := fc })
  match s.engRecords c.vf cl (m.ap c) m.pkr m.sh (fun _ => true) with
  | (.error fc, s1) =>
    let s2 := take s1 none (some fc)
    match (s1.engRecord c.vf cl (m.ap c) m.pkr (fun _ => true) (m.sh.toNat + 128)).1 with
    | .ok b => s2.post cl c.vf m red b (some fc)
    | .error _ => s2
  | (.ok (a, b), s1) =>
    let fc : Option Nat :=
      if !extOk red b || a.ty != b.ty || a.box != b.box || a.rank != b.rank then some 0x01
      else if !s1.memberOk c.vf b then some 0x1D
      else if inAperture (m.ap c) (a.base : Int) 1 || inAperture (m.ap c) (b.base : Int) 1 then some 0x06
      else none
    (take s1 (if fc.isSome then none else some (a, b)) fc).post cl c.vf m red b fc

/-- The ranks of a step that are virtual functions of this module, but for one (R383). -/
def State.localRanks (s : State) (k : PostKey) (n : Nat) : List Nat :=
  (List.range n).filter (fun q => q != k.rank && (k.ranks[q]?).any (fun r => s.fabricId == some r.1))
/-- Two ranks' XFERs agree in handle, grid, contributors, reduction, type and boxes (R297). -/
def Post.agrees (p q : Post) : Bool :=
  p.handle == q.handle && p.grid == q.grid && p.repl == q.repl && p.red == q.red && (!p.red || p.op == q.op) && p.ty == q.ty &&
    p.rank == q.rank && p.box == q.box

/-- What the comparison of a step's XFERs on this module says: it may go on, it must wait for a rank that has not issued its own, or it
fails with a code (R297, R298). -/
inductive Verdict where
  | go
  | wait
  | fail (fc : Nat)
  deriving DecidableEq, Repr
def State.verdict (s : State) (vf : Nat) (k : PostKey) (n : Nat) : Verdict :=
  let ps := s.stepPosts k
  let others := (ps.filter (fun e => !(e.1 == vf && e.2.key == k))).map Prod.snd
  match others.findSome? Post.fc, (s.ctx vf).posts.find? (fun p => p.key == k) with
  | some fc, _ => .fail fc
  | none, none => .wait
  | none, some p =>
    if others.any (fun q => !p.agrees q) then .fail 0x1D
    else if (s.localRanks k n).all (fun q => others.any (fun p => p.key.rank == q)) then .go
    else .wait

/-- The command that an engine takes next: the copy engine in order, with 8 in flight, and none of a crew that is switched
out; the matrix engine in order for each tile (R247, R279). -/
def State.nextCmd (s : State) (cl : Nat) (copy : Bool) : Option Cmd :=
  let q := s.cluster cl
  if copy then
    let cq := q.cq.filter (fun m => (kvFind s.crews m.cid).any Crew.resident)
    if 8 ≤ (cq.filter (fun m => m.st == .accepted)).length then none else cq.find? (fun m => m.st == .queued)
  else q.mq.find? (fun m => m.st == .queued && !q.mq.any (fun n => decide (n.op < m.op) && n.cid == m.cid && !n.applied &&
    (match n.kind, m.kind with | .mma _ _ x, .mma _ _ y => x == y | _, _ => false)))

/-- COMMAND_ACCEPT (R286). -/
def execCommandAccept (cl : Nat) (copy : Bool) (s : State) : Out :=
  .next (match s.nextCmd cl copy with
    | none => s
    | some m => match kvFind s.crews m.cid with
      | none => s
      | some c => match m.kind with
        | .mma ty _ n => s.acceptMma cl c m ty n
        | .tcopy => (s.accepted m).acceptCopy cl c m
        | .xfer red => (s.accepted m).acceptXfer cl c m red)

/-- FORK_GRANT: a FORK that waits is granted; its operands are those of the instruction it stands at (R245). -/
def execForkGrant (cid team : Nat) (s : State) : Out :=
  .next (match kvFind s.crews cid, s.team? cid team with
    | some c, some tm => match tm.frags with
      | [(fn, th)] => match th.park, Sys2Proof.decode .supervisor (th.clause.getD th.slot 0) with
        | .fork, .ok (.fork a b k) =>
          let r : Nat → Word := fun n => if n = 63 then 0 else (kvGet {} tm.s n).val
          if c.resident && s.forkFits c.cl (r k).toNat (r a) (r b) && c.body.grant.isNone then
            (s.grantFork cid team fn (r k).toNat (r a) (r b)).modThread (.frag cid team fn) (fun th =>
              { th with park := .granted })
          else s
        | _, _ => s
      | _ => s
    | _, _ => s)

/-! ### Tile fetch (R243, R273, R274) -/

/-- Index of an operand's element: A[r][k], or B[k][n]. -/
def mmaIndex (m : Cmd) (isA : Bool) (i k : Nat) : List Nat :=
  if isA then [m.coords.getD 0 0 + k, m.coords.getD 1 0 + i] else [m.coords.getD 2 0 + i, m.coords.getD 3 0 + k]

/-- The in-range elements of one row of A or column of B in K-block j, with their addresses. -/
def rowAddrs (m : Cmd) (r : ShapeRec) (isA : Bool) (j i : Nat) : List (Nat × Option Nat) :=
  ((List.range 32).map (fun t => mmaIndex m isA i (32 * j + t))).filterMap (fun e =>
    if elemIn r e then some (elemAddr r e) else none)

/-- Virtual lines of K-block j in the order of the walk. -/
def blockLines (m : Cmd) (a b : ShapeRec) (j : Nat) : List Nat :=
  let side : ShapeRec → Bool → List Nat := fun r isA => (List.range 128).flatMap (fun i =>
    (rowAddrs m r isA j i).flatMap (fun x => [x.1 / 128, (x.1 + elemSize r.ty - 1) / 128]))
  (side a true ++ side b false).eraseDups

/-- The physical address of a fetched byte, and whether its page is memory-side. -/
def Cmd.phys (m : Cmd) (va : Nat) : Option (Nat × Bool) :=
  (kvFind m.lines (va / 128)).map (fun w => (w / 2 * 128 + va % 128, w % 2 == 1))

/-- The scale byte of a fetched element, as its pinned line carries it; 127 outside every region and on an MS page (R258, R266). -/
def State.mmaScale (s : State) (m : Cmd) (fmt va : Nat) : Option Nat :=
  (m.phys va).map (fun (pa, ms) => if ms || (s.lineFmt (lineOf pa)).isNone then 127 else s.scaleAt fmt pa)

/-- A K-block of a row or column, as far as it is fetched, carries two scale bytes (R261). -/
def State.mixed (s : State) (m : Cmd) (fmt : Nat) (a b : ShapeRec) : Bool :=
  let side : ShapeRec → Bool → Bool := fun r isA => (List.range 128).any (fun i =>
    decide (1 < ((rowAddrs m r isA m.k i).filterMap (fun x => s.mmaScale m fmt x.1)).eraseDups.length))
  side a true || side b false

/-- Tile fetch reads and pins one line, or fails. A swapped page is asked for, so that a later MMA can find it. A line keeps the
scales it is found with while an MMA uses it (R258, R259). -/
def State.fetchLine (s : State) (cl : Nat) (c : Crew) (m : Cmd) (ty : Ty) (i32 : Bool) (n : Nat) (a b : ShapeRec) (line : Nat) :
    State :=
  match s.engAccess c.vf cl (m.ap c) m.pkr .load (128 * line : Nat) 128 with
  | .error (.code fc) => s.failMma cl m n (if fc = 0x08 then 0x08 else 0x16)
  | .error (.wait va sub) =>
    let s1 := if sub = 1 then { s with ladleQ := s.ladleQ ++ [(c.vf, va, s.cyc)] } else s
    s1.failMma cl m n 0x16
  | .error (.pinned _) => s
  | .error (.poisoned _) => s
  | .ok (pa, e, s0) =>
    let pl := lineOf pa
    let ms := pteMs e
    if s0.bad pl then (s0.tell c.vf pl).failMma cl m n 0x1A
    else
      let s1 := s0
      let reg := if ms then none else s1.lineFmt pl
      let meta_ := kvGet ({} : L2Line) s1.l2 pl
      if reg.any (fun r => codeFmt ty != some r) then s1.failMma cl m n 0x23
      else if reg.isSome && meta_.failed then s1.failMma cl m n 0x1A
      else if i32 && reg.isSome && (meta_.scales.getD []).any (fun x => x != 127) then s1.failMma cl m n 0x23
      else
        let m' := { m with lines := kvSet m.lines line (2 * pl + if ms then 1 else 0), flabs := m.flabs ++ [s1.granLab pl] }
        let s2 := { (s1.modCmd cl m.op (fun _ => m')) with pins := pl :: s1.pins }
        if s2.mixed m' ((codeFmt ty).getD 0) a b then s2.failMma cl m' n 0x23 else s2

/-- The next line of the current K-block that has not been fetched. -/
def Cmd.nextLine (m : Cmd) (a b : ShapeRec) : Option Nat :=
  (blockLines m a b m.k).find? (fun l => (kvFind m.lines l).isNone)


/-- TILE_FETCH_LINE (R273). -/
def execTileFetchLine (cl op : Nat) (s : State) : Out :=
  .next (match s.cmd? cl op with
    | none => s
    | some m => match m.kind, m.recs, kvFind s.crews m.cid with
      | .mma ty i32 n, some (a, b), some c =>
        if m.fc.isSome || kBlocks a ≤ m.k || (!m.begun && !s.frinvs.isEmpty) then s
        else match m.nextLine a b with
          | some l => s.fetchLine cl c m ty i32 n a b l
          | none => s
      | _, _, _ => s)

/-! ### Accumulation (R260 to R262, R275) -/

/-- The code of a fetched element. -/
def State.mmaCode (s : State) (m : Cmd) (n : Nat) (x : Nat × Option Nat) : Nat :=
  let byte : Nat → Nat := fun va => match m.phys va with | some (pa, _) => (s.homeByte pa).toNat | none => 0
  let v := (List.range n).foldl (fun v k => v + byte (x.1 + k) * 256 ^ k) 0
  match x.2 with
  | some h => v / 16 ^ h % 16
  | none => v

/-- A row of A or column of B in the current K-block: its codes, none where out of range, and its scale byte. -/
def State.operand (s : State) (m : Cmd) (ty : Ty) (r : ShapeRec) (isA : Bool) (i : Nat) : List (Option Nat) × Nat :=
  let es := (List.range 32).map (fun t => mmaIndex m isA i (32 * m.k + t))
  (es.map (fun e => if elemIn r e then some (s.mmaCode m (elemSize r.ty) (elemAddr r e)) else none),
   ((rowAddrs m r isA m.k i).findSome? (fun x => s.mmaScale m ((codeFmt ty).getD 0) x.1)).getD 127)

def codeFp (ty : Ty) (scale : Nat) : Option Nat → Fp
  | none => .fin false 0 0
  | some c => if scale = 255 then .nan else laneFp ty (BitVec.ofNat 32 c)
def codeInt (ty : Ty) : Option Nat → Int
  | none => 0
  | some c => laneInt ty (BitVec.ofNat 32 c)

/-- The exact sum of a block's products; an exact zero is +0. -/
def blockSum (xs ys : List Fp) : Fp := (xs.zip ys).foldl (fun a e => fpAdd .rn a (fpMul e.1 e.2)) (.fin false 0 0)
def blockInt (xs ys : List Int) : Int := (xs.zip ys).foldl (fun a e => a + e.1 * e.2) 0
def fpScale (k : Int) : Fp → Fp
  | .fin n m e => .fin n m (e + k)
  | x => x

/-- An element after one K-block: one rounding, or one saturation. -/
def accumFp (acc : BitVec 32) (sum : Fp) (k : Int) : BitVec 32 :=
  BitVec.ofNat 32 ((fmtOf .f32).encode .rn (fpAdd .rn ((fmtOf .f32).decode acc.toNat) (fpScale k sum)))
def accumInt (acc : BitVec 32) (sum : Int) : BitVec 32 := BitVec.ofInt 32 (satTo (acc.toInt + sum) (tyLo .i32) (tyHi .i32))

/-- The tile after the current K-block of a command. -/
def State.addBlock (s : State) (m : Cmd) (ty : Ty) (i32 : Bool) (a b : ShapeRec) (t : Tile) : Tile :=
  let rows := (List.range 128).map (s.operand m ty a true)
  let cols := (List.range 128).map (s.operand m ty b false)
  let cf := cols.map (fun y => (y.1.map (codeFp ty y.2), y.2))
  let ci := cols.map (fun y => y.1.map (codeInt ty))
  (rows.zip (List.range 128)).foldl (fun t x =>
    let row := t.elems.filter (fun e => e.1 / 128 == x.2)
    let old : Nat → BitVec 32 := fun c => kvGet 0 row (128 * x.2 + c)
    if i32 then
      let xs := x.1.1.map (codeInt ty)
      t.setRow x.2 (fun c => accumInt (old c) (blockInt xs (ci.getD c [])))
    else
      let xs := x.1.1.map (codeFp ty x.1.2)
      t.setRow x.2 (fun c =>
        let y := cf.getD c ([], 127)
        accumFp (old c) (blockSum xs y.1) ((x.1.2 : Int) + (y.2 : Int) - 254))) t

/-- A context of a cluster's sequencers by its place among them: its crew's, then its FORK's (log 72). -/
def ctxNum (ag : Agent) : Nat := match ag with | .seq cid x => 2 ^ 20 * cid + x + 1 | _ => 0
/-- The next of some contexts after the one last served, round-robin. -/
def roundRobin (last : Nat) (ks : List Nat) : Option Nat :=
  match (ks.filter (fun k => decide (last < k))).min? with
  | some k => some k
  | none => ks.min?
/-- The command whose K-block the array takes next: of those with a fetched block ready, its context's first, the contexts in
turn (R275). -/
def State.arrayNext (s : State) (cl : Nat) : Option Cmd :=
  let q := s.cluster cl
  let ready := q.mq.filter (fun m => m.fc.isNone && match m.recs with
    | some (a, b) => decide (m.k < kBlocks a) && (m.nextLine a b).isNone
    | none => false)
  (roundRobin q.lastBlock (ready.map (fun m => ctxNum m.ag))).bind (fun k => ready.find? (fun m => ctxNum m.ag == k))

/-- MMA_K_BLOCK: the array adds a block whose lines are all fetched, and lines that no later block uses are unpinned. Every
row and column of the block has one scale (R261). The tile's label grows before its elements do; a full label table ends
the MMA (R271, R274). -/
def execMmaKBlock (cl op : Nat) (s : State) : Out :=
  .next (match s.cmd? cl op with
    | none => s
    | some m => match m.kind, m.recs, kvFind s.crews m.cid with
      | .mma ty i32 n, some (a, b), some c =>
        if (s.arrayNext cl).map Cmd.op != some op then s
        else if s.mixed m ((codeFmt ty).getD 0) a b then s.failMma cl m n 0x23
        else match c.body.grant.bind (fun g => g.tiles[n]?) with
          | none => s
          | some t => match joinAllIn (s.ctx c.vf).labels t.lab (m.flabs.eraseDups ++ m.labs) with
            | none => s.failMma cl m n 0x10
            | some (l, tab) =>
              let t' := { s.addBlock m ty i32 a b t with lab := l }
              let later := (List.range (kBlocks a - m.k - 1)).flatMap (fun j => blockLines m a b (m.k + 1 + j))
              let keep := m.lines.filter (fun e => later.contains e.1)
              let gone := m.lines.filter (fun e => !later.contains e.1)
              let s1 := s.modCmd cl op (fun m => { m with k := m.k + 1, lines := keep })
              let s2 : State := { s1 with pins := unpin s1.pins (gone.map (fun (e : Nat × Nat) => e.2 / 2)) }
              ((s2.modCtx c.vf (fun x => { x with labels := tab })).modCluster cl (fun q =>
                { q with lastBlock := ctxNum m.ag })).changeTile m n (fun _ => t')
      | _, _, _ => s)

/-! ### Arrivals (R285, R162) -/

/-- The one arrival of a command on its completion word, or the page that must first be brought up. A word that can no
longer be written, or is poisoned, aborts the cast; a trailing copy's engine makes none in memory. The arrival in the
aperture of a command that the leading copy alone performs is made in both copies' scratchpads (R310). -/
def State.arrive (s : State) (cl : Nat) (m : Cmd) : Except (Nat × Nat) State :=
  match kvFind s.crews m.cid with
  | none => .ok s
  | some c =>
    let va := m.ct.toNat
    if inAperture (m.ap c) (va : Int) 1 then
      let off := va - (m.ap c).1
      let f : State → Nat → State := fun s k => s.modCrew k (fun c => c.modPads m (fun p =>
        (p.put off 4 (bwArrive m.fc (p.nat off 4))).soil off 4))
      .ok (if c.body.pad.poison.contains (padLine off) then s.abortCrew m.cid 0x1A m.ct
        else if m.alone && c.copy == .lead then f (f s m.cid) c.partner else f s m.cid)
    else if c.copy == .trail || m.quiet then .ok s
    else match s.engAccess c.vf cl (m.ap c) m.pkr .atomic (va : Int) 4 with
      | .error (.code fc) => .ok (s.abortCrew m.cid fc m.ct)
      | .error (.wait _ sub) => if sub = 1 then .error (va, 1) else .ok (s.abortCrew m.cid 0x07 m.ct)
      | .error (.pinned _) => .ok s
      | .error (.poisoned _) => .ok s
      | .ok (pa, e, s1) =>
        if s1.bad (lineOf pa) then .ok ((s1.tell c.vf (lineOf pa)).abortCrew m.cid 0x1A m.ct)
        else .ok ((s1.perform c.vf (numBytes pa 4 (bwArrive m.fc (s1.homeNat pa 4))) (pteMs e)).modCrew m.cid (fun c =>
          if c.copy == .lead then c.markDone m else c))

/-- The line of a completion word in memory that a pin or another crew's stash window holds back (R159, R276). -/
def State.ctHeld (s : State) (cl : Nat) (m : Cmd) : Option Nat :=
  match kvFind s.crews m.cid with
  | some c => if inAperture (m.ap c) (m.ct.toNat : Int) 1 || c.copy == .trail || m.quiet then none else
    match s.translate c.vf (some cl) m.ct.toNat with
    | .leaf _ e l =>
      let line := lineOf (s.normPa (pteAddr e l m.ct.toNat))
      if s.storable line then none else some line
    | .absent _ => none
  | none => none

/-- An arrival in memory is a release at .dev, and so a commit point of an unpaired crew (R207, R218, R335); a pair makes its
own before the command (R310). None is made when the commit point or its write-through must wait. -/
def State.arrivalCommits (s : State) (m : Cmd) : Option State :=
  match kvFind s.crews m.cid with
  | none => some s
  | some c =>
    if c.copy != .solo || !c.resident || m.orphan || inAperture (m.ap c) (m.ct.toNat : Int) 1 then some s
    else if s.commitWaits m.cid || s.coreHeld c.cl c.core c.openLines then none
    else if s.areaGone m.cid then some (s.abortCrew m.cid 0x07 0)
    else some ((s.commitNow m.cid).wtCoreOf m.cid)

/-- The end of a command: its arrival, its place in the engine, and what waits for it. -/
def State.completeCmd (s : State) (cl : Nat) (m : Cmd) : State :=
  match s.ctHeld cl m with
  | some l => s.askHolders [l]
  | none => match s.arrivalCommits m with
  | none => s
  | some s0 => match s0.arrive cl m with
    | .error w => s.modCmd cl m.op (fun m => m.await w s.cyc)
    | .ok s1 => (((match m.fc with | some fc => s1.record m.cid 6 (s0.agentTeam m.ag) [BitVec.ofNat 8 fc] | none => s1).dropCmd cl m.op).endGrant m.cid).retireCrew m.cid

/-- Every write of a command has been performed; its arrival is left. -/
def State.finishWrites (s : State) (cl : Nat) (m : Cmd) : State :=
  ((s.modCmd cl m.op (fun _ => { m with written := true })).modCrew m.cid (fun c =>
    if m.alone && c.copy == .lead then c.markDone m else c)).completeCmd cl { m with written := true }

/-- MMA_COMPLETION (R290). -/
def execMmaCompletion (cl op : Nat) (s : State) : Out :=
  .next (match s.cmd? cl op with
    | none => s
    | some m => match m.kind with
      | .mma _ _ _ =>
        if m.st == .accepted && m.applied && m.wants.isNone then s.completeCmd cl m else s
      | _ => s)

/-! ### Reading and writing boxes -/

/-- One byte of a copy's source, with its granule's or line's label: as it is, or, with old, as it was before the copy, in
state s0; a poisoned line ends the copy (R283). The pages used stay recorded whatever stops it (R364). -/
def State.srcByte (s s0 : State) (cl : Nat) (c : Crew) (m : Cmd) (pad old : Bool) (va : Nat) : Except EngErr (Byte × Lbl) × State :=
  if pad then
    let off := va - (m.ap c).1
    (if c.body.pad.size ≤ off then .error (.code 0x06)
      else if (if old then m.bad else c.body.pad.poison).contains (padLine off) then .error (.code 0x1A)
      else .ok (if old then kvGet 0 m.before off else kvGet 0 c.body.pad.bytes off, c.body.pad.lab (padLine off)), s)
  else match s.engAccess c.vf cl (m.ap c) m.pkr .load (va : Int) 1 with
    | .error e => (.error e, s)
    | .ok (pa, _, s1) =>
      (if s1.bad (lineOf pa) then .error (.poisoned (lineOf pa))
        else .ok (if old then s0.homeByte pa else s1.homeByte pa, s1.granLab (lineOf pa)), s1)

def State.srcBytes (s s0 : State) (cl : Nat) (c : Crew) (m : Cmd) (pad old : Bool) (va : Nat) :
    Nat → Except EngErr (List Byte × List Lbl) × State
  | 0 => (.ok ([], []), s)
  | n + 1 =>
    match s.srcByte s0 cl c m pad old va with
    | (.error e, s1) => (.error e, s1)
    | (.ok (b, l), s1) =>
      match s1.srcBytes s0 cl c m pad old (va + 1) n with
      | (.error e, s2) => (.error e, s2)
      | (.ok (bs, ls), s2) => (.ok (b :: bs, l :: ls), s2)

/-- The element of a source at an index: its bytes, an SM4 code in one of them; +0 out of range (R287). Where the copy overlaps
itself the spec leaves open, for each element, whether it is the one from before the copy (R280). -/
def State.srcElem (s s0 : State) (cl : Nat) (c : Crew) (m : Cmd) (r : ShapeRec) (e : List Nat) :
    Except EngErr (List Byte × List Lbl) × State :=
  let n := elemSize r.ty
  if !elemIn r e then (.ok (List.replicate n 0, []), s)
  else
    let (va, nib) := elemAddr r e
    let old := Config.overlapOld (4 * (s0.tick * 2 ^ 64 + va) + (match nib with | some h => h + 1 | none => 0))
    match s.srcBytes s0 cl c m (inAperture (m.ap c) (r.base : Int) 1) old va n with
    | (.error x, s1) => (.error x, s1)
    | (.ok (bs, ls), s1) => (.ok (match nib with
        | some h => bs.map (fun b => BitVec.ofNat 8 (b.toNat / 16 ^ h % 16))
        | none => bs, ls), s1)

/-- The bytes that an element's code writes at a destination address: address, bits written, value. -/
def destBytes (r : ShapeRec) (e : List Nat) (code : List Byte) : List (Nat × Byte × Byte) :=
  let (va, nib) := elemAddr r e
  match nib with
  | some h => [(va, BitVec.ofNat 8 (15 * 16 ^ h), BitVec.ofNat 8 ((code.headD 0).toNat % 16 * 16 ^ h))]
  | none => (List.range code.length).map (fun k => (va + k, 0xFF, code.getD k 0))

def addIdx (a b : List Nat) : List Nat := (List.range 4).map (fun d => a.getD d 0 + b.getD d 0)

/-- What a copy writes to one line of its destination, with the labels of the granules it draws from. -/
def State.copyUnit (s0 : State) (cl : Nat) (c : Crew) (m : Cmd) (a b : ShapeRec) (mine : Nat → Bool) :
    State → List (List Nat) → Except EngErr (List (Nat × Byte × Byte) × List Lbl) × State
  | s, [] => (.ok ([], []), s)
  | s, e :: es =>
    match s.srcElem s0 cl c m a (addIdx m.coords e) with
    | (.error x, s1) => (.error x, s1)
    | (.ok (code, ls), s1) =>
      match copyUnit s0 cl c m a b mine s1 es with
      | (.error x, s2) => (.error x, s2)
      | (.ok (ws, ls'), s2) => (.ok ((destBytes b e code).filter (fun w => mine w.1) ++ ws, ls ++ ls'), s2)

def mergeByte (old mask v : Byte) : Byte := (old &&& ~~~mask) ||| (v &&& mask)

/-! ### Copies into the scratchpad (R281) -/

/-- A load of the crew is held for a scratchpad line. -/
def Body.heldFor (b : Body) (line : Nat) : Bool :=
  b.threads.any (fun th => th.pend.any (fun p => p.held.any (fun h => h.need.contains line)))

/-- A line that enters a crew's scratchpad log without an instruction of it first makes the commit points that the limits of
R334 ask for: its own, and, where its core is full, those of its mates. A leading copy closes its window and waits for the match; a
trailing copy's closes follow its leading copy's (log 20). A line that a load is held for enters all the same, since a commit point
waits for that load (R337, log 62). It answers whether the line may enter now. -/
def State.padRoom (s : State) (cid line : Nat) : Bool × State :=
  match kvFind s.crews cid with
  | none => (true, s)
  | some c =>
    let full : State → Bool := fun s => decide (1024 ≤ s.coreLines c.cl c.core)
    if c.padLog.contains line || c.body.heldFor line || (c.logLines < 512 && !full s) then (true, s)
    else
      let (ok, s1) := if c.logLines = 0 || c.copy == .trail then (true, s)
        else if c.copy == .lead then (false, if c.padLog.isEmpty && c.unc.all (fun u => u.win != c.win) then s else s.forceClose cid)
        else s.commitOther cid
      if !ok then (false, s1)
      else if !full s1 then (true, s1)
      else s1.commitOthers (s1.mates c.cl c.core cid)

def padOf (m : Cmd) (c : Crew) (va : Nat) : Nat := va - (m.ap c).1

/-- In-range elements of a destination that write some byte of a line, given how bytes fall on lines. -/
def unitElems (b : ShapeRec) (mine : Nat → Bool) : List (List Nat) :=
  (boxElems b).filter (fun e => elemIn b e && (mine (elemAddr b e).1 || mine ((elemAddr b e).1 + elemSize b.ty - 1)))

def Pad.arriveLine (p : Pad) (line : Nat) (lab : Lbl) (ws : List (Nat × Byte × Byte)) : Pad :=
  { p with bytes := ws.foldl (fun m w => kvPut 0 m w.1 (mergeByte (kvGet 0 m w.1) w.2.1 w.2.2)) p.bytes
           labs := kvSet p.labs line lab, absent := dropAll p.absent line, failed := dropAll p.failed line }

/-- SCRATCHPAD_LINE_ARRIVAL. The line enters the scratchpad log, and the loads held for it have their bytes (R155, R333). -/
def execScratchpadLineArrival (cl op line : Nat) (s : State) : Out :=
  .next (match s.cmd? cl op with
    | none => s
    | some m => match m.kind, m.recs, kvFind s.crews m.cid with
      | .tcopy, some (a, b), some c =>
        if m.fc.isSome || m.wants.isSome || !m.todo.contains line then s
        else
          let mine : Nat → Bool := fun va => decide ((m.ap c).1 ≤ va) && padLine (padOf m c va) == line
          match State.copyUnit s cl c m a b mine s (unitElems b mine) with
          | (.error (.wait va sub), s1) => s1.modCmd cl op (fun m => m.await (va, sub) s.cyc)
          | (.error (.code fc), s1) => s1.modCmd cl op (fun m => { m with fc := some fc })
          | (.error (.poisoned l), s1) => (s1.tell c.vf l).modCmd cl op (fun m => { m with fc := some 0x1A })
          | (.error (.pinned _), s1) => s1
          | (.ok (ws, ls), s1) =>
            let whole := (List.range 128).all (fun k => ((ws.filter (fun w => padOf m c w.1 == 128 * line + k)).foldl
              (fun x w => x ||| w.2.1) (0 : Byte)) == 0xFF)
            let old := if whole then [] else [c.body.pad.lab line]
            match joinAllIn (s1.ctx c.vf).labels 0 (ls.eraseDups ++ [m.pcl] ++ old) with
            | none => s1.modCmd cl op (fun m => { m with fc := some 0x10 })
            | some (l, tab) => match s1.padRoom m.cid line with
              | (false, s2) => s.uncharged s2
              | (true, s2) =>
                let s3 := (s2.modCmd cl op (fun m => { m with todo := dropAll m.todo line })).modCtx c.vf (fun x =>
                  { x with labels := tab })
                if m.orphan then s3
                else (s3.modCrew m.cid (fun c =>
                  let c1 := c.modPads m (fun p => (p.arriveLine line l (ws.map (fun w => (padOf m c w.1, w.2)))).cure
                    (if whole then [line] else []))
                  { c1 with body := c1.body.feed line, padLog := addOnce c.padLog line })).l1Trim c.cl c.core
      | _, _, _ => s)

/-! ### Copies into memory (R282) -/

/-- Virtual lines of a destination in memory, in the order of its elements. -/
def memLines (b : ShapeRec) : List Nat :=
  (((boxElems b).filter (elemIn b)).flatMap (fun e =>
    [(elemAddr b e).1 / 128, ((elemAddr b e).1 + elemSize b.ty - 1) / 128])).eraseDups

/-- The bytes of one granule of a destination are checked and written; the page used stays recorded where its label refuses
them (R364). -/
def State.putGranule (s : State) (cl : Nat) (c : Crew) (m : Cmd) (labs : List Lbl) (ws : List (Nat × Byte × Byte)) :
    Except EngErr Unit × State :=
  let lo := (ws.map Prod.fst).foldl min ((ws.head?.map Prod.fst).getD 0)
  let hi := (ws.map Prod.fst).foldl max 0
  match s.engAccess c.vf cl (m.ap c) m.pkr .store (lo : Int) (hi + 1 - lo) with
  | .error e => (.error e, s)
  | .ok (pa, e, s1) =>
    match joinAllIn (s1.ctx c.vf).labels 0 labs.eraseDups with
    | none => (.error (.code 0x10), s1)
    | some (l, tab) =>
      let s2 := s1.modCtx c.vf (fun x => { x with labels := tab })
      if !(s2.ctx c.vf).dominates (s1.granLab (lineOf pa)) l then (.error (.code 0x0A), s2)
      else if !s1.storable (lineOf pa) then (.error (.pinned (lineOf pa)), s)
      else
        let bs := ws.foldl (fun acc w =>
          let q := pa + (w.1 - lo)
          kvSet acc q (mergeByte ((kvFind acc q).getD (s1.homeByte q)) w.2.1 w.2.2)) []
        (.ok (), s2.perform c.vf bs (pteMs e))

/-- The granules of a destination in turn: what an error stops, and the state it leaves (R283). -/
def State.copyLines (s0 : State) (cl : Nat) (c : Crew) (m : Cmd) (a b : ShapeRec) : State → List Nat → Option EngErr × State
  | s, [] => (none, s)
  | s, l :: ls =>
    let mine : Nat → Bool := fun va => va / 128 == l
    match State.copyUnit s0 cl c m a b mine s (unitElems b mine) with
    | (.error e, s1) => (some e, s1)
    | (.ok (ws, labs), s1) =>
      match s1.putGranule cl c m (labs ++ m.labs) ws with
      | (.error e, s2) => (some e, s2)
      | (.ok _, s2) => copyLines s0 cl c m a b s2 ls

/-- A destination in the scratchpad has an element beyond the crew's bytes (R287). -/
def pastPad (ap : Nat × Nat) (b : ShapeRec) : Bool :=
  (boxElems b).any (fun e => elemIn b e && decide (ap.1 + ap.2 < (elemAddr b e).1 + elemSize b.ty))

/-- COPY_COMPLETION: a copy into memory is made here whole; one into the scratchpad ends when every line has arrived or an
error has stopped it (R283). -/
def execCopyCompletion (cl op : Nat) (s : State) : Out :=
  .next (match s.cmd? cl op with
    | none => s
    | some m => match m.kind, kvFind s.crews m.cid with
      | .tcopy, some c =>
        if m.st != .accepted || m.wants.isSome then s
        else if m.written then s.completeCmd cl m
        else match m.fc, m.recs with
          | none, some (a, b) =>
            if inAperture (m.ap c) (b.base : Int) 1 then
              if m.todo.isEmpty then s.finishWrites cl { m with fc := if pastPad (m.ap c) b then some 0x06 else none } else s
            else match State.copyLines s cl c m a b s (memLines b) with
              | (some (.wait va sub), _) => s.modCmd cl op (fun m => m.await (va, sub) s.cyc)
              | (some (.pinned l), _) => s.askHolders [l]
              | (some (.code fc), s1) => s1.finishWrites cl { m with fc := some fc }
              | (some (.poisoned l), s1) => (s1.tell c.vf l).finishWrites cl { m with fc := some 0x1A }
              | (none, s1) => s1.finishWrites cl m
          | some _, _ => (s.modCrew m.cid (fun c => c.failLines m m.todo)).finishWrites cl m
          | none, none => s
      | _, _ => s)

/-! ### Collectives (R264, R296 to R299, R380 to R386) -/

/-- The reduce operator on one element (R264). -/
def redElem (ty : Ty) (op a b : Nat) : Nat :=
  let w := tyWidth ty
  if isFloatTy ty then
    let k := fmtOf ty
    let x := k.decode a
    let y := k.decode b
    if x = .nan ∨ y = .nan then k.nanBits
    else match op with
      | 0 => k.encode .rn (fpAdd .rn x y)
      | 1 => fpMinMax k false a b
      | _ => fpMinMax k true a b
  else
    let lt := decide (laneInt ty (BitVec.ofNat 32 a) < laneInt ty (BitVec.ofNat 32 b))
    match op with
    | 0 => (a + b) % 2 ^ w
    | 1 => if lt then a else b
    | 2 => if lt then b else a
    | 3 => a &&& b
    | 4 => a ||| b
    | _ => a ^^^ b

def bytesNat (bs : List Byte) : Nat := bs.foldr (fun b v => b.toNat + 256 * v) 0
def chunk (n i : Nat) (bs : List Byte) : List Byte := (bs.drop (n * i)).take n

/-- Left fold of the contributions in ascending rank, element by element. -/
def redBytes (ty : Ty) (op : Nat) (xs ys : List Byte) : List Byte :=
  let n := tySize ty
  (List.range (xs.length / n)).flatMap (fun i =>
    leField n (redElem ty op (bytesNat (chunk n i xs)) (bytesNat (chunk n i ys))))

/-- What every rank receives: destination index and code of each element (R297). -/
def xferElems (red : Bool) (b : ShapeRec) (cs : List (List Byte)) : List (List Nat × List Byte) :=
  let n := elemSize b.ty
  let es := boxElems b
  let place : Nat → List Byte → List (List Nat × List Byte) := fun j bs =>
    (es.zip (List.range es.length)).map (fun e => (addIdx e.1 [j * b.box.getD 0 0], chunk n e.2 bs))
  if red then
    match cs, tyOf (BitVec.ofNat 4 b.ty) with
    | x :: rest, some ty => place 0 (rest.foldl (redBytes ty b.op) x)
    | _, _ => []
  else (cs.zip (List.range cs.length)).flatMap (fun e => place e.2 e.1)

def contribBytes (a : ShapeRec) : Nat := (boxElems a).length * elemSize a.ty
/-- A step of at most 4 KiB a rank is eager (R384). -/
def eager (a : ShapeRec) : Bool := decide (contribBytes a ≤ 4096)

/-- The whole of this rank's contribution with the labels of its granules. -/
def State.ownBox (cl : Nat) (c : Crew) (m : Cmd) (a : ShapeRec) : State → List (List Nat) →
    Except EngErr (List Byte × List Lbl) × State
  | s, [] => (.ok ([], []), s)
  | s, e :: es =>
    match s.srcElem s cl c m a (addIdx m.coords e) with
    | (.error x, s1) => (.error x, s1)
    | (.ok (bs, ls), s1) =>
      match ownBox cl c m a s1 es with
      | (.error x, s2) => (.error x, s2)
      | (.ok (bs', ls'), s2) => (.ok (bs ++ bs', ls ++ ls'), s2)

def State.modHandle (s : State) (vf h : Nat) (f : Handle → Handle) : State :=
  s.modCtx vf (fun c => { c with handles := kvModify c.handles h f })

/-- Other ranks of a step. -/
def otherRanks (b : ShapeRec) : List Nat := (List.range (gridSize b)).filter (fun q => q != myRank b)

/-! ### Eager slots (R384) -/

/-- Where one of a rank's 8 slots lies in a handle's blocks: 32 KiB for each other rank, in their order (log 44). -/
def State.slotAddr (s : State) (vf : Nat) (h : Handle) (peer n : Nat) : Option Nat :=
  let me_ := h.reg.ranks.findIdx (fun r => s.fabricId == some r.1 && r.2 == vf)
  let ofs := 32768 * (if peer < me_ then peer else peer - 1) + 4096 * (n % 8)
  s.poolAddr vf (careaBase (s.ctx vf) + 2 ^ 22 * h.blocks.getD (ofs / 2 ^ 22) 0 + ofs % 2 ^ 22)

/-- A slot's granules have the handle's label. -/
def State.labelSlot (s : State) (h : Handle) (pa : Nat) : State :=
  { s with gran := (List.range 32).foldl (fun g k => kvPut 0 g (lineOf pa + k) h.lab) s.gran }

/-- A rank writes into the next of its slots at a receiver, whose page must be there. -/
def State.slotWrite (s : State) (vf handle peer : Nat) (data : List Byte) : Option State :=
  match s.handle? vf handle with
  | none => none
  | some h =>
    let q := kvGet [] h.inbox peer
    (s.slotAddr vf h peer (kvGet 0 h.moved peer + q.length)).map (fun pa =>
      ((s.writeHome vf (zipAddr pa data)).labelSlot h pa).modHandle vf handle (fun h =>
        { h with inbox := kvSet h.inbox peer (q ++ [data.length]) }))

/-- The oldest data that a rank has left in its slots here: none, or their bytes, or poison, or no page. -/
inductive SlotData where
  | empty
  | bytes (bs : List Byte)
  | bad
  | gone
def State.slotData (s : State) (vf : Nat) (h : Handle) (peer : Nat) : SlotData :=
  match kvGet [] h.inbox peer with
  | [] => .empty
  | n :: _ => match s.slotAddr vf h peer (kvGet 0 h.moved peer) with
    | none => .gone
    | some pa =>
      if (List.range ((n + 127) / 128)).any (fun k => s.bad (lineOf pa + k)) then .bad
      else .bytes ((List.range n).map (fun k => s.homeByte (pa + k)))

/-- A notice that a receiver has emptied slots, by its head count since the handle was registered. -/
def Handle.noticed (h : Handle) (peer head : Nat) : Handle :=
  let told := kvGet 0 h.freed peer
  if told ≤ head && head ≤ told + kvGet 0 h.used peer then
    { h with used := kvSet h.used peer (kvGet 0 h.used peer - (head - told)), freed := kvSet h.freed peer head }
  else h

/-- The VF of a rank of this module. -/
def Handle.vfOf (h : Handle) (rank : Nat) : Nat := ((h.reg.ranks[rank]?).map Prod.snd).getD 0

/-! ### Exchanges (R297, R298, R380, R385) -/

/-- A step of a crew that is switched out waits for it (R299). -/
def State.xferCmd (s : State) (cl op : Nat) : Option (Cmd × Bool × ShapeRec × ShapeRec × Crew) :=
  match s.cmd? cl op with
  | some m => match m.kind, m.recs, kvFind s.crews m.cid with
    | .xfer red, some (a, b), some c => if c.resident then some (m, red, a, b, c) else none
    | _, _, _ => none
  | none => none

/-- The command of another rank of this module in a step, with its cluster. -/
def State.rankCmd (s : State) (k : PostKey) (rank : Nat) : Option (Nat × Cmd) :=
  s.clusters.findSome? (fun e => (e.2.cq.find? (fun m => m.post == some { k with rank := rank })).map (fun m => (e.1, m)))

/-- What an engine's error does to a step. -/
def State.xferErr (s : State) (cl : Nat) (c : Crew) (m : Cmd) : EngErr → State
  | .wait va sub => s.modCmd cl m.op (fun m => m.await (va, sub) s.cyc)
  | .code fc => s.failXfer cl c.vf m fc
  | .poisoned l => (s.tell c.vf l).failXfer cl c.vf m 0x1A
  | .pinned _ => s

/-- The receiver of a larger step forms its message from the owners of every granule of its destination (R385). -/
def State.destOwners (cl : Nat) (c : Crew) (m : Cmd) : State → List Nat → Except EngErr (BitVec 64) × State
  | s, [] => (.ok (BitVec.allOnes 64), s)
  | s, l :: ls =>
    match s.engAccess c.vf cl (m.ap c) m.pkr .store (128 * l : Nat) 1 with
    | .error e => (.error e, s)
    | .ok (pa, _, s1) => match destOwners cl c m s1 ls with
      | (.error e, s2) => (.error e, s2)
      | (.ok o, s2) => (.ok (o &&& (s2.ctx c.vf).owners (s2.granLab (lineOf pa))), s2)
/-- Virtual lines that a step's result falls on. -/
def resultLines (red : Bool) (b : ShapeRec) : List Nat :=
  let n := if red then 1 else (contributors b).length
  ((List.range n).flatMap (fun j => ((boxElems b).map (fun e => addIdx e [j * b.box.getD 0 0])).filter (elemIn b) |>.flatMap (fun e =>
    [(elemAddr b e).1 / 128, ((elemAddr b e).1 + elemSize b.ty - 1) / 128]))).eraseDups
def State.formReady (s : State) (cl : Nat) (c : Crew) (m : Cmd) (red : Bool) (b : ShapeRec) : State :=
  match State.destOwners cl c m s (resultLines red b) with
  | (.error e, s1) => s1.xferErr cl c m e
  | (.ok o, s1) => s1.modCmd cl m.op (fun m => { m with ready := some (b.base, o) })

/-- The owners of this rank's contribution. -/
def State.contribOwners (s : State) (vf : Nat) (m : Cmd) (ls : List Lbl) : BitVec 64 :=
  (ls ++ m.labs).foldl (fun o l => o ||| (s.ctx vf).owners l) 0

/-- An eager contribution enters a slot at each rank of this module; a receiver whose page is gone loses its cast (R326). -/
def State.sendEager (s : State) (h : Handle) (k : PostKey) (handle rank : Nat) (bs : List Byte) (rs : List Nat) : State :=
  rs.foldl (fun s q => match s.slotWrite (h.vfOf q) handle rank bs with
    | some s1 => s1
    | none => match s.rankCmd k q with
      | some (_, m) => s.abortCrew m.cid 0x07 0
      | none => s) s

/-- This rank reads its contribution, under the flow check against the handle; an eager one takes a slot at each peer, and
waits while some peer has none free (R298, R384). -/
def State.contribute (s : State) (cl : Nat) (c : Crew) (m : Cmd) (k : PostKey) (a b : ShapeRec) (h : Handle) : State :=
  let me_ := myRank b
  if (kvFind m.contrib me_).isSome || !(contributors b).contains me_ then s
  else if eager a && (otherRanks b).any (fun q => decide (8 ≤ kvGet 0 h.used q)) then s
  else match State.ownBox cl c m a s (boxElems a) with
    | (.error e, s1) => s1.xferErr cl c m e
    | (.ok (bs, ls), s1) =>
      if s1.contribOwners c.vf m ls &&& ~~~((s1.ctx c.vf).owners h.lab) != 0 then s1.failXfer cl c.vf m 0x0C
      else
        let s2 := s1.modCmd cl m.op (fun m => { m with contrib := kvSet m.contrib me_ bs, flabs := ls.eraseDups })
        if eager a then (s2.modHandle c.vf b.handle (fun h => { h with
          used := (otherRanks b).foldl (fun u q => kvSet u q (kvGet 0 u q + 1)) h.used })).sendEager h k b.handle me_ bs
            (s.localRanks k (gridSize b))
        else s2

/-- Data that a rank has left in its slot here are moved, and the slot is free again; a rank of this module is told at once, one
elsewhere by the notice that goes back to it (R384). -/
def State.moveSlot (s : State) (cl : Nat) (c : Crew) (m : Cmd) (a b : ShapeRec) (h : Handle) (rank : Nat) (near : Bool) : State :=
  let have_ := kvGet [] m.contrib rank
  match s.slotData c.vf h rank with
  | .empty => s
  | .gone => s.abortCrew m.cid 0x07 0
  | .bad => s.failXfer cl c.vf m 0x1A
  | .bytes bs =>
    let head := kvGet 0 h.moved rank + 1
    let s1 := (s.modCmd cl m.op (fun m => { m with contrib := kvSet m.contrib rank (have_ ++ bs.take (contribBytes a - have_.length)) })).modHandle
      c.vf b.handle (fun h => { h with inbox := kvSet h.inbox rank ((kvGet [] h.inbox rank).drop 1), moved := kvSet h.moved rank head })
    if near then s1.modHandle (h.vfOf rank) b.handle (fun h => h.noticed (myRank b) head) else s1

/-- The part of a larger contribution that moves at once: a chunk (R380). -/
def addChunk (m : Cmd) (a : ShapeRec) (rank : Nat) (data : List Byte) : Cmd :=
  let have_ := kvGet [] m.contrib rank
  { m with contrib := kvSet m.contrib rank (have_ ++ data.take (min (contribBytes a - have_.length) 65536)) }

/-- A chunk comes from a rank of this module. One whose label the message of this rank's destination does not admit is not sent: its
step fails there (R385). -/
def State.takeNear (s : State) (cl : Nat) (c : Crew) (m : Cmd) (k : PostKey) (a b : ShapeRec) (h : Handle) (rank : Nat) : State :=
  let want := contribBytes a - (kvGet [] m.contrib rank).length
  if !(contributors b).contains rank || want = 0 then s
  else if eager a then s.moveSlot cl c m a b h rank true
  else match m.ready, s.rankCmd k rank with
    | some (_, admits), some (cl', x) => match kvFind x.contrib rank with
      | none => s
      | some bs =>
        if s.contribOwners (h.vfOf rank) x x.flabs &&& ~~~admits != 0 then s.failXfer cl' (h.vfOf rank) x 0x0C
        else
          let m' := addChunk m a rank (bs.drop (kvGet [] m.contrib rank).length)
          let s1 := s.modCmd cl m.op (fun _ => m')
          if contribBytes a ≤ (kvGet [] m'.contrib rank).length then s1.modCmd cl' x.op (fun x => { x with sent := addOnce x.sent k.rank })
          else s1
    | _, _ => s

/-- A chunk comes from another module: an eager one from its slot, a larger one once this rank's message has gone (R380, R384,
R385). -/
def State.takeFar (s : State) (cl : Nat) (c : Crew) (m : Cmd) (a b : ShapeRec) (h : Handle) (rank : Nat) (data : List Byte) : State :=
  let s0 := s.modCmd cl m.op (fun m => { m with heard := addOnce m.heard rank })
  let m := { m with heard := addOnce m.heard rank }
  if !(contributors b).contains rank || contribBytes a ≤ (kvGet [] m.contrib rank).length then s0
  else if eager a then s0.moveSlot cl c m a b h rank false
  else if m.ready.isNone then s
  else s0.modCmd cl m.op (fun m => addChunk m a rank data)

/-- A packet of a group comes from a rank that the handle lists, under its job key (R383). -/
def Handle.lists (h : Handle) (who : RankMsg) : Bool :=
  who.jobkey == h.reg.jobkey && h.reg.ranks[who.rank]? == some (who.fab, who.pvf)

/-- XFER_CHUNK: something of a step moves between this rank and the rank that the event names, or, where it names this rank, this rank
sends its message and reads its contribution. The first exchange compares the ranks' commands (R297); a packet that the handle does not
list is refused (R383), and a reduction waits for the switch's answer, which fixes its algorithm (R386). -/
def execXferChunk (cl op : Nat) (who : RankMsg) (data : List Byte) (s : State) : Out :=
  .next (match s.xferCmd cl op with
    | some (m, red, a, b, c) =>
      if m.fc.isSome || m.wants.isSome || s.fabricId.isNone || gridSize b ≤ who.rank then s
      else match m.post, s.handle? c.vf b.handle with
        | some k, some h => match s.verdict c.vf k (gridSize b) with
          | .fail fc => s.failXfer cl c.vf m fc
          | .wait => s
          | .go =>
            if !h.lists who then s.failXfer cl c.vf m 0x1D
            else if who.fc != 0 && s.fabricId != some who.fab then s.failXfer cl c.vf m (who.fc % 64)
            else if red && ((s.ctx c.vf).posts.any (fun p => p.key == k && p.slot.isNone)) then s
            else if who.rank = myRank b then
              (if !eager a && m.ready.isNone then s.formReady cl c m red b else s.contribute cl c m k a b h)
            else if s.fabricId == some who.fab then s.takeNear cl c m k a b h who.rank
            else s.takeFar cl c m a b h who.rank data
        | _, _ => s.failXfer cl c.vf m 0x1D
    | none => s)

/-- READY_TO_RECEIVE: the receiver of a larger step on another module names its destination and the owners that this admits; a
contribution that they do not dominate is not sent (R385). -/
def execReadyToReceive (cl op : Nat) (who : RankMsg) (dest : Nat) (owners : BitVec 64) (s : State) : Out :=
  .next (match s.xferCmd cl op with
    | some (m, _, a, b, c) =>
      if m.fc.isSome || eager a || gridSize b ≤ who.rank || s.fabricId.isNone || s.fabricId == some who.fab || 2 ^ 64 ≤ dest ||
        (kvFind m.contrib (myRank b)).isNone then s
      else if !(s.handle? c.vf b.handle).any (fun h => h.lists who) then s.failXfer cl c.vf m 0x1D
      else if s.contribOwners c.vf m m.flabs &&& ~~~owners != 0 then s.failXfer cl c.vf m 0x0C
      else s.modCmd cl op (fun m => { m with sent := addOnce m.sent who.rank })
    | none => s)

/-- Every rank's part is here, this rank's has been read and taken, and every rank's command has been compared: those of this module by
their posts, the others' as they were heard. -/
def Cmd.complete (m : Cmd) (near : List Nat) (a b : ShapeRec) : Bool :=
  (contributors b).all (fun q => decide (contribBytes a ≤ (kvGet [] m.contrib q).length)) &&
    (eager a || !(contributors b).contains (myRank b) || (otherRanks b).all m.sent.contains) &&
    (otherRanks b).all (fun q => near.contains q || m.heard.contains q)

/-- The granules that a step's elements fall on, with what it writes to each. -/
def xferUnits (b : ShapeRec) (es : List (List Nat × List Byte)) : List (List (Nat × Byte × Byte)) :=
  let ws := (es.filter (fun e => elemIn b e.1)).flatMap (fun e => destBytes b e.1 e.2)
  ((ws.map (fun w => w.1 / 128)).eraseDups).map (fun l => ws.filter (fun w => w.1 / 128 == l))

/-- Writes granules of a destination under the handle's label; the first failure stops it. -/
def State.xferPut (cl : Nat) (c : Crew) (m : Cmd) (lab : Lbl) : State → List (List (Nat × Byte × Byte)) → Option EngErr × State
  | s, [] => (none, s)
  | s, u :: us =>
    match s.putGranule cl c m [lab] u with
    | (.error e, s1) => (some e, s1)
    | (.ok _, s1) => xferPut cl c m lab s1 us

/-- The granules of a failed step's destination that it may write take what it has chosen to write of them (R298). -/
def State.xferSpoil (cl : Nat) (c : Crew) (m : Cmd) (lab : Lbl) (s : State) (us : List (List (Nat × Byte × Byte))) : State :=
  us.foldl (fun s u => (s.putGranule cl c m [lab] u).2) s

/-- The contribution of a rank to a step that failed, as far as the step has it: what has come, this rank's own box, and what a rank of
this module has read. -/
def State.knownPart (s : State) (cl : Nat) (c : Crew) (m : Cmd) (a b : ShapeRec) (rank : Nat) : List Byte :=
  let got := kvGet [] m.contrib rank
  if contribBytes a ≤ got.length then got
  else if rank = myRank b then (match State.ownBox cl c m a s (boxElems a) with | (.ok (bs, _), _) => bs | (.error _, _) => got)
  else match m.post.bind (fun k => s.rankCmd k rank) with
    | some (_, x) => (kvFind x.contrib rank).getD got
    | none => got
/-- The contributions of a step that failed: free values stand for what is not here (R298, log 9). -/
def State.failedContribs (s : State) (cl : Nat) (c : Crew) (m : Cmd) (a b : ShapeRec) : List (List Byte) :=
  (contributors b).map (fun q =>
    let got := s.knownPart cl c m a b q
    got ++ (List.range (contribBytes a - got.length)).map (fun k =>
      Config.failedStepByte ((s.tick * 2 ^ 64 + q) * 2 ^ 64 + got.length + k)))
/-- The elements that a failed step writes: each of its destination either keeps its old contents or takes the value that the
step would have written there; which, the spec leaves open (R298). -/
def State.failedElems (s : State) (cl : Nat) (c : Crew) (m : Cmd) (red : Bool) (a b : ShapeRec) : List (List Nat × List Byte) :=
  let es := xferElems red b (s.failedContribs cl c m a b)
  ((es.zip (List.range es.length)).filter (fun e => !Config.failedKeeps (s.tick * 2 ^ 64 + e.2))).map Prod.fst

/-- XFER_STEP_COMPLETION (R298). One that was refused at acceptance has no destination. -/
def execXferStepCompletion (cl op : Nat) (s : State) : Out :=
  .next (match s.cmd? cl op, s.xferCmd cl op with
    | some m, none => match m.kind with
      | .xfer _ => if m.fc.isSome && m.recs.isNone && m.wants.isNone then s.finishWrites cl m else s
      | _ => s
    | _, some (m, red, a, b, c) =>
      let lab := match s.handle? c.vf b.handle with | some h => h.lab | none => 0
      if m.wants.isSome then s
      else if m.written then s.completeCmd cl m
      else if m.fc.isSome then
        (State.xferSpoil cl c m lab s (xferUnits b (s.failedElems cl c m red a b))).finishWrites cl m
      else match m.post with
        | none => s
        | some k => match s.verdict c.vf k (gridSize b) with
          | .fail fc => s.failXfer cl c.vf m fc
          | .wait => s
          | .go =>
            if !m.complete (s.localRanks k (gridSize b)) a b then s
            else match State.xferPut cl c m lab s (xferUnits b (xferElems red b ((contributors b).map (kvGet [] m.contrib)))) with
              | (none, s1) => s1.finishWrites cl m
              | (some (.wait va sub), _) => s.modCmd cl op (fun m => m.await (va, sub) s.cyc)
              | (some (.pinned l), _) => s.askHolders [l]
              | (some (.poisoned _), _) => s
              | (some (.code fc), s1) => s1.failXfer cl c.vf m (if fc = 0x0A then 0x0C else fc)
    | none, none => s)

/-- A packet that a handle refuses ends the steps that its context has running there (R383). -/
def State.refusePacket (s : State) (vf handle : Nat) : State :=
  s.clusters.foldl (fun s e => (e.2.cq.filter (fun m => m.fc.isNone && m.st == .accepted && !m.written &&
    m.recs.any (fun r => r.2.handle == handle) && m.post.isSome && (kvFind s.crews m.cid).any (fun c => c.vf == vf))).foldl
      (fun s m => s.failXfer e.1 vf m 0x1D) s) s

/-- EAGER_SLOT_WRITE: a rank of another module writes one of its 8 slots here; the event cannot occur while all are in use (R384). -/
def execEagerSlotWrite (vf handle : Nat) (who : RankMsg) (data : List Byte) (s : State) : Out :=
  .next (match s.handle? vf handle with
    | some h =>
      if s.fabricId.isNone || s.fabricId == some who.fab then s
      else if !h.lists who then s.refusePacket vf handle
      else if (kvGet [] h.inbox who.rank).length < 8 && data.length ≤ 4096 then (s.slotWrite vf handle who.rank data).getD s
      else s
    | none => s)

/-- SLOT_RELEASE_NOTICE: head counts the slots that a rank of another module has emptied since the handle was registered (R384). -/
def execSlotReleaseNotice (vf handle : Nat) (who : RankMsg) (head : Nat) (s : State) : Out :=
  .next (match s.handle? vf handle with
    | some h =>
      if s.fabricId.isNone || s.fabricId == some who.fab then s
      else if !h.lists who then s.refusePacket vf handle
      else s.modHandle vf handle (fun h => h.noticed who.rank head)
    | none => s)

/-- A context's oldest reduction on a handle that is under way and has no answer yet. -/
def State.asking (s : State) (vf handle : Nat) : Option PostKey :=
  ((s.ctx vf).posts.find? (fun p => p.handle == handle && p.red && p.slot.isNone && p.fc.isNone &&
    s.clusters.any (fun e => e.2.cq.any (fun m => m.post == some p.key && (kvFind s.crews m.cid).any (fun c => c.vf == vf))))).map Post.key

/-- REDUCTION_SLOT_REQUEST: at the first exchange of a reduction rank 0 asks the switch, and the switch answers for the whole
collective; it grants while fewer than its 64 slots were in use when the request arrived (R386). Where rank 0 is a virtual function of
this module, its own request alone is answered; else the answer comes from the switch with the context that hears it. -/
def execReductionSlotRequest (vf handle inUse : Nat) (s : State) : Out :=
  .next (match s.asking vf handle with
    | none => s
    | some k =>
      if k.rank != 0 && (k.ranks[0]?).any (fun r => s.fabricId == some r.1) then s
      else (s.stepPosts k).foldl (fun s e => s.modPost e.1 e.2.key (fun p => { p with slot := some (decide (inUse < 64)) })) s)

end Sys2Proof.Machine
end

