-- ==== Sys2Proof/Machine/Ladle.lean ====
section
/-! DEFINITION. Frames and pages: the free pool (R368), evictions (R321, R322), the mapping of a zeroed page (R330, R392), the
Ladle's swaps of a page to a tier and back (R364, R375), room made for a mapping (R331), partitions (R369), the swap-downs of a
switch (R374), and the order in which the Ladle serves what waits for it (R376). -/

namespace Sys2Proof.Machine

/-! ### Frames -/

def frameBytes64K : Nat := 65536
def inFrame (f pa : Nat) : Bool := decide (f ≤ pa) && decide (pa < f + frameBytes64K)
def lineInFrame (f l : Nat) : Bool := l / 512 == f / 65536

/-- A frame filled with zeroes, every granule public, no line of it poisoned or held in L2. -/
def State.zeroFrame (s : State) (f : Nat) : State :=
  { s with hbm := s.hbm.filter (fun e => !inFrame f e.1), gran := s.gran.filter (fun e => !lineInFrame f e.1)
           origin := s.origin.filter (fun e => !inFrame f e.1), areas := kvDel s.areas (f / 65536), areaMem := s.areaMem.filter (fun e => !inFrame f e.1)
           poison := s.poison.filter (fun l => !lineInFrame f l), l2 := s.l2.filter (fun e => !lineInFrame f e.1) }

/-- The management interrupt when a pool falls below its low mark (R368). -/
def State.lowMark (s : State) (vf : Nat) (before : Nat) : State :=
  let c := s.ctx vf
  if c.pool.length < c.poolLow && c.poolLow ≤ before then
    { s with mgmtIrq := addOnce s.mgmtIrq vf, hostLog := s.hostLog ++ [.poolLow vf] } else s

/-- Takes the n frames at the head of a context's pool: zeroed, and held by the VF from now on. -/
def State.takeFrames (s : State) (vf n : Nat) : List Nat × State :=
  let c := s.ctx vf
  let fs := c.pool.take n
  let s1 := fs.foldl State.zeroFrame s
  (fs, (s1.modCtx vf (fun c => { c with pool := c.pool.drop n, frames := c.frames ++ fs })).lowMark vf c.pool.length)

/-! ### Evictions -/

/-- Crews that hold uncommitted data of some physical lines, in their L1 or on stash lines. -/
def State.uncHolders (s : State) (p : Nat → Bool) : List Nat := (s.crews.filter (fun e => e.2.openLines.any p)).map Prod.fst

def L1.dropLines (l : L1) (p : Nat → Bool) : L1 :=
  { l with clean := l.clean.filter (fun e => !p e.1), tags := l.tags.filter (fun e => !p e.1) }

/-- The cores that hold committed some of the lines that a test names, with those lines. -/
def State.writersOf (s : State) (p : Nat → Bool) : List (Nat × Nat × List Nat) :=
  s.clusters.flatMap (fun e => e.2.l1s.map (fun x => (e.1, x.1, (kvKeys x.2.writers).filter p)))

/-- Every copy of some physical lines leaves the L1s; crews that hold uncommitted data of them commit first, and what stands
committed there is written through. The second part is what has been asked for while that must wait (R321, R357). -/
def State.evictLines (s : State) (p : Nat → Bool) : Bool × State :=
  match s.commitOthers (s.uncHolders p) with
  | (false, s1) => (false, s1)
  | (true, s1) =>
    let ws := s1.writersOf p
    if !ws.all (fun w => s1.wtReady w.1 w.2.1 w.2.2) then (false, s1.askHolders (ws.flatMap (fun w => s1.wtWith w.1 w.2.1 w.2.2)))
    else (true, ws.foldl (fun s w => (s.wtLines w.1 w.2.1 w.2.2).modL1 w.1 w.2.1 (fun l => l.dropLines p)) s1)

/-- Stash copies of lines go too. -/
def State.evictStash (s : State) (p : Nat → Bool) : State :=
  ((s.crews.flatMap (fun e => (kvVals e.2.body.pad.filled).filter p)).eraseDups).foldl (fun s l => s.dropStash [] l) s

/-- TLB entries that a test names, and middle-level entries that another does, leave every cluster (R321). -/
def State.tlbDrop (s : State) (p : TlbEntry → Bool) (q : Nat → Bool) : State :=
  { s with clusters := s.clusters.map (fun e => (e.1, { e.2 with
      tlb := e.2.tlb.filter (fun t => !p t), mids := e.2.mids.filter (fun m => !q m.1) })) }

/-! ### Mapping a page (R330) -/

/-- What the walk finds where a page is to be mapped. -/
inductive MapAt where
  | valid
  | swapped
  | malformed
  /-- how many of the middle and the leaf table are missing -/
  | missing (tables : Nat)
  deriving DecidableEq, Repr

def State.mapAt (s : State) (root va : Nat) : MapAt :=
  let e1 := s.home64 (root + 8 * (va / 2 ^ 42 % 2 ^ 15))
  if !pteV e1 then (if pteT e1 then .malformed else .missing 2)
  else if !tableOk e1 then .malformed
  else
    let e2 := s.home64 (pteFrame e1 + 8 * (va / 2 ^ 29 % 2 ^ 13))
    if !pteV e2 then (if !pteT e2 then .missing 1 else if pteLeaf e2 then .swapped else .malformed)
    else if pteLeaf e2 then
      (if e2.extractLsb' 14 2 == 0 && e2.extractLsb' 16 13 == 0 then .valid else .malformed)
    else if !tableOk e2 then .malformed
    else
      let e3 := s.home64 (pteFrame e2 + 8 * (va / 2 ^ 16 % 2 ^ 13))
      if pteV e3 then (if pteLeaf e3 || e3.extractLsb' 14 2 != 0 then .malformed else .valid)
      else if pteT e3 then .swapped
      else .missing 0

/-- The Ladle writes a table entry: traffic that no bucket meters (R372). -/
def State.putPte (s : State) (vf pa : Nat) (v : Nat) : State := s.uncharged (s.writeHome vf (numBytes pa 8 v))

/-- Writes the missing tables' entries and the leaf entry: V, the frame, and the attributes of %pgattr. -/
def State.mapWith (s : State) (vf root va : Nat) (attr : Word) (fs : List Nat) : State :=
  let leaf : Nat → State → State := fun table s =>
    s.putPte vf (table + 8 * (va / 2 ^ 16 % 2 ^ 13)) (fs.getLastD 0 + attr.toNat + 1)
  let p1 := root + 8 * (va / 2 ^ 42 % 2 ^ 15)
  let mid : Nat := va / 2 ^ 29 % 2 ^ 13
  match fs with
  | [m, l, _] => leaf l ((s.putPte vf p1 (m + 1)).putPte vf (m + 8 * mid) (l + 1))
  | [l, _] => leaf l (s.putPte vf (pteFrame (s.home64 p1) + 8 * mid) (l + 1))
  | _ => leaf (pteFrame (s.home64 (pteFrame (s.home64 p1) + 8 * mid))) s

/-- Maps a zeroed page, whose tables and frame the pool can supply, with attributes. -/
def State.mapNow (s : State) (vf va tables : Nat) (attr : Word) : State :=
  let (fs, s1) := s.takeFrames vf (tables + 1)
  s1.mapWith vf (s.ctx vf).root va attr fs

/-! ### Resident pages -/

/-- Indices of a table with a nonzero entry, ascending. -/
def State.tableIdx (s : State) (base n : Nat) : List Nat :=
  ((s.hbm.filter (fun e => decide (base ≤ e.1) && decide (e.1 < base + 8 * n))).map (fun e => (e.1 - base) / 8)).eraseDups

/-- The canonical address of a root index; it rises with the index. -/
def rootVa (i : Nat) : Nat := i * 2 ^ 42 + if 2 ^ 14 ≤ i then 2 ^ 64 - 2 ^ 57 else 0

/-- The pages of a context in local HBM in ascending address, with the address and value of each 64 KiB page's valid entry; a
page on a host or peer frame is no page of the Ladle's (R368). -/
def State.pagesOf (s : State) (root : Nat) : List (Nat × Nat × Word) :=
  (s.tableIdx root 32768).flatMap (fun i =>
    let e1 := s.home64 (root + 8 * i)
    if !pteV e1 || !tableOk e1 then [] else
    (s.tableIdx (pteFrame e1) 8192).flatMap (fun j =>
      let e2 := s.home64 (pteFrame e1 + 8 * j)
      if !pteV e2 || !tableOk e2 then [] else
      (s.tableIdx (pteFrame e2) 8192).filterMap (fun k =>
        let p3 := pteFrame e2 + 8 * k
        let e3 := s.home64 p3
        if pteV e3 && !pteLeaf e3 && e3.extractLsb' 14 2 == 0 && paLocal (s.normPa (pteFrame e3))
        then some ((rootVa i + j * 2 ^ 29 + k * 2 ^ 16) / 65536, p3, e3) else none)))

/-! ### Swaps (R364, R375) -/

/-- The tier that takes a page now: a peer that has granted space, while a fabric path is up, else the host buffer while
a PCIe link is up; none when it is full or there is none. -/
def State.tierNow (s : State) (vf : Nat) : Option Tier :=
  let c := s.ctx vf
  let room : Nat := ((kvVals c.egress).map (fun e =>
    if e.valid && e.q1.getLsbD 35 then (e.q3.toNat - e.q2.toNat) / 65536 + 1 else 0)).sum
  let used : Tier → Nat := fun t => (c.tierPages.filter (fun e => e.2.tier == t)).length
  if 0 < room && s.portsDown.length < 24 && s.fabricId.isSome then
    (if used .peer < room then some .peer else none)
  else if s.pcieDown.length < 2 && used .host < c.tierSize then some .host
  else none

def State.takePage (s : State) (tier : Tier) (f : Nat) : TierPage :=
  { tier := tier
    bytes := match kvFind s.areas (f / 65536) with
      | none => (s.hbm.filter (fun e => inFrame f e.1)).map (fun e => (e.1 - f, e.2))
      | some _ => (List.range 65536).filterMap (fun k => if s.homeByte (f + k) = 0 then none else some (k, s.homeByte (f + k)))
    labs := (s.gran.filter (fun e => lineInFrame f e.1)).map (fun e => (e.1 - f / 128, e.2))
    poison := (s.poison.filter (lineInFrame f)).map (fun l => l - f / 128)
    intact := Config.tierIntact s.tick }

/-- A page goes down: its lines and translations are evicted, its entry keeps all but V, T and FRAME, and its frame joins a
pool. The second part is what has been asked for while the swap must wait. -/
def State.swapDown (s : State) (vf page : Nat) (tier : Tier) (pool : Nat) : Bool × State :=
  match s.walk (s.ctx vf).root (65536 * page) with
  | .leaf p e false =>
    let f := s.normPa (pteFrame e)
    if s.pins.any (lineInFrame f) then (false, s) else
    match s.evictLines (lineInFrame f) with
    | (false, s1) => (false, s1)
    | (true, s1) =>
      let s2 := (s1.evictStash (lineInFrame f)).tlbDrop (fun t => t.vf == vf && !t.large && t.page == page) (fun _ => false)
      let e := s2.home64 p
      let slot := (Config.tierSlot s.tick).toNat
      let s3 := s2.putPte vf p ((e &&& 0xFFF000000000DFFE).toNat + slot * 65536 + 0x2000)
      let s4 := (s3.modCtx vf (fun c => { c with
        tierPages := kvSet c.tierPages page (s2.takePage tier f), frames := c.frames.filter (· != f) })).zeroFrame f
      (true, s4.modCtx pool (fun c => { c with pool := c.pool ++ [f] }))
  | _ => (false, s)

/-- Places a page's bytes, labels and poison marks in a frame; a page that fails its check is poisoned whole. -/
def State.placePage (s : State) (t : TierPage) (f : Nat) : State :=
  let lines := if t.intact then t.poison else List.range 512
  { s with hbm := t.bytes.foldl (fun m e => kvPut 0 m (f + e.1) e.2) s.hbm
           gran := t.labs.foldl (fun m e => kvPut 0 m (f / 128 + e.1) e.2) s.gran
           poison := (lines.map (· + f / 128)).foldl addOnce s.poison }

/-- The entry of a page on the walk, valid or not, if the tables above it are there. -/
def State.leafPte (s : State) (root va : Nat) : Option Nat :=
  let e1 := s.home64 (root + 8 * (va / 2 ^ 42 % 2 ^ 15))
  if !pteV e1 || !tableOk e1 then none else
  let e2 := s.home64 (pteFrame e1 + 8 * (va / 2 ^ 29 % 2 ^ 13))
  if !pteV e2 || !tableOk e2 then none else some (pteFrame e2 + 8 * (va / 2 ^ 16 % 2 ^ 13))

/-- A page comes up into the frame at the head of the pool. -/
def State.swapUp (s : State) (vf page : Nat) : Option State :=
  let c := s.ctx vf
  match kvFind c.tierPages page, s.leafPte c.root (65536 * page), c.pool with
  | some t, some p, _ :: _ =>
    if t.tier == .host && 2 ≤ s.pcieDown.length || t.tier == .peer && 24 ≤ s.portsDown.length then none else
    let (fs, s1) := s.takeFrames vf 1
    let f := fs.headD 0
    let e := s1.home64 p
    let s2 := (s1.placePage t f).putPte vf p ((e &&& 0xFFF000000000DFFF).toNat + f + 1)
    some (s2.modCtx vf (fun c => { c with tierPages := kvDel c.tierPages page }))
  | _, _, _ => none

/-! ### Escalations (R331, R352, R392) -/

/-- A supervisor core that serves no other takes an escalation of a context: the lowest-numbered one (log 60). -/
def State.takeEscalation (s : State) (vf : Nat) : State :=
  if s.sups.any (fun u => u.2.serving == some vf) then s
  else match s.sups.find? (fun u => u.2.serving.isNone) with
    | some (k, u) => s.setSup k { u with serving := some vf }
    | none => s
/-- What a supervisor core does for a context: it takes the escalation, so that its context registers name that context, and
then acts (R352). With every core busy, the firmware acts without a core of its own. -/
def State.escalated (s : State) (vf : Nat) (f : State → State) : State :=
  if s.sups.any (fun u => u.2.serving.isNone) && !s.sups.any (fun u => u.2.serving == some vf) then s.takeEscalation vf
  else
    let s1 := f s
    if s1 = s then s else s1.endEscalation vf

/-! ### Room for a mapping or a swap-up (R331) -/

/-- How the Ladle answers a context whose pool is too small. -/
inductive Room where
  | room (s : State)
  /-- not yet; s has asked for what it waits for -/
  | wait (s : State)
  | impossible

/-- Pages that the Ladle may swap down for a context's own mapping: first those outside its recorded set. -/
def State.victims (s : State) (vf : Nat) (keep : List Nat) : List Nat :=
  let c := s.ctx vf
  let ps := ((s.pagesOf c.root).filter (fun e => !ptePin e.2.2 && !keep.contains e.1)).map Prod.fst
  ps.filter (fun p => !c.recordedSet.contains p) ++ ps.filter c.recordedSet.contains

/-- Swaps pages of a context down until its pool holds n frames, at most fuel of them. -/
def State.makeRoom (s : State) (vf n : Nat) (keep : List Nat) : Nat → Room
  | 0 => if n ≤ (s.ctx vf).pool.length then .room s else .impossible
  | k + 1 =>
    if n ≤ (s.ctx vf).pool.length then .room s
    else if !s.pins.isEmpty then .wait s
    else match s.victims vf keep, s.tierNow vf with
      | p :: _, some t => match s.swapDown vf p t vf with
        | (true, s1) => s1.makeRoom vf n keep k
        | (false, s1) => .wait s1
      | _, _ => .impossible

/-- Brings a swapped page up for an access, with room made for it (R364). -/
def State.bringUp (s : State) (vf page : Nat) (keep : List Nat) : Room :=
  match s.makeRoom vf 1 (page :: keep) 1 with
  | .room s1 => match s1.swapUp vf page with
    | some s2 => .room s2
    | none => .wait s1
  | r => r

/-! ### Partitions (R369) -/

/-- An entry that is enabled and well formed by itself. -/
def Part.formed (p : Part) : Bool := p.flags == 1 && p.reserved == 0
def Part.overlaps (p q : Part) : Bool := p.clust &&& q.clust != 0 || p.vfs &&& q.vfs != 0

/-- The entries in force: of two that overlap the higher-numbered is disabled. -/
def State.partsOn (s : State) : List (Nat × Part) :=
  s.parts.foldl (fun l e => if e.2.formed && !l.any (fun q => q.2.overlaps e.2) then l ++ [e] else l) []
def State.partOf (s : State) (vf : Nat) : Option (Nat × Part) :=
  s.partsOn.find? (fun e => decide (vf < 256) && e.2.vfs.getLsbD vf)
/-- The VF runs now: its partition runs it and no switch is under way. -/
def State.running (s : State) (vf : Nat) : Bool :=
  match s.partOf vf with
  | some (_, p) => p.running == some vf && p.incoming.isNone
  | none => false
/-- The page at a page number is resident: its walk ends at a valid entry. -/
def State.pageHere (s : State) (vf page : Nat) : Bool :=
  match s.walk (s.ctx vf).root (65536 * page) with | .leaf _ _ _ => true | .absent _ => false

/-! ### The swap-downs of a switch (R374, R378) -/

/-- Frames that the Ladle must free for an incoming context. -/
def State.switchNeed (s : State) (vf : Nat) : Nat :=
  ((s.ctx vf).recordedSet.filter (fun p => !s.pageHere vf p)).length + 16 - (s.ctx vf).pool.length

/-- A context is switched out: no partition runs it, and none brings it in. -/
def State.switchedOut (s : State) (vf : Nat) : Bool := s.parts.all (fun e => e.2.running != some vf && e.2.incoming != some vf)
/-- The page that a switch takes next: of the context going out, then of the partition's other switched-out contexts, the one whose turn
lies furthest away first. A context whose %ptb is zero has been given no table, and so has no pages (log 56). -/
def State.nextVictim (s : State) (p : Part) (vf : Nat) : Option (Nat × Nat) :=
  let others := ((List.range 255).map (fun k => (vf + 255 - k) % 256)).filter (fun v => p.vfs.getLsbD v && p.out != some v)
  ((p.out.toList ++ others).filter (fun v => v != vf && s.switchedOut v && (s.ctx v).ptb != 0)).findSome? (fun v =>
    ((s.victims v []).head?).map (fun x => (v, x)))

/-- The swap-down that a switch still needs and that can be made: context, page, tier. -/
def State.nextSwap (s : State) (p : Part) (vf : Nat) : Option (Nat × Nat × Tier) :=
  if s.switchNeed vf = 0 then none
  else match s.nextVictim p vf with
    | some (v, page) => (s.tierNow v).map (fun t => (v, page, t))
    | none => none

/-- The switch whose swap-downs the Ladle serves now: its partition and the context coming in. -/
def State.switchNow (s : State) : Option (Nat × Part × Nat) :=
  s.switches.head?.bind (fun n => (kvFind s.parts n).bind (fun p => p.incoming.map (fun v => (n, p, v))))
def State.switching (s : State) : Bool :=
  match s.switchNow with | some (_, p, v) => (s.nextSwap p v).isSome | none => false

/-! ### What waits for the Ladle (R329, R331, R376, R392) -/

/-- An agent of a crew that waits for a page: on which VA, under which sub-code, and which pages its instruction names. -/
structure Waiter where
  cid : Nat
  laneless : Bool
  va : Nat
  sub : Nat
  pages : List Nat
  since : Nat

def parkWaits (cid : Nat) (laneless : Bool) (th : Thread) : List Waiter :=
  match th.park with
  | .page va sub pages => [{ cid := cid, laneless := laneless, va := va, sub := sub, pages := pages, since := th.unready }]
  | _ => []

/-- Everything of a context that waits for a page, the engines' commands and the stopped streams included. -/
def stoppedOn (th : Thread) : Option (Nat × Nat) :=
  match th.park, Sys2Proof.decode th.eng (th.clause.getD th.slot 0) with
  | .stopped 0x07 sub va, .ok (.sld _ _ _ _ _ _ _ _) => some (va, sub)
  | .stopped 0x07 sub va, .ok (.sst _ _ _ _ _ _ _) => some (va, sub)
  | .stopped 0x07 sub va, _ => if th.clause.isEmpty then some (va, sub) else none
  | _, _ => none

def State.waiters (s : State) (vf : Nat) : List Waiter :=
  (s.crews.filter (fun e => e.2.vf == vf)).flatMap (fun e =>
    e.2.body.teams.flatMap (fun t => t.2.frags.flatMap (fun f => parkWaits e.1 false f.2)) ++
    e.2.body.seqs.flatMap (fun q => match stoppedOn q.2.th with
      | some (va, sub) => [{ cid := e.1, laneless := true, va := va, sub := sub, pages := [], since := q.2.th.unready }]
      | none => []) ++
    ((s.cluster e.2.cl).mq ++ (s.cluster e.2.cl).cq).flatMap (fun m => match m.cid == e.1, m.wants with
      | true, some (va, sub) => [{ cid := e.1, laneless := true, va := va, sub := sub, pages := [], since := m.asked }]
      | _, _ => []))

/-- What the Ladle is asked for: since when, by which context, for how many frames, which pages it must not take for them, and the
swapped page that is to come up, if it is one. -/
structure Demand where
  since : Nat
  vf : Nat
  frames : Nat
  keep : List Nat
  up : Option Nat := none

/-- A swapped page that a waiting agent needs, or a page that is to be mapped for a lane-less one while the pool is too small. -/
def State.pageDemand (s : State) (vf : Nat) (w : Waiter) : Option Demand :=
  let page := w.va / 65536
  if w.laneless && (kvFind s.crews w.cid).any (fun c => c.copy == .trail) then none
  else if w.sub = 1 then some { since := w.since, vf := vf, frames := 1, keep := page :: w.pages, up := some page }
  else if !w.laneless || w.sub != 0 then none
  else match s.mapAt (s.ctx vf).root w.va with
    | .missing n => if n + 1 ≤ (s.ctx vf).pool.length then none
      else some { since := w.since, vf := vf, frames := n + 1, keep := [page] }
    | _ => none
/-- A PGMAP that has asked for frames (R331). -/
def State.pgmapDemand (s : State) (ag : Agent) (th : Thread) (keep : List Nat) : Option Demand :=
  match th.asked, Sys2Proof.decode th.eng (hereWord th), s.vfOf ag with
  | some t, .ok (.pgmap a), some vf => match s.mapAt (s.ctx vf).root (s.readS ag a).val.toNat with
    | .missing n => some { since := t, vf := vf, frames := n + 1, keep := keep }
    | _ => none
  | _, _, _ => none
def State.demands (s : State) : List Demand :=
  (kvKeys s.ctxs).flatMap (fun vf => (s.waiters vf).filterMap (s.pageDemand vf)) ++
  s.ladleQ.map (fun w => { since := w.2.2, vf := w.1, frames := 1, keep := [w.2.1 / 65536], up := some (w.2.1 / 65536) }) ++
  (s.crews.filter (fun e => e.2.resident)).flatMap (fun e => e.2.body.teams.flatMap (fun t => t.2.frags.filterMap (fun f =>
    s.pgmapDemand (.frag e.1 t.1 f.1) f.2 ((t.2.frame.map TrapFrame.pages).getD [])))) ++
  s.sups.filterMap (fun u => s.pgmapDemand (.sup u.1) u.2.th [])
/-- The Ladle can serve a demand now, or say that it cannot be served at all. -/
def State.ladleCan (s : State) (d : Demand) : Bool :=
  match d.up.elim (s.makeRoom d.vf d.frames d.keep d.frames) (fun page => s.bringUp d.vf page d.keep) with
  | .wait _ => d.up.any (s.pageHere d.vf)
  | _ => true
/-- A demand is served once the swap-downs of the switch in progress are made, and after those before it that can be served (R376). -/
def State.firstAsked (s : State) (since : Nat) : Bool :=
  !s.switching && !s.demands.any (fun d => decide (d.since < since) && s.ladleCan d)

end Sys2Proof.Machine
end

