-- ==== Sys2Proof/Machine/System.lean ====
section
/-! DEFINITION. The system registers (R350 to R352) and the system instructions: SYSR, SYSW, PKEYW, TLBINV, FRINV, FAULTR,
PGMAP (R111, R353 to R358). -/

namespace Sys2Proof.Machine

/-! ### Memory controller registers (R255, R351, R371) -/

def isRegionReg (ofs : Nat) : Bool := decide (0x1000 ≤ ofs) && decide (ofs < 0x1180) && ofs % 8 == 0
def isBucketReg (ofs : Nat) : Bool := decide (0x2000 ≤ ofs) && decide (ofs < 0x3000) && ofs % 8 == 0

/-- The register at an offset of a controller; an offset that holds none reads 0. -/
def State.ctlRead (s : State) (mc ofs : Nat) : Word :=
  if isRegionReg ofs then s.mcReg mc ofs
  else if isBucketReg ofs then
    (if ofs % 16 = 0 then s.mcReg mc ofs
     else BitVec.ofNat 64 (s.tbLevelOf mc ((ofs - 0x2000) / 16) + 2 ^ 32 * s.tbWaitsOf mc ((ofs - 0x2000) / 16)))
  else 0

/-- The RW bits of a controller register: FRB, FRL, FRS, TBC. -/
def ctlMask (ofs : Nat) : Word :=
  if isRegionReg ofs then
    match (ofs - 0x1000) % 24 with
    | 0 => 0xF00FFFFFFFFFF000
    | 8 => 0x000FFFFFFFFFF000
    | _ => 0x000FFFFFFFFFFFF8
  else if isBucketReg ofs && ofs % 16 == 0 then 0x8000FFFF00001FFF
  else 0

def tbBurst (c : Word) : Nat := max (c.extractLsb' 32 16).toNat 1

/-- A bucket's waiting requests pass in their order while its tokens suffice, or all of them once it is not metered (R372). -/
def State.tbDrain (s : State) (mc vf : Nat) : State :=
  let on := s.tbOn mc vf
  let (lvl, _, q) := s.tbQueue.foldl (fun (a : Nat × Bool × List TbReq) r =>
    let (l, stuck, q) := a
    if r.mc == mc && r.vf == vf && !stuck then
      (if !on then (l, stuck, q) else if r.bytes ≤ l then (l - r.bytes, stuck, q) else (l, true, q ++ [r]))
    else (l, stuck, q ++ [r])) (s.tbLevelOf mc vf, false, [])
  { s with tbLevel := kvPut 4096 s.tbLevel (tbKey mc vf) lvl, tbQueue := q }

/-- A write to a controller register; TBC sets its bucket's LEVEL, and an offset that holds no register discards it. -/
def State.ctlWrite (s : State) (mc ofs : Nat) (v : Word) : State :=
  if 16 ≤ mc || ctlMask ofs = 0 then s
  else
    let w := v &&& ctlMask ofs
    let s1 := { s with ctl := kvPut 0 s.ctl (mcKey mc ofs) w }
    if isBucketReg ofs then
      let vf := (ofs - 0x2000) / 16
      ({ s1 with tbLevel := kvPut 4096 s1.tbLevel (tbKey mc vf) (4096 * tbBurst w) }).tbDrain mc vf
    else s1

/-! ### Access rights and values (R350) -/

/-- The least privilege that has access to a register, and that has it to write: below the first an access is denied, below the
second the register is RO, and a SYSW of it is ignored (R12, R350; log 63). -/
def sysReadPriv (n : Nat) : Priv := if n ≤ 0x006 then .user else if n ≤ 0x020 then .ctxSup else .devSup
def sysWritePriv (n : Nat) : Priv := if n ≤ 0x018 then .ctxSup else .devSup
def privNum : Priv → Nat
  | .user => 0
  | .ctxSup => 1
  | .devSup => 2
def privOk (need_ have_ : Priv) : Bool := decide (privNum need_ ≤ privNum have_)

/-- The RW bits of the context registers (R312, R336, R348, R351). -/
def sysMask (n : Nat) : Word :=
  match n with
  | 0x010 => 0xFFFFFFFFFFFFFFC0
  | 0x011 => 0x00000000FFFFFFFF
  | 0x012 => 0x80FFFFFFFFFFFFFF
  | 0x013 => 0x81FFFFFFFFFFFFFF
  | 0x014 => 0xFFFFFFFFFFFFFFC0
  | 0x015 => 0xFFFFFFFFFFFF0000
  | 0x016 => 0x0000000000001F9C
  | 0x017 => 0xFFFFFFFFFFC0FFFF
  | 0x020 => 0x000FFFFFFFFC0000
  | 0x030 => 0x00000000000001FF
  | 0x031 => 0x00000000000FFFF8
  | _ => 0

/-- A context register's value. -/
def ctxReg (c : Context) (n : Nat) : Word :=
  match n with
  | 0x010 => c.tvec
  | 0x011 => c.ckpt
  | 0x012 => c.inj
  | 0x013 => c.rlog
  | 0x014 => c.lqt
  | 0x015 => c.spva
  | 0x016 => c.pgattr
  | 0x017 => c.carea
  | 0x018 => BitVec.ofNat 64 c.pool.length
  | 0x020 => c.ptb
  | _ => 0

/-- %rlog after a write: FAIL is cleared by a one, and EN stays clear with no pages (R348). -/
def rlogWrite (old v : Word) : Word :=
  let fail := if v.getLsbD 62 then 0 else old &&& 0x4000000000000000
  let w := v &&& sysMask 0x013
  fail ||| (if w.extractLsb' 0 12 = 0 then w &&& 0x7FFFFFFFFFFFFFFF else w)

def setCtxReg (c : Context) (n : Nat) (v : Word) : Context :=
  let w := v &&& sysMask n
  match n with
  | 0x010 => { c with tvec := w }
  | 0x011 => { c with ckpt := w }
  | 0x012 => { c with inj := w }
  | 0x013 =>
    let k := logKey w
    let fresh := !c.casts.any (fun e => e.2.recorded == some k)
    { c with rlog := rlogWrite c.rlog v, rlogPos := if fresh then kvDel c.rlogPos k else c.rlogPos
             rlogFull := if fresh then dropAll c.rlogFull k else c.rlogFull }
  | 0x014 => { c with lqt := w }
  | 0x015 => { c with spva := w }
  | 0x016 => { c with pgattr := w }
  | 0x017 => { c with carea := w }
  | 0x020 => { c with ptb := w }
  | _ => c

/-- A crew or a group handle of a context holds a block of its context-area pool (R326). -/
def State.poolHeld (s : State) (vf : Nat) : Bool :=
  s.crews.any (fun e => e.2.vf == vf) || (s.ctx vf).handles.any (fun h => !h.2.blocks.isEmpty)

/-- %wave: what CLMQ would return, 0 outside a reserving cast (R351). -/
def waveReg : M Word := do
  let tm ← myTeam
  if tm.phase == .none then pure 0
  else do
    let c ← myCrew
    match (← get).cast? c.vf c.key with
    | some k =>
      pure (BitVec.ofNat 64 (k.waves % 2 ^ 32 + (kvGet ({} : Item) k.items c.index).wave % 2 ^ 32 * 2 ^ 32))
    | none => pure 0

/-- Registers of the fragment, team, item and crew; they read 0 on a supervisor core (R352). -/
def teamReg (n : Nat) : M Word := do
  match ← me with
  | .sup _ => pure 0
  | _ =>
    match n with
    | 0x001 => waveReg
    | 0x002 => do pure (BitVec.ofNat 64 (← myPcl))
    | 0x003 => do pure (BitVec.ofNat 64 (← myClear))
    | 0x004 => myAuth
    | 0x005 => myPkr
    | _ => do
      let c ← myCrew
      pure (match (← get).cast? c.vf c.key with
        | some k => if k.launch.paired then BitVec.ofNat 64 k.launch.slack else 0
        | none => 0)

def supReg (n : Nat) : M Word := do
  match ← me with
  | .sup k => do
    let u := (← get).sup k
    pure (match n with
      | 0x030 => u.ctxsel
      | 0x031 => u.mcsel
      | _ => (0 : Word))
  | _ => pure 0

def mcOf (sel : Word) : Nat := (sel.extractLsb' 16 4).toNat
def ofsOf (sel : Word) : Nat := (sel.extractLsb' 3 13).toNat * 8

/-- The value of a system register. %cyc is obtained once in a pair, and recorded (R310, R349). -/
def sysValue (n : Nat) : M Word := do
  if n = 0x000 then do
    let vs ← once [1] (do pure [BitVec.ofNat 64 (← get).cyc])
    recordHere 4 vs
    pure (vs.headD 0)
  else if n ≤ 0x006 then teamReg n
  else if n ≤ 0x020 then do
    match ← myVf? with
    | some vf => pure (ctxReg ((← get).ctx vf) n)
    | none => pure 0
  else if n = 0x032 then do
    let sel ← supReg 0x031
    pure ((← get).ctlRead (mcOf sel) (ofsOf sel))
  else supReg n

def execSysr (d reg : Nat) (s : State) : Host.Outcome State Fault Refusal :=
  run (do
    issue [.s d] []
    let th ← myTh
    if privOk (sysReadPriv reg) th.priv then
      declared [.s d]
      let v ← sysValue reg
      writeS d v th.pcl
      done
    else trapU 0x1C) s

/-- No write span is open and the operand is public (R353, R355). -/
def steerOk (a : Nat) : M Unit := do
  let th ← myTh
  let r ← rdS a
  if th.openSpan.isSome || r.lab != 0 then trapU 0x0D else pure ()

/-- Sets the team's protection key register; no other agent has one of its own to set. -/
def setPkr (v : Word) : M Unit := do
  match ← me with
  | .frag _ _ _ => modTeam (fun tm => { tm with pkr := v })
  | _ => pure ()

def sysWrite (n : Nat) (v : Word) : M Unit := do
  if n = 0x005 then setPkr v
  else if n ≤ 0x020 then do
    match ← myVf? with
    | some vf =>
      if n = 0x017 && (← get).poolHeld vf then pure () else modify (fun s => s.modCtx vf (fun c => setCtxReg c n v))
    | none => pure ()
  else do
    match ← me with
    | .sup k =>
      if n = 0x030 then modify (fun s => s.setSup k { s.sup k with ctxsel := v &&& sysMask n })
      else if n = 0x031 then modify (fun s => s.setSup k { s.sup k with mcsel := v &&& sysMask n })
      else do
        let sel := ((← get).sup k).mcsel
        modify (fun s => s.ctlWrite (mcOf sel) (ofsOf sel) v)
    | _ => pure ()

def execSysw (reg a : Nat) (s : State) : Host.Outcome State Fault Refusal :=
  run (do
    issue [.s a] []
    let th ← myTh
    if privOk (sysReadPriv reg) th.priv then
      steerOk a
      if privOk (sysWritePriv reg) th.priv then sysWrite reg (← valS a) else pure ()
      done
    else trapU 0x1C) s

/-- PKEYW, at every privilege (R355). A supervisor core has no %pkr. -/
def execPkeyw (a : Nat) (s : State) : Host.Outcome State Fault Refusal :=
  run (do
    let _ ← myFrag
    issue [.s a] []
    steerOk a
    setPkr (← valS a)
    done) s

/-! ### TLBINV (R356) -/

/-- What a TLBINV covers: TLB entries, middle-level entries, virtual tags of L1 lines, and fetched words of code. -/
structure Cover where
  entry : TlbEntry → Bool
  mid : Nat → Bool
  tag : Nat → Bool
  code : Nat → Bool

/-- Physical lines whose copies stand under a covered virtual tag in some L1. -/
def State.taggedLines (s : State) (p : Nat → Bool) : List Nat :=
  (s.clusters.flatMap (fun e => e.2.l1s.flatMap (fun x => (x.2.tags.filter (fun t => p t.2)).map Prod.fst))).eraseDups

/-- A fill of a stash line is under way, translated under a covered virtual tag (R356). -/
def State.filling (s : State) (p : Nat → Bool) : Bool :=
  s.crews.any (fun e => e.2.resident && e.2.body.pad.wanted.any (fun w =>
    (e.2.body.pad.global (128 * w.1)).any (fun va => p (vtag e.2.vf va.toNat))))

/-- TLBINV after its checks: a commit point with its write-through, then the covered translations and L1 lines go, once the
accesses that they translated have been performed. -/
def tlbinvOp (cov : Cover) : M Done := do
  awaitRelease []
  commitHere
  match agentCid (← me) with
  | some cid => if ← isTrail then pure () else modify (fun s => s.wtCoreOf cid)
  | none => pure ()
  if (← get).filling cov.tag then throw (.park .pinned) else pure ()
  let ls := (← get).taggedLines cov.tag
  match (← get).evictLines ls.contains with
  | (false, s1) => do
    set s1
    throw (.park .commit)
  | (true, s1) => do
    let s2 := s1.tlbDrop cov.entry cov.mid
    set { s2 with code := s2.code.filter (fun e => !cov.code e.1) }
    donePast

/-- The context of a fetched word. -/
def codeVf (key : Nat) : Nat := key / 2 ^ 64 % 512
def ctxTag (vf tag : Nat) : Bool := tag / 2 ^ 64 == vf
/-- The page of a virtual tag, of 2^n bytes. -/
def tagPage (n tag : Nat) : Nat := tag % 2 ^ 64 / 2 ^ (n - 7)

def execTlbinvPage (a : Nat) (s : State) : Host.Outcome State Fault Refusal :=
  run (do
    issue [.s a] []
    let th ← myTh
    let ra ← rdS a
    let va := ra.val.toNat
    if !privOk .ctxSup th.priv then trapU 0x1C
    else if !canonical (va : Int) then throw (.trap { code := 0x05, lanes := th.exm, uaddr := some ra.val, alab := [ra.lab] })
    else do
      let vf := (← myVf?).getD 256
      let big := (← get).clusters.any (fun e => e.2.tlb.any (fun t => t.vf == vf && t.large && t.page == va / 2 ^ 29))
      tlbinvOp
        { entry := fun t => t.vf == vf && t.page == (if t.large then va / 2 ^ 29 else va / 2 ^ 16)
          mid := (· == midKey vf va)
          tag := fun t => ctxTag vf t && (tagPage 16 t == va / 2 ^ 16 || (big && tagPage 29 t == va / 2 ^ 29))
          code := fun k => codeVf k == vf && (k % 2 ^ 64 / 2 ^ 16 == va / 2 ^ 16 ||
            (big && k % 2 ^ 64 / 2 ^ 29 == va / 2 ^ 29)) }) s

def execTlbinvCtx (a : Nat) (s : State) : Host.Outcome State Fault Refusal :=
  run (do
    issue [.s a] []
    let th ← myTh
    let vf := (← valS a).toNat % 256
    let own := match ← myVf? with | some v => v == vf | none => false
    if privOk .devSup th.priv || (privOk .ctxSup th.priv && own) then
      tlbinvOp { entry := fun t => t.vf == vf, mid := ctxTag vf, tag := ctxTag vf, code := fun k => codeVf k == vf }
    else trapU 0x1C) s

def execTlbinvAll (a : Nat) (s : State) : Host.Outcome State Fault Refusal :=
  run (do
    issue [.s a] []
    if privOk .devSup (← myTh).priv then
      tlbinvOp { entry := fun _ => true, mid := fun _ => true, tag := fun _ => true, code := fun _ => true }
    else trapU 0x1C) s

/-! ### FRINV (R357) -/

/-- The MMAs whose tile fetch has begun and that still hold pins or have lines to fetch (R259). -/
def State.openMmas (s : State) : List Nat :=
  s.clusters.flatMap (fun e => (e.2.mq.filter (fun m => m.begun && !m.applied)).map Cmd.op)
/-- FRINV over some lines by a supervisor core: begun, it holds back every MMA that begins to fetch, and it completes once those
that had begun before it have released their pins (R259). -/
def frinvLines (k first last : Nat) : M Done := do
  let p : Nat → Bool := fun l => decide (first ≤ l) && decide (l ≤ last)
  if (kvFind (← get).frinvs k).isNone then
    modify (fun s => { s with frinvs := kvSet s.frinvs k (first, last, s.openMmas) })
  let s ← get
  let ops := ((kvFind s.frinvs k).map (fun e => e.2.2)).getD []
  if s.openMmas.any ops.contains || s.pins.any p then throw (.park .pinned)
  else match s.evictLines p with
    | (false, s1) => do
      set s1
      throw (.park .commit)
    | (true, s1) => do
      let s2 := s1.evictStash p
      let s3 := (s2.l2.filter (fun e => p e.1)).foldl State.writeBack s2
      set { s3 with l2 := s3.l2.filter (fun e => !p e.1), frinvs := kvDel s3.frinvs k }
      done

def execFrinv (a b : Nat) (s : State) : Host.Outcome State Fault Refusal :=
  run (do
    issue [.s a, .s b] []
    let th ← myTh
    let ra ← rdS a
    let x := ra.val.toNat
    let n := (← valS b).toNat
    let bad : Nat → M Done := fun code =>
      throw (.trap { code := code, lanes := th.exm, uaddr := some ra.val, alab := [ra.lab] })
    if !privOk .devSup th.priv then trapU 0x1C
    else if x % 4096 != 0 || n % 4096 != 0 then bad 0x1B
    else if 2 ^ 40 ≤ x || (n != 0 && (x + n - 1) / 2 ^ 36 != x / 2 ^ 36) then bad 0x06
    else if n = 0 then done
    else match ← me with
      | .sup k => frinvLines k (x / 128) ((x + n) / 128 - 1)
      | _ => illegal .wrongClass) s

/-! ### FAULTR (R111, R327) -/

/-- The faulting byte address of a lane; 0 in a lane without one. -/
def frameAddr (f : TrapFrame) (l : Nat) : Word :=
  match f.uaddr with
  | some a => if mhas f.lanes l then a else 0
  | none => ((f.addrs.find? (fun e => e.1 == l)).map Prod.snd).getD 0

def execFaultr (f : FaultField) (d : Nat) (s : State) : Host.Outcome State Fault Refusal :=
  run (do
    let th ← myTh
    if th.priv = .user then
      match f with
      | .addr => checkNames [.v d, .v (d + 1)]
      | _ => pure ()
      trapU 0x1C
    else do
      let fr ← myFrame
      let put : Nat → List Lbl → M Done := fun v ls => do
        issue [] [.s d]
        let l ← joinAll ls
        writeS d (BitVec.ofNat 64 v) l
        done
      match f with
      | .code => put fr.code [fr.plbl]
      | .sub => put fr.sub [fr.plbl]
      | .pc => put fr.pc [fr.plbl]
      | .slot => put fr.slot [fr.plbl]
      | .plbl => put fr.plbl [fr.plbl]
      | .info => put fr.info.toNat (fr.plbl :: fr.alab)
      | .mask => maskOp d [] (pure (fr.plbl :: fr.alab)) (pure fr.lanes)
      | .addr => do
        let d0 ← vDst d
        let d1 ← vDst (d + 1)
        issue [] (d0 ++ d1)
        let labs : Nat → List Lbl := fun _ => fr.plbl :: fr.alab
        prepareV d labs
        prepareV (d + 1) labs
        writeV d labs (fun l => (frameAddr fr l).extractLsb' 0 32)
        writeV (d + 1) labs (fun l => (frameAddr fr l).extractLsb' 32 32)
        done) s

/-! ### PGMAP (R330, R331, R358) -/

/-- Pages that the faulting instruction of the executing handler addresses. -/
def faultPages : M (List Nat) := do
  match ← me with
  | .frag _ _ _ => pure (match (← myTeam).frame with | some f => f.pages | none => [])
  | _ => pure []

def execPgmap (a : Nat) (s : State) : Host.Outcome State Fault Refusal :=
  run (do
    issue [.s a] []
    let th ← myTh
    let ra ← rdS a
    let va := ra.val.toNat
    let bad : Nat → Nat → M Done := fun code sub =>
      throw (.trap { code := code, sub := sub, lanes := th.exm, uaddr := some ra.val, alab := [ra.lab] })
    if !privOk .ctxSup th.priv then trapU 0x1C
    else if !canonical (va : Int) then bad 0x05 0
    else do
      match ← myVf? with
      | none => done
      | some vf =>
        let root := ((← get).ctx vf).root
        match (← get).mapAt root va with
        | .malformed => bad 0x07 2
        | .swapped => done
        | _ => do
          commitHere
          if ← isTrail then donePast
          else
            match (← get).mapAt root va with
            | .missing n => do
              let attr := (th.began.map Prod.snd).getD ((← get).ctx vf).pgattr
              let s ← get
              let since := th.asked.getD s.cyc
              let ask : State → M Done := fun s1 => do
                set (s1.takeEscalation vf)
                modTh (fun th => { th with asked := some since })
                throw (.park .pinned)
              if (s.ctx vf).pool.length < n + 1 && !s.firstAsked since then ask s
              else match s.makeRoom vf (n + 1) (← faultPages) (n + 1) with
              | .room s1 => do
                set ((s1.mapNow vf va n attr).endEscalation vf)
                donePast
              | .wait s1 => ask s1
              | .impossible => if (agentCid (← me)).isSome then throw (.abort 0x13 0) else done
            | _ => donePast) s

end Sys2Proof.Machine
end

