-- ==== Sys2Proof/Machine/Dispatcher.lean ====
section
/-! DEFINITION. The dispatcher (R173 to R185, R24, R188, R302) and the wave former (R165 to R170): packets and launch
records, wait words, placement, completion releases, waves. An event that is not enabled leaves the state as it is. -/

namespace Sys2Proof.Machine

/-! ### Partitions (R369, R370) -/

/-- The live clusters of a partition in ascending physical order. -/
def State.liveClusters (s : State) (p : Part) : List Nat :=
  (List.range Config.clusters).filter (fun c => p.clust.getLsbD c && !s.deadClusters.contains c)
/-! ### Reads and writes of the dispatcher: no keys, no page faults (R177, R179) -/

/-- Where a dispatcher's access lands, or the code and sub-code of the check of R149 that it fails: a read, or one that writes too. -/
def State.devLoc (s : State) (vf : Nat) (ap : Nat × Nat) (va n : Nat) (write : Bool) : Except (Nat × Nat) (Nat × Nat × Word) :=
  if !canonical (va : Int) then .error (0x05, 0)
  else if crosses (va : Int) n || inAperture ap (va : Int) n then .error (0x06, 0)
  else match s.walk (s.ctx vf).root va with
    | .absent sub => .error (0x07, sub)
    | .leaf p e l =>
      let pa := s.normPa (pteAddr e l va)
      if paReserved pa || !s.egressOk vf pa n true write then .error (0x06, 0)
      else if write && !pteW e then .error (0x09, 0)
      else .ok (pa, p, e)
/-- The lines of some bytes, and whether one of them is poisoned, which an access meets after its checks (R149). -/
def spanLines (pa n : Nat) : List Nat :=
  (List.range (n / 128 + 2)).filterMap (fun k => if 128 * k < pa % 128 + n then some (lineOf pa + k) else none)
def State.badSpan (s : State) (pa n : Nat) : Bool := (spanLines pa n).any s.bad
/-- Where a dispatcher's read lands; poisoned bytes are code 0x1A. -/
def State.devAddr (s : State) (vf : Nat) (ap : Nat × Nat) (va n : Nat) : Except (Nat × Nat) (Nat × Nat × Word) :=
  match s.devLoc vf ap va n false with
  | .ok (pa, p, e) => if s.badSpan pa n then .error (0x1A, 0) else .ok (pa, p, e)
  | .error x => .error x
/-- The lines that a dispatcher's read asks for: a peer that refuses one has the hosts told (R382). -/
def State.devLines (s : State) (vf va n : Nat) : List Nat :=
  match s.devLoc vf (0, 0) va n false with | .ok (pa, _, _) => spanLines pa n | .error _ => []

/-- The dispatcher has read some lines: those that their slices do not hold are asked of the memory controllers, and the hosts are told
of those that a peer refuses (R372, R382). -/
def State.devTouch (s : State) (vf : Nat) (lines : List Nat) : State :=
  lines.eraseDups.foldl (fun s l => (if (kvFind s.l2 l).isSome then s else s.meterLine vf l).tell vf l) s

/-- The n bytes at an address, which may run into the next page, as one number. -/
def State.devNat (s : State) (vf va n : Nat) : Option Nat :=
  let n1 := min n (65536 - va % 65536)
  match s.devAddr vf (0, 0) va n1 with
  | .error _ => none
  | .ok (pa, _, _) =>
    if n1 = n then some (s.homeNat pa n)
    else match s.devAddr vf (0, 0) (va + n1) (n - n1) with
      | .error _ => none
      | .ok (pb, _, _) => some (s.homeNat pa n1 + 256 ^ n1 * s.homeNat pb (n - n1))

/-- What an acquire outside the cores makes of the notices that its line carries: the releasing crews commit and write
through (R208). While one must wait, what it has asked for. -/
def State.promoteAt (s : State) (line : Nat) : Bool × State :=
  s.promoteNotices (s.notices.filter (fun n => n.line == line))
def State.promoteLines (s : State) : List Nat → Bool × State
  | [] => (true, s)
  | l :: ls => match s.promoteAt l with
    | (true, s1) => s1.promoteLines ls
    | (false, s1) => (false, s1)

/-! ### Packets (R174 to R177, R302) -/

/-- A queue of a context as the dispatcher finds it: the address of its descriptor, and the descriptor, when it is
served. -/
def State.served (s : State) (vf q : Nat) : Option (Nat × QDesc) :=
  let c := s.ctx vf
  if c.lqt = 0 || 16 ≤ q then none
  else match s.msAddr vf false (c.lqt.toNat + 64 * q) with
    | none => none
    | some pa => let d := s.qdesc pa; if d.ok then some (pa, d) else none
def State.hasPacket (s : State) (vf q : Nat) : Bool :=
  match s.served vf q with | some (_, d) => decide (d.head < d.tail) | none => false

/-- The queue that is served next: round-robin, starting after the one served last. -/
def State.nextQueue (s : State) (vf : Nat) : Option Nat :=
  ((List.range 16).map (fun k => ((s.ctx vf).rr + 1 + k) % 16)).find? (s.hasPacket vf)

def okOrNull (v : Nat) : Bool := v == 0 || (canonical (v : Int) && v % 8 == 0)

/-- The 512 bytes of a launch record, taken as one number (R176). -/
def launchOf (v : Nat) : Launch :=
  let flags := fieldAt v 0x1A 1
  { entry := fieldAt v 0 8, crews := if fieldAt v 8 4 = 0 then 2 ^ 32 else fieldAt v 8 4, teams := fieldAt v 0x0C 1
    lanes := fieldAt v 0x0E 2, vregs := fieldAt v 0x10 2, spad := fieldAt v 0x14 4, nbar := fieldAt v 0x18 1
    prio := fieldAt v 0x19 1, reserving := flags.testBit 0, ordered := flags.testBit 1, paired := flags.testBit 2
    slack := fieldAt v 0x1B 1, extx := fieldAt v 0x20 4, exty := fieldAt v 0x24 4, extz := fieldAt v 0x28 4
    resid := fieldAt v 0x30 1, done := fieldAt v 0x38 8
    waits := (List.range 4).map (fun k => (fieldAt v (0x40 + 16 * k) 8, BitVec.ofNat 64 (fieldAt v (0x48 + 16 * k) 8)))
    clear := fieldAt v 0x80 1, amode := fieldAt v 0x81 1, amask := BitVec.ofNat 64 (fieldAt v 0x88 8)
    args := (List.range 16).map (fun k => BitVec.ofNat 64 (fieldAt v (0x90 + 8 * k) 8)) }

/-- Every field lies within the limits of R176, and every reserved byte is zero (cause 3). -/
def launchFormed (v : Nat) : Bool :=
  let l := launchOf v
  let flags := fieldAt v 0x1A 1
  canonical (l.entry : Int) && l.entry % 8 == 0 && decide (1 ≤ l.teams) && decide (l.teams ≤ 16) && fieldAt v 0x0D 1 == 0 &&
    decide (1 ≤ l.lanes) && decide (l.lanes ≤ 1024) && decide (1 ≤ l.vregs) && decide (l.vregs ≤ 256) &&
    decide (16 ≤ fieldAt v 0x12 1) && decide (fieldAt v 0x12 1 ≤ 64) && fieldAt v 0x13 1 == 0 &&
    l.spad % 128 == 0 && decide (l.spad ≤ 524288) && decide (l.nbar ≤ 64) && decide (l.prio ≤ 7) && decide (flags < 8) &&
    (!l.paired || (decide (1 ≤ l.slack) && decide (l.slack ≤ 4))) && fieldAt v 0x1C 4 == 0 &&
    decide (1 ≤ l.extx) && decide (1 ≤ l.exty) && decide (1 ≤ l.extz) && fieldAt v 0x2C 4 == 0 && decide (l.resid ≤ 100) &&
    fieldAt v 0x31 7 == 0 && okOrNull l.done && l.waits.all (fun w => okOrNull w.1) && fieldAt v 0x82 6 == 0 &&
    fieldAt v 0x110 240 == 0 && (!l.ordered || l.reserving)

def Launch.words (l : Launch) : Nat := l.teams * (l.vregs * ((l.lanes + 31) / 32)) + Config.logWords

/-- The first check of R177 that a packet fails, with the clearance and authority that were recorded with it (R302). -/
def State.refusal (s : State) (vf va : Nat) (rec : Option Nat) (who : Option (BitVec 64 × Lbl)) : Option Nat :=
  match rec with
  | none => some 1
  | some v =>
    let l := launchOf v
    let c := s.ctx vf
    let live := match s.partOf vf with | some (_, p) => some (s.liveClusters p).length | none => none
    if va % 256 != 0 then some 2
    else if !launchFormed v then some 3
    else if decide (c.labels.length ≤ l.clear) || (match who with | some w => !c.dominates w.2 l.clear | none => false) then some 4
    else if decide (1 < l.amode) || l.amask &&& ~~~c.omask != 0 ||
      (match who with | some w => l.amask &&& ~~~w.1 != 0 | none => false) then some 5
    else if Config.coreWords < l.words || live == some 0 then some 6
    else if l.paired && live == some 1 then some 7
    else if careaBlocks c = 0 then some 8
    else none

/-- Every page of a replay log is present and pinned, and writable where that is asked (R348). -/
def State.logThere (s : State) (vf g : Nat) (write : Bool) : Bool :=
  let base := g / 4096 * 4096
  (List.range (g % 4096 + (if base % 65536 = 0 then 0 else 1))).all (fun k =>
    match s.walk (s.ctx vf).root (base / 65536 * 65536 + 65536 * k) with
    | .leaf _ e _ => (!write || pteW e) && ptePin e && canonical (base + 65536 * k : Nat)
    | .absent _ => false)
/-- The log that %rlog names can be recorded in. -/
def State.logUsable (s : State) (vf : Nat) : Bool := s.logThere vf (logKey (s.ctx vf).rlog) true

/-- The recorder takes an entry about a cast (R349). -/
def State.recordCast (s : State) (vf key kind : Nat) (payload : List Byte) : State :=
  match s.cast? vf key with
  | some { recorded := some g, .. } => if (s.ctx vf).rlogFull.contains g then s else
      s.modCtx vf (fun x => { x with rlogOut := x.rlogOut ++
        [{ log := g, kind := kind, crew := 0, team := 0, cyc := s.cyc, payload := payload }] })
  | _ => s

/-- A cast enters its context's table as waiting, and its launch is recorded where the recorder is on. -/
def State.enterCast (s : State) (vf q seq va v : Nat) : State :=
  let c := s.ctx vf
  let en := c.rlog.getLsbD 63
  let ok := en && s.logUsable vf
  let key := c.nextKey
  let s1 := s.modCtx vf (fun c => { c with
    nextKey := key + 1
    casts := kvSet c.casts key { queue := q, seq := seq, record := BitVec.ofNat 64 va, launch := launchOf v, recorded := if ok then some (logKey c.rlog) else none }
    rlog := if en && !ok then c.rlog ||| 0x4000000000000000 else c.rlog })
  s1.recordCast vf key 1 (leBytes 8 va ++ leBytes 8 seq ++ leBytes 512 v)

/-! ### Wait words (R179) -/

/-- One wait word is read with an acquire at system scope: whether it has been seen to reach its target. A page that has been swapped
down comes up first. A read that must wait, or that a check or poison ends, has not seen it; where no page can come up the cast
ends. -/
def State.readWait (s : State) (vf key : Nat) (w : Nat × Word) : Bool × State :=
  let read : State → Bool × State := fun s =>
    match s.devAddr vf (0, 0) w.1 8 with
    | .ok (pa, _, _) => match s.promoteAt (lineOf pa) with
      | (true, s1) => (decide (w.2.toNat ≤ (s1.home64 pa).toNat), s1)
      | (false, s1) => (false, s1)
    | .error _ => (false, (s.devLines vf w.1 8).foldl (fun s l => s.tellOnce vf l) s)
  if w.1 = 0 then (true, s)
  else match s.devAddr vf (0, 0) w.1 8 with
    | .error (0x07, 1) => match s.bringUp vf (w.1 / 65536) [] with
      | .room s1 => read s1
      | .wait s1 => (false, s1)
      | .impossible => (false, s.endCast vf key (some (0x13, 0, 0)))
    | _ => read s

/-- Each wait word of a waiting cast that has not been reached is read, whatever became of the others; when all have been reached, the
cast starts. -/
def State.readWaits (s : State) (vf key : Nat) : State :=
  let go : State := (List.range 4).foldl (fun s i => match s.cast? vf key with
    | none => s
    | some k =>
      if k.st != .waiting || k.reached.getD i false then s
      else match s.readWait vf key (k.launch.waits.getD i (0, 0)) with
        | (true, s1) => s1.modCast vf key (fun k => { k with reached := k.reached.set i true })
        | (false, s1) => s1) s
  go.modCast vf key (fun k =>
    if k.st == .waiting && k.reached.all id then { k with st := .gated, started := s.cyc } else k)

/-- The value of a wait word at its home, where its address leads to one. -/
def State.waitValue (s : State) (vf va : Nat) : Option Word :=
  match s.devAddr vf (0, 0) va 8 with | .ok (pa, _, _) => some (s.home64 pa) | .error _ => none
/-- A waiting cast reads its words again when a store has been performed to one that it has not seen reached (R179). -/
def State.rereadWaits (s0 s : State) : State :=
  (s.ctxs.flatMap (fun x => (x.2.casts.filter (fun e => e.2.st == .waiting && (e.2.launch.waits.zip e.2.reached).any (fun w =>
      !w.2 && w.1.1 != 0 && s0.waitValue x.1 w.1.1 != s.waitValue x.1 w.1.1))).map (fun e => (x.1, e.1)))).foldl
    (fun s k => s.readWaits k.1 k.2) s

/-- WAIT_WORD_READ: at least once in every 4,096 cycles. -/
def execWaitWordRead (vf key : Nat) (s : State) : Out := .next (s.readWaits vf key)

/-- DISPATCH_PACKET: the packet at the head of a queue is read with its record, HEAD advances, and the cast enters the table
or is refused (R175, R177). What the machine has recorded with the packet stands by its place in the queue, whatever the slot
holds (R302). -/
def execDispatchPacket (vf q : Nat) (s : State) : Out :=
  .next (
    if s.nextQueue vf != some q || 64 ≤ (s.ctx vf).casts.length then s
    else match s.served vf q with
      | none => s
      | some (dpa, d) =>
        let slot := d.slot d.head
        let pkt := s.devNat vf slot 16
        let va := match pkt with | some p => p % 2 ^ 64 | none => 0
        let seq := match pkt with | some p => p / 2 ^ 64 | none => d.head
        let lines := s.devLines vf slot 16 ++
          (if pkt.isNone then [] else (List.range 4).flatMap (fun k => s.devLines vf (va + 128 * k) 128))
        if !s.storable (lineOf dpa) then s.askHolders [lineOf dpa]
        else match s.promoteLines lines with
          | (false, s0) => s0
          | (true, s0) =>
            let rec_ := if pkt.isNone then none else s0.devNat vf va 512
            let who := kvFind (s0.ctx vf).pktAuth (2 ^ 40 * q + d.head)
            let s1 := ((s0.devTouch vf lines).perform vf (numBytes (dpa + 0x18) 8 (d.head + 1)) true).modCtx vf (fun c =>
              { c with rr := q, pktAuth := kvDel c.pktAuth (2 ^ 40 * q + d.head) })
            match s1.refusal vf va rec_ who with
            | some cause => s1.perform vf (numBytes (dpa + 0x20) 8 seq ++ numBytes (dpa + 0x28) 4 cause ++
                numBytes (dpa + 0x2C) 4 (min (2 ^ 32 - 1) (d.rcount + 1))) true
            | none => (s1.enterCast vf q seq va (rec_.getD 0)).readWaits vf (s1.ctx vf).nextKey)

/-! ### Slices (R373) -/

def Part.sliceLen (p : Part) : Nat := if p.slice.toNat = 0 then 21000000 else max p.slice.toNat 1050000

/-- A VF has work: a cast, a packet in an enabled queue, or a doorbell that has rung while it did not run (R373). -/
def State.hasWork (s : State) (vf : Nat) : Bool :=
  !(s.ctx vf).casts.isEmpty || ((s.ctx vf).bell && !s.running vf) || (List.range 16).any (s.hasPacket vf)

/-- The next VF of a partition with work, in ascending order after one, wrapping; that one itself comes last. -/
def State.nextWork (s : State) (p : Part) (after : Nat) : Option Nat :=
  ((List.range 256).map (fun k => (after + 1 + k) % 256)).find? (fun v => p.vfs.getLsbD v && s.hasWork v)

/-- Changes that wait for a partition's slice boundary: of its entry (R369), and retirements among its clusters (R370). -/
def inClust (p : Part) (c : Nat) : Bool := decide (c < Config.clusters) && p.clust.getLsbD c
def State.boundaryWork (s : State) (p : Part) : Bool :=
  p.pending.isSome || s.pendDead.any (inClust p) || s.pendDeadCores.any (fun k => inClust p (k / 4))

/-- The pending change takes the running VF or one of the clusters away (R369). -/
def Part.cut (p : Part) (vf : Nat) : Bool :=
  match p.pending with
  | some (clust, vfs, _, flags, reserved) =>
    !vfs.getLsbD vf || p.clust &&& ~~~clust != 0 || flags != 1 || reserved != 0
  | none => false

/-- The slice of a running VF ends: it has lasted its length when another VF has work, its VF has no work, or its partition loses it or
a cluster (R369, R373). -/
def State.sliceOver (s : State) (part : Nat) (p : Part) (vf : Nat) : Bool :=
  p.cut vf || !p.vfs.getLsbD vf || !s.partsOn.any (fun e => e.1 == part) || !s.hasWork vf ||
    (decide (p.since + p.sliceLen ≤ s.cyc) && (match s.nextWork p vf with | some v => v != vf | none => false))

/-! ### Dispatch priority (R180) and the residency condition (R188) -/

def Cast.priority (k : Cast) : Nat := min 7 (k.launch.prio + k.raise)

/-- A cast holds a crew that has still to be placed, or to be placed again. -/
def State.unplaced (s : State) (vf key : Nat) (k : Cast) : Bool :=
  decide (k.next < k.launch.crews) || s.crews.any (fun e => e.2.vf == vf && e.2.key == key && !e.2.resident && e.2.requeued)
/-- A period of a cast begins. -/
def State.newPeriod (s : State) (vf key start : Nat) : State :=
  s.modCast vf key (fun k => { k with period := start, others := false, held := s.unplaced vf key k })

/-- The end of a cast's period that has run out: one in which it held an unplaced crew and was passed over raises it. -/
def State.endPeriod (s : State) (vf key : Nat) : State :=
  match s.cast? vf key with
  | none => s
  | some k =>
    if (k.st == .dispatching || k.st == .draining) && s.running vf && decide (k.period + 2 ^ 20 ≤ s.cyc) then
      (s.modCast vf key (fun k => { k with
        raise := if k.others && k.held then k.raise + 1 else k.raise })).newPeriod vf key (k.period + 2 ^ 20)
    else s
/-- PRIORITY_PERIOD_END: a period of 2^20 cycles in which a cast that held an unplaced crew was passed over raises it. -/
def execPriorityPeriodEnd (vf key : Nat) (s : State) : Out := .next (s.endPeriod vf key)
/-- The casts of a context with a period that has run out. -/
def State.periodsDue (s : State) (vf : Nat) : Bool := (kvKeys (s.ctx vf).casts).any (fun key => s.endPeriod vf key != s)

/-- The resident part of the recorded set of the context's last slice is at or above a cast's threshold, or can rise no more (R376). -/
def State.residencyMet (s : State) (vf : Nat) (resid : Nat) : Bool :=
  let rs := (s.ctx vf).lastSet
  let up := (rs.filter (s.pageHere vf)).length
  rs.isEmpty || resid == 0 || decide (resid * rs.length ≤ 100 * up) ||
    ((s.ctx vf).pool.isEmpty || !rs.any (fun p => (kvFind (s.ctx vf).tierPages p).isSome))

/-! ### Placement (R22, R34, R181 to R185) -/

/-- What a core must grant a crew. -/
structure Need where
  words : Nat
  splits : Nat
  pad : Nat
  bars : Nat
  tiles : Nat
  mseqs : Nat
  cseqs : Nat

def Launch.need (l : Launch) : Need :=
  { words := l.words, splits := l.teams, pad := l.spad, bars := l.nbar, tiles := 0, mseqs := 0, cseqs := 0 }
/-- What a crew with saved state needs. -/
def Crew.need (c : Crew) (nbar : Nat) : Need :=
  let sq : Eng → Nat := fun k => (c.body.seqs.filter (fun q => q.2.kind == k && !q.2.ended)).length
  { words := c.words, splits := (c.body.teams.map (fun t => t.2.splits)).sum, pad := c.body.pad.size, bars := nbar
    tiles := match c.body.grant with | some g => g.tiles.length | none => 0, mseqs := sq .matrix, cseqs := sq .copy }

def State.barsOf (s : State) (c : Crew) : Nat :=
  match s.cast? c.vf c.key with | some k => k.launch.nbar | none => 0

/-- The core can grant all of it; words held for crews of the core count, since a commit point frees them (R35): now, or, asked
with later, once every crew of the core has made the one that it has still to make. -/
def State.grants (s : State) (later : Bool) (cl core : Nat) (n : Need) : Bool :=
  let cs := (s.crews.filter (fun e => onCore cl core e.2)).map Prod.snd
  !s.deadClusters.contains cl && !s.deadCores.contains (4 * cl + core) && decide (cs.length < Config.coreCrews) &&
    decide (n.words ≤ if later then s.wordsLater cl core else s.freeWords cl core + s.heldWords (s.holding cl core)) &&
    decide (s.coreSplits cl core + n.splits ≤ Config.coreSplits) &&
    decide ((cs.map (fun c => c.body.pad.size)).sum + n.pad ≤ Config.corePad) &&
    decide ((cs.map s.barsOf).sum + n.bars ≤ Config.coreBars) && decide (n.tiles ≤ s.freeTiles cl) &&
    decide (n.mseqs ≤ s.freeSeqs cl .matrix) && decide (n.cseqs ≤ s.freeSeqs cl .copy)

/-- Tile coordinates of a crew (R182). -/
def crewCoords (l : Launch) (c : Nat) : Nat × Nat × Nat := (c % l.extx, c / l.extx % l.exty, c / (l.extx * l.exty))

/-- Cores in the order in which a crew probes them, from a cluster offset. -/
def probe (l : Launch) (c : Nat) (live : List Nat) (shift : Nat) : List (Nat × Nat) :=
  let (x, y, z) := crewCoords l c
  let n := live.length
  let h := (40503 * x + 2473 * y + 131 * z) % 2 ^ 16 % n
  let k := (x + y + z) % 4
  (List.range n).flatMap (fun i => (List.range 4).map (fun j => (live.getD ((h + shift + i) % n) 0, (k + j) % 4)))

/-- The cores for a crew, or for both copies of a pair, which stand on two clusters. -/
def State.findCores (s : State) (later : Bool) (l : Launch) (c : Nat) (live skip : List Nat) (n : Need) (n2 : Option Need) :
    Option ((Nat × Nat) × Option (Nat × Nat)) :=
  let left := live.filter (fun k => !skip.contains k)
  let skip := if left.length < (if n2.isSome then 2 else 1) then [] else skip
  let ok : Need → Nat × Nat → Bool := fun n p => !skip.contains p.1 && s.grants later p.1 p.2 n
  match (probe l c live 0).find? (ok n) with
  | none => none
  | some a => match n2 with
    | none => some (a, none)
    | some m => match (probe l c live (live.length / 2)).find? (fun p => p.1 != a.1 && ok m p) with
      | some b => some (a, some b)
      | none => none

/-- Commit points of the crews whose held words a placement takes (R35). -/
def State.freeHeld (s : State) (cl core words : Nat) : State :=
  if words ≤ s.freeWords cl core then s else (s.holding cl core).foldl (fun s k => (s.commitOther k).2) s

/-- Teams bound to each issue slot of a core; each team takes the slot with the fewest, the lowest on a tie (R187). -/
def State.bound (s : State) (cl core : Nat) (but : Nat) : List Nat :=
  (List.range 4).map (fun k => ((s.crews.filter (fun e => e.1 != but && onCore cl core e.2)).map (fun e =>
    (e.2.body.teams.filter (fun t => !t.2.retired && t.2.slot == k)).length)).sum)
def leastSlot (b : List Nat) : Nat := b.findIdx (fun n => b.all (fun m => decide (n ≤ m)))
def bindSlots (b : List Nat) : KV Team → KV Team
  | [] => []
  | (t, tm) :: rest => (t, { tm with slot := leastSlot b }) :: bindSlots (b.modify (leastSlot b) (· + 1)) rest

/-- The authority of team t (R15): all of AMASK, or the t-th owner of it. -/
def dealt (l : Launch) (t : Nat) : BitVec 64 :=
  if l.amode = 0 then l.amask
  else if t = 0 then 0
  else match ((List.range 64).filter (fun k => l.amask.getLsbD k))[t - 1]? with
    | some k => BitVec.ofNat 64 (2 ^ k)
    | none => 0

/-- A team as it starts (R34). -/
def startTeam (l : Launch) (c t : Nat) (cyc : Nat) : Team :=
  let (x, y, z) := crewCoords l c
  let put : List Nat → KV SReg := fun vs => (List.range vs.length).foldl (fun m k =>
    kvPut {} m k { val := BitVec.ofNat 64 (vs.getD k 0) }) []
  let word : Nat → RegWord := fun g =>
    { lanes := (List.range 32).map (fun j => if 32 * g + j < l.lanes then BitVec.ofNat 32 (32 * g + j) else 0) }
  { lanes := l.lanes, live := lanesBelow l.lanes
    frags := [(0, { pc := l.entry, exm := lanesBelow l.lanes, f := lanesBelow l.lanes, ready := cyc, started := cyc })]
    s := put (l.args.map BitVec.toNat ++ [c, t, x, y, z, l.lanes])
    v := (List.range ((l.lanes + 31) / 32)).foldl (fun m g => kvPut {} m (vkey 0 g) (word g)) []
    scopes := [(0, l.vregs)], clear := l.clear, auth := dealt l t
    phase := if l.reserving then .claim else .none }

def startBody (l : Launch) (c : Nat) (cyc : Nat) : Body :=
  { teams := (List.range l.teams).map (fun t => (t, startTeam l c t cyc)), pad := { size := l.spad, base := l.clear } }

/-- Blocks of the pool that no crew and no handle of a context holds. -/
def State.freeBlocks (s : State) (vf : Nat) : List Nat :=
  let c := s.ctx vf
  let used := (s.crews.filter (fun e => e.2.vf == vf)).map (fun e => e.2.block) ++ c.handles.flatMap (fun h => h.2.blocks)
  (List.range (careaBlocks c)).filter (fun b => !used.contains b)

/-- A crew that comes to a core has acquired (R196, R168): nothing it reads may be a clean copy from before (R207). -/
def State.comeTo (s : State) (cl core words : Nat) : State :=
  (s.freeHeld cl core words).modL1 cl core (fun l => { l with clean := [] })

/-- A copy of a crew is placed for the first time, which is its first commit point, with its record (R326). -/
def State.newCrew (s : State) (vf key : Nat) (k : Cast) (copy : Copy) (partner block : Nat) (at_ : Nat × Nat) : State :=
  let b := startBody k.launch k.next s.cyc
  let b := { b with teams := bindSlots (s.bound at_.1 at_.2 s.nextCid) b.teams }
  let s1 := s.comeTo at_.1 at_.2 k.launch.words
  State.writeRecord (cid := s.nextCid) { s1 with
    nextCid := s.nextCid + 1
    crews := kvSet s1.crews s.nextCid { vf := vf, key := key, index := k.next, copy := copy, partner := partner, cl := at_.1,
                                        core := at_.2, order := s.tick, block := block, frames := s.blockFrames vf block
                                        body := b, saved := b
                                        lastCommit := s.cyc, opMark := s1.nextOp } }

/-- The commands that a crew has left in a cluster's copy engine go with it to another (R299). -/
def State.moveCmds (s : State) (cid a b : Nat) : State :=
  if a = b then s else
  let mine := (s.cluster a).cq.filter (fun m => m.cid == cid)
  (s.modCluster a (fun q => { q with cq := q.cq.filter (fun m => m.cid != cid) })).modCluster b (fun q =>
    { q with cq := q.cq ++ mine })

/-- A copy of a crew with saved state is placed again, if that state can still be trusted (R343). It becomes the youngest of its core,
which the spec leaves open (R37, log 76). -/
def State.placeAgain (s : State) (cid : Nat) (at_ : Nat × Nat) : State :=
  match kvFind s.crews cid with
  | none => s
  | some c =>
    if s.savedBad c then s.abortCrew cid 0x18 0 else
    let s1 := (s.comeTo at_.1 at_.2 c.words).moveCmds cid c.cl at_.1
    let fresh : Thread → Thread := fun th => { th with ready := s.cyc, unready := 0, started := s.cyc, active := false }
    let f : Body → Body := fun b => { b with
      teams := (bindSlots (s1.bound at_.1 at_.2 cid) b.teams).map (fun e =>
        (e.1, { e.2 with frags := e.2.frags.map (fun x => (x.1, fresh x.2)) }))
      seqs := b.seqs.map (fun e => (e.1, { e.2 with th := fresh e.2.th })) }
    s1.modCrew cid (fun c => { c with resident := true, requeued := false, cl := at_.1, core := at_.2, skip := []
                                      order := s.tick, body := f c.body, saved := f c.saved, lastCommit := s.cyc
                                      frames := s.blockFrames c.vf c.block })

/-- What the cast table notes of a placement (R180). -/
def State.notePlaced (s : State) (vf key : Nat) (isNew : Bool) : State :=
  (s.modCtx vf (fun c => { c with casts := c.casts.map (fun e =>
    if e.1 == key then
      let next := e.2.next + if isNew then 1 else 0
      (e.1, { e.2 with next := next, raise := 0, st := if e.2.launch.crews ≤ next then .draining else .dispatching })
    else (e.1, { e.2 with others := true })) })).newPeriod vf key s.cyc

/-- The crew of a cast that is placed next: one that was requeued, the lowest index first, else the next new one. While a
requeued crew still waits for what it has begun, its cast places no other (R181). -/
inductive NextCrew where
  | again (cid : Nat)
  | new
  | none

def State.nextCrew (s : State) (vf key : Nat) (k : Cast) : NextCrew :=
  let rq := (s.crews.filter (fun e => e.2.vf == vf && e.2.key == key && !e.2.resident && e.2.requeued &&
    e.2.copy != .trail)).map (fun e => (e.2.index, e.1))
  match rq.foldl (fun (b : Option (Nat × Nat)) e => match b with
      | some x => if e.1 < x.1 then some e else some x
      | none => some e) Option.none with
  | some (_, cid) => if (s.copies cid).any s.rollbackWaits then .none else .again cid
  | none => if k.next < k.launch.crews then .new else .none

/-- Where the next crew of a cast goes, if it fits somewhere, now or later, and its blocks are free. -/
def State.placeWhere (s : State) (later : Bool) (vf key : Nat) (k : Cast) (live : List Nat) :
    Option ((Nat × Nat) × Option (Nat × Nat)) :=
  match s.nextCrew vf key k with
  | .none => none
  | .new =>
    let n := k.launch.need
    if (s.freeBlocks vf).length < (if k.launch.paired then 2 else 1) then none
    else s.findCores later k.launch k.next live [] n (if k.launch.paired then some n else none)
  | .again cid => match kvFind s.crews cid with
    | none => none
    | some c =>
      let m := if c.copy == .solo then none else (kvFind s.crews c.partner).map (fun p => p.need k.launch.nbar)
      s.findCores later k.launch c.index live c.skip (c.need k.launch.nbar) m
def State.placeFor (s : State) (vf key : Nat) (k : Cast) (live : List Nat) : Option ((Nat × Nat) × Option (Nat × Nat)) :=
  s.placeWhere false vf key k live

/-- Puts the next crew of a cast where it has been found to fit. A pool page that is not there ends the cast (R326). -/
def State.place (s : State) (vf key : Nat) (k : Cast) (where_ : (Nat × Nat) × Option (Nat × Nat)) : State :=
  match s.nextCrew vf key k with
  | .none => s
  | .again cid => match kvFind s.crews cid with
    | none => s
    | some c =>
      let s1 := s.placeAgain cid where_.1
      (match where_.2 with | some b => s1.placeAgain c.partner b | none => s1).notePlaced vf key false
  | .new =>
    match s.freeBlocks vf with
    | [] => s
    | b1 :: bs =>
      let a := s.nextCid
      let s1 := match where_.2 with
        | none => s.newCrew vf key k .solo 0 b1 where_.1
        | some p => (s.newCrew vf key k .lead (a + 1) b1 where_.1).newCrew vf key k .trail a (bs.headD 0) p
      let s2 := s1.notePlaced vf key true
      if s2.areaGone a || (where_.2.isSome && s2.areaGone (a + 1)) then s2.endCast vf key (some (0x07, 0, 0)) else s2

/-! ### Spilled items (R185) -/

/-- Parked, sealed, unadmitted items of a cast on a core, the highest index first. -/
def State.sealedOn (s : State) (vf key : Nat) (k : Cast) (cl core : Nat) : List Nat :=
  let cs := s.crews.filter (fun e => e.2.vf == vf && e.2.key == key && onCore cl core e.2 &&
    let it := kvGet ({} : Item) k.items e.2.index
    it.isSealed && it.wave == 0 && !it.finished)
  (sortBy (fun a b => decide (b.2.index ≤ a.2.index)) cs).map Prod.fst
/-- An item leaves its core with its commit-point state; it comes back when it is admitted. -/
def State.spillItem (s : State) (cid : Nat) : State :=
  (s.copies cid).foldl (fun s k => s.modCrew k (fun c => { c with requeued := false })) (s.relaunch cid 0 false)

/-- Spills items of one core until the next crew fits there. -/
def State.spillUntil (s : State) (vf key : Nat) (k : Cast) (live : List Nat) (core : Nat × Nat) : List Nat → Option State
  | [] => none
  | i :: is =>
    let s1 := s.spillItem i
    match s1.placeFor vf key k live with
    | some w => if w.1 == core || w.2 == some core then some s1 else s1.spillUntil vf key k live core is
    | none => s1.spillUntil vf key k live core is

/-- The spills that make room for the next crew of a reserving cast, on the first core where they do. -/
def State.spillFor (s : State) (vf key : Nat) (k : Cast) (live : List Nat) : Option State :=
  if !k.launch.reserving then none
  else
    let i := match s.nextCrew vf key k with
      | .again cid => match kvFind s.crews cid with | some c => c.index | none => k.next
      | _ => k.next
    (probe k.launch i live 0).findSome? (fun p => s.spillUntil vf key k live p (s.sealedOn vf key k p.1 p.2))

/-- Casts of a running context in the order in which the dispatcher offers them a placement (R180). -/
def State.offers (s : State) (vf : Nat) : List (Nat × Cast) :=
  sortBy (fun a b =>
      decide (b.2.priority < a.2.priority) || (a.2.priority == b.2.priority && decide (a.2.started ≤ b.2.started)))
    ((s.ctx vf).casts.filter (fun e => e.2.gate && (e.2.st == .dispatching || e.2.st == .draining) &&
      match s.nextCrew vf e.1 e.2 with | .none => false | _ => true))

/-- The gate of a cast opens for the slice; a gated cast is dispatched from then on, and its first period begins. -/
def Cast.open (cyc : Nat) (k : Cast) : Cast :=
  if k.st == .gated then { k with gate := true, st := .dispatching, period := cyc, others := false, held := true }
  else { k with gate := true }

/-- CREW_PLACE: a cast whose residency condition comes to hold may place crews (R188). Then the next crew or pair of the cast
whose turn it is goes to the first core that can grant it all; where none can, sealed items of its cast may make room
(R185), and crews that hold the words it needs are asked for their commit points (R35). None is placed once the slice is to
end (R362), and none before the periods of R180 that have run out have ended. -/
def execCrewPlace (vf key : Nat) (s : State) : Out :=
  .next (match s.partOf vf, s.cast? vf key with
    | some (n, p), some k =>
      if !s.running vf || k.st == .waiting || s.sliceOver n p vf || s.periodsDue vf then s
      else if !k.gate then (if s.residencyMet vf k.launch.resid then s.modCast vf key (Cast.open s.cyc) else s)
      else
        let live := s.liveClusters p
        match (s.offers vf).find? (fun e => (s.placeFor vf e.1 e.2 live).isSome || (s.spillFor vf e.1 e.2 live).isSome) with
        | none => match ((s.offers vf).head?).bind (fun e => s.placeWhere true vf e.1 e.2 live) with
          | some (a, b) =>
            let s1 := s.askHeld a.1 a.2
            match b with | some q => s1.askHeld q.1 q.2 | none => s1
          | none => s
        | some (x, _) =>
          if x != key then s
          else
            let go : State → State := fun s => match s.placeFor vf key k live with
              | some w => s.place vf key k w
              | none => s
            match s.placeFor vf key k live with
            | some _ => go s
            | none => match s.spillFor vf key k live with
              | some s1 => go s1
              | none => s
    | _, _ => s)

/-! ### The end of a cast (R24) -/

/-- CAST_COMPLETION_RELEASE: after its last crew the cast's completion word rises by one; where it cannot, the cast ends
without it and is reported. -/
def execCastCompletionRelease (vf key : Nat) (s : State) : Out :=
  .next (match s.cast? vf key with
    | none => s
    | some k =>
      if k.st != .draining || k.retired < k.launch.crews || !(s.castCrews vf key).isEmpty then s
      else if k.launch.done = 0 then s.endCast vf key none
      else
        let va := k.launch.done
        let fail : Nat → State → State := fun code s => s.endCast vf key (some (code, 1, BitVec.ofNat 64 va))
        let write : State → State := fun s =>
          match s.devLoc vf ((s.ctx vf).spva.toNat, k.launch.spad) va 8 true with
          | .error (code, _) => fail code s
          | .ok (pa, p, e) =>
            if s.badSpan pa 8 then fail 0x1A ((s.setAD vf p true).tell vf (lineOf pa))
            else if !s.storable (lineOf pa) then s.askHolders [lineOf pa]
            else
              let s1 := s.setAD vf p true
              (s1.perform vf (numBytes pa 8 ((s1.home64 pa).toNat + 1)) (pteMs e)).endCast vf key none
        match s.devLoc vf ((s.ctx vf).spva.toNat, k.launch.spad) va 8 true with
        | .error (0x07, 1) => match s.bringUp vf (va / 65536) [] with
          | .room s1 => write s1
          | .wait s1 => s1
          | .impossible => fail 0x13 s
        | _ => write s)

/-! ### Waves (R166 to R170, R311) -/

def Cast.item (k : Cast) (i : Nat) : Item := kvGet {} k.items i
def conflict (a b : Item) : Bool := a.sig &&& b.sig != 0
def Item.waits (i : Item) : Bool := i.isSealed && i.wave == 0 && !i.finished
/-- The lowest index of an unfinished item. -/
def Cast.lowest (k : Cast) : Nat := ((List.range (k.items.length + 1)).find? (fun i => !(k.item i).finished)).getD 0

/-- The items that the next wave admits; none where no wave forms. -/
def Cast.wave (k : Cast) : List Nat :=
  if !k.items.all (fun e => e.2.wave == 0 || e.2.finished) then []
  else if k.launch.ordered then
    let u := k.lowest
    let win := (List.range (min 64 (k.launch.crews - u))).map (· + u)
    if win.all (fun i => (k.item i).finished || (k.item i).isSealed) then
      win.filter (fun i => (k.item i).waits &&
        !win.any (fun j => decide (j < i) && !(k.item j).finished && conflict (k.item i) (k.item j)))
    else []
  else
    (k.items.filter (fun e => e.2.waits)).foldl (fun w e =>
      if w.any (fun j => conflict e.2 (k.item j)) then w else w ++ [e.1]) []

/-- A team that stands sealed goes on after its CLMSEAL, in its commit phase. -/
def admitTeam (cyc : Nat) (tm : Team) : Team :=
  if tm.phase != .sealed then tm
  else { tm with phase := .commit, frags := tm.frags.map (fun e =>
    (e.1, if e.2.park == .admission then { advance .next cyc e.2 with unready := 0, ready := cyc } else e.2)) }
def admitBody (cyc : Nat) (b : Body) : Body := { b with teams := b.teams.map (fun e => (e.1, admitTeam cyc e.2)) }

/-- Admission of one copy: a commit point, which is never undone (R168, R338), and a fence at device scope over every path: what its core
has committed is written through, also where the item has left it, and no clean copy stays (R214, R220). A trailing copy closes its
window after its leading copy. -/
def State.admitCrew (s : State) (cid : Nat) : State :=
  match kvFind s.crews cid with
  | none => s
  | some c =>
    let s1 := s.modCrew cid (fun c => { c with body := admitBody s.cyc c.body, saved := admitBody s.cyc c.saved
                                               closed := c.closed.map (fun w => { w with body := admitBody s.cyc w.body }) })
    if !c.resident then (s1.modCrew cid (fun c => { c with requeued := true })).wtCoreAt c.cl c.core
    else if s.areaGone cid then s.abortCrew cid 0x07 0
    else
      let s2 := match c.copy with
        | .solo => s1.commitNow cid
        | .lead => s1.closeWindow cid
        | .trail => s1
      (s2.wtCoreAt c.cl c.core).modL1 c.cl c.core (fun l => { l with clean := [] })
/-- A copy of an item can be admitted now: its commit point and its core's write-through need not wait, and a trailing copy has
closed every window that its leading copy has. -/
def State.admittable (s : State) (cid : Nat) : Bool :=
  match kvFind s.crews cid with
  | none => true
  | some c => !s.commitWaits cid && !s.slackFull c && !s.coreHeld c.cl c.core (if c.copy == .solo then c.openLines else []) &&
    (c.copy != .trail || (kvFind s.crews c.partner).all (fun p => p.win == c.win))

/-- WAVE_FORM: the Riddle admits the items of the next wave. -/
def execWaveForm (vf key : Nat) (s : State) : Out :=
  .next (match s.cast? vf key with
    | none => s
    | some k =>
      let w := k.wave
      let cs := (s.castCrews vf key).filter (fun cid => match kvFind s.crews cid with
        | some c => w.contains c.index
        | none => false)
      if w.isEmpty || !cs.all s.admittable then s
      else
        let s1 := s.modCast vf key (fun k => { k with
          waves := k.waves + 1
          items := w.foldl (fun m i => kvSet m i { kvGet ({} : Item) m i with wave := k.waves + 1 }) k.items })
        (cs.foldl State.admitCrew s1).recordCast vf key 3 (w.flatMap (leBytes 4)))

end Sys2Proof.Machine
end

