-- ==== Sys2Proof/Machine/CommitEvents.lean ====
section
/-! DEFINITION. Commit points that no instruction makes, write-through and promotion (R206 to R209, R335 to R339), the compare
buffer of a pair (R307 to R310), and errors with their containment (R340 to R347). An event that is not enabled leaves the
state as it is. -/

namespace Sys2Proof.Machine

/-! ### Commit points, rollback, write-through -/

/-- A resident crew of the state. -/
def State.onCrew (s : State) (cid : Nat) (f : Crew → State) : State :=
  match kvFind s.crews cid with
  | some c => if c.resident then f c else s
  | none => s

/-- A commit point that no instruction of the crew makes. The trailing copy of a pair closes a window once each of its agents
stands where the leading copy's stood (log 20); the leading copy closes none but for an event of R335. -/
def State.commitAsked (s : State) (cid : Nat) : State :=
  s.onCrew cid (fun c =>
    if c.copy == .lead || s.commitWaits cid || (c.copy == .trail && !s.trailCloses c) then s
    else if s.areaGone cid then s.abortCrew cid 0x07 0
    else if c.copy == .solo then s.commitNow cid
    else s.closeWindow cid)

/-- COMMIT_POINT (R337; log 49). -/
def execCommitPoint (cid : Nat) (s : State) : Out := .next (s.commitAsked cid)

/-- The interval of %ckpt (R336). -/
def ckptInterval (w : Word) : Nat := let n := (w.extractLsb' 0 32).toNat; if n = 0 then 0 else max n 4096

/-- Cycles that a crew has been resident since its last commit point (R335). -/
def Crew.sinceCommit (c : Crew) (cyc : Nat) : Nat := c.waited + (cyc - c.lastCommit)
/-- TIMED_COMMIT_POINT (R336): the interval has elapsed since the crew's last commit point. A leading copy closes its window, and
the trailing copy follows it. -/
def execTimedCommitPoint (cid : Nat) (s : State) : Out :=
  .next (s.onCrew cid (fun c =>
    let n := ckptInterval (s.ctx c.vf).ckpt
    if n = 0 || decide (c.sinceCommit s.cyc < n) || c.copy == .trail then s
    else if c.copy == .lead then s.forceClose cid
    else s.commitAsked cid))

/-- Both copies of a pair, or the crew, go back to the last commit point. -/
def State.rollbackAll (s : State) (cid : Nat) : State := (s.copies cid).foldl State.rollback s

/-- ROLLBACK (R339). -/
def execRollback (cid : Nat) (s : State) : Out := .next (s.onCrew cid (fun _ => s.rollbackAll cid))

/-- WRITE_THROUGH (R206): a committed line of a core is performed at its home, with what must go with it, once no pin and no stash
window holds it back (R159, R197, R217). -/
def execWriteThrough (cl core line : Nat) (s : State) : Out :=
  .next (if s.wtReady cl core [line] then s.wtLine cl core line else s.askHolders (s.wtWith cl core [line]))

/-- PROMOTION_REQUEST (R208, R209): the crews that left notices of a line perform their commit points, and their core writes through
what happens before the releases. -/
def execPromotionRequest (line cl core : Nat) (s : State) : Out :=
  .next (s.promoteNotices (s.notices.filter (fun n => n.line == line && n.cl == cl && n.core == core))).2

/-! ### The compare buffer (R309) -/

/-- Stash bytes that a window has made dirty are committed with it; one that has been stored to since stays dirty. -/
def Pad.settleDirty (p closed : Pad) : Pad :=
  { p with dirty := p.dirty.filter (fun o => !(closed.dirty.contains o && kvGet 0 p.bytes o == kvGet 0 closed.bytes o)) }
def Body.settleDirty (b : Body) (closed : Pad) : Body := { b with pad := b.pad.settleDirty closed }

/-- A thread that waits for the match of its window goes on past its commit point, in the restored state too. -/
def Body.keepPark (b cur : Body) (w : Nat) : Body :=
  let f : Thread → Option Thread → Thread := fun th now =>
    if now.any (fun t => t.park == .pair w) then { th with park := .pair w } else th
  { b with
    teams := b.teams.map (fun e => (e.1, { e.2 with frags := e.2.frags.map (fun x =>
      (x.1, f x.2 ((kvFind cur.teams e.1).bind (fun t => kvFind t.frags x.1)))) }))
    seqs := b.seqs.map (fun e => (e.1, { e.2 with th := f e.2.th ((kvFind cur.seqs e.1).map SeqCtx.th) })) }

/-- A copy after the match of its oldest closed window: that window's stores and logs have left it, and its end is what a rollback
restores. -/
def Crew.matchedAt (c : Crew) (w : Closed) : Crew :=
  { c with
    unc := c.unc.filter (fun u => u.win != w.win)
    closed := (c.closed.drop 1).map (fun x => { x with body := x.body.settleDirty w.body.pad })
    body := c.body.settleDirty w.body.pad
    saved := ({ w.body with pad := w.body.pad.settled }).keepPark c.body w.win
    doneOps := c.doneOps.filter (fun d => decide (c.matched < d.win))
    matched := c.matched + 1, mismatches := 0, dfaults := 0, perrs := 0, relaunched := none }
/-- The match of a copy's oldest closed window, and the commit record of its end (R326). -/
def State.matchedAt (s : State) (cid : Nat) (c : Crew) (w : Closed) : State :=
  ((s.relogTiles c w).modCrew cid (fun c => c.matchedAt w)).writeRecord cid

/-- The uncommitted bytes of a leading copy's window. -/
def Crew.windowBytes (c : Crew) (w : Closed) : List (Nat × Byte) :=
  (c.unc.filter (fun u => u.win == w.win)).map (fun u => (u.pa, u.val))

/-- The lines of a trailing copy's window leave its L1 (R309). -/
def State.discardLines (s : State) (t : Crew) (v : Closed) : State :=
  s.modL1 t.cl t.core (fun l => { l with
    clean := l.clean.filter (fun e => !(t.unc.any (fun u => u.win == v.win && lineOf u.pa == e.1))) })

/-- The match of a window: the leading copy's stores are committed and performed at their homes, the trailing copy's are
discarded. None while a line of them must wait, or another that the core has still to write through. -/
def State.matchWindow (s : State) (lead trail : Nat) (c t : Crew) (w v : Closed) : Option State :=
  let s1 := s.commitStores lead c (c.windowBytes w) w.body.pad
  if s1.coreHeld c.cl c.core [] then none
  else some (((((s1.wtCoreAt c.cl c.core).discardLines t v).matchedAt lead c w).matchedAt trail t v).retireCrew lead)

/-- WINDOW_COMPARE (R309): both copies have closed their oldest unmatched window. -/
def execWindowCompare (cid : Nat) (s : State) : Out :=
  .next (match kvFind s.crews cid with
    | none => s
    | some c =>
      let lead := if c.copy == .lead then cid else c.partner
      let trail := if c.copy == .lead then c.partner else cid
      if c.copy == .solo then s
      else match kvFind s.crews lead, kvFind s.crews trail with
        | some l, some t => match l.closed, t.closed with
          | w :: _, v :: _ =>
            if w.sig == v.sig then (match s.matchWindow lead trail l t w v with
              | some s1 => s1
              | none => s.askHolders (s.l1Lines l.cl l.core ++ l.openLines))
            else s.pairMismatch lead (w.sig, v.sig)
          | _, _ => s
        | _, _ => s)

/-! ### Errors (R340 to R347) -/

/-- One hour at the arithmetic clock. -/
def hour : Nat := 3780000000000

/-- A unit counts an error; it is due for retirement when it has counted three within an hour. -/
def countError (m : KV (List Nat)) (k cyc : Nat) : KV (List Nat) × Bool :=
  let l := (kvGet [] m k).filter (fun t => decide (cyc < t + hour)) ++ [cyc]
  (kvSet m k l, decide (3 ≤ l.length))

/-- A slot that is due retires its core, a matrix array or engine its cluster, at the next slice boundary (R342). -/
def State.countSlot (s : State) (cl core slot : Nat) : State :=
  let (m, due) := countError s.slotErrs (4 * (4 * cl + core) + slot) s.cyc
  { s with slotErrs := m, pendDeadCores := if due then addOnce s.pendDeadCores (4 * cl + core) else s.pendDeadCores }
/-- Errors of a cluster's array are counted under twice its number, resets of its engine under the number after. -/
def State.countArray (s : State) (cl unit : Nat) : State :=
  let (m, due) := countError s.arrErrs (2 * cl + unit) s.cyc
  { s with arrErrs := m, pendDead := if due then addOnce s.pendDead cl else s.pendDead }

/-- The PC of a team's active handler, if it has one (R347). -/
def State.handlerPc (s : State) (cid t : Nat) : Option Nat :=
  (s.team? cid t).bind (fun tm => (tm.frags.find? (fun f => f.2.handler)).map (fun f => f.2.pc))

/-- An error that costs a crew its window (R341, R347): a mismatch while a pair is compared, else a rollback, and at the third
at one commit point a relaunch on another cluster. -/
def State.checkerError (s : State) (cid : Nat) : State :=
  s.onCrew cid (fun _ => s.orMismatch cid (fun c =>
    if 2 ≤ c.perrs then s.contain cid 0x18 0
    else (s.rollbackAll cid).copies cid |>.foldl (fun s k => s.modCrew k (fun c => { c with perrs := c.perrs + 1 }))
      (s.rollbackAll cid)))

/-- PIPELINE_ERROR (R341, R342). An error in a crew's commit record, in one of its logs or its tile log, or during its commit point
or rollback, ends its cast (R343). -/
def execPipelineError (cid : Nat) (u : CheckUnit) (s : State) : Out :=
  .next (match u with
    | .record => s.abortCrew cid 0x18 0
    | .array => s.onCrew cid (fun c => (s.countArray c.cl 0).checkerError cid)
    | .team t => s.onCrew cid (fun c => match s.team? cid t with
      | none => s
      | some tm =>
        let s1 := s.countSlot c.cl c.core tm.slot
        match s.handlerPc cid t with
        | some pc => s1.doubleFault cid (BitVec.ofNat 64 pc)
        | none => s1.checkerError cid))

/-- A team's register word cannot be corrected: in its handler that is a double fault (R347), else the crew goes back to where the
word is kept, if anything keeps it (R340). -/
def State.wordError (s : State) (cid t : Nat) (kept : Bool) : State :=
  if (s.team? cid t).isNone then s
  else match s.handlerPc cid t with
    | some pc => s.doubleFault cid (BitVec.ofNat 64 pc)
    | none => s.orMismatch cid (fun c => if kept || c.copy != .solo then s.rollbackAll cid else s.abortCrew cid 0x19 0)

/-- UNCORRECTABLE_REGISTER (R340). A corrected symbol is counted for its core. -/
def execUncorrectableRegister (cid : Nat) (r : RegErr) (s : State) : Out :=
  .next (s.onCrew cid (fun c =>
    match r with
    | .corrected => { s with regErrs := kvSet s.regErrs (4 * c.cl + c.core) (kvGet 0 s.regErrs (4 * c.cl + c.core) + 1) }
    | .context x _ => if (kvFind c.body.seqs x).isNone then s else s.orMismatch cid (fun _ => s.rollbackAll cid)
    | .uniform t _ => s.wordError cid t true
    | .mask t _ => s.wordError cid t true
    | .vector t v g => s.wordError cid t (c.regLog.contains (t, vkey v g))))

/-- POISONED_DATA_CONSUMED (R344). -/
def execPoisonedDataConsumed (cid pa : Nat) (s : State) : Out := .next (s.onCrew cid (fun _ => s.consumed cid pa))

/-- Resident crews with a grant or a context on a cluster's engine. -/
def State.engineCrews (s : State) (cl : Nat) : List Nat :=
  (s.crews.filter (fun e => e.2.resident && e.2.cl == cl &&
    (e.2.body.grant.isSome || e.2.body.seqs.any (fun q => !q.2.ended)))).map Prod.fst

/-- ENGINE_RESET (R345): every crew on the engine rolls back and is relaunched on another cluster, and the operations that had not
been applied are cancelled without arrivals, their pins released. One that has been applied has its arrival to make; a crew that is switched out has nothing else here, and loses nothing. -/
def execEngineReset (cl : Nat) (s : State) : Out :=
  .next (
    let s1 := (s.engineCrews cl).foldl (fun s k => s.contain k Config.resetCode.toNat 0) s
    let gone := (s1.cluster cl).mq.filter (fun m => !m.applied)
    let s2 : State := { s1 with pins := unpin s1.pins (gone.flatMap Cmd.pinned) }
    (s2.modCluster cl (fun q => { q with mq := q.mq.filter Cmd.applied })).countArray cl 1)

/-- L2_TAG_PARITY (R346): the lines of the superblock leave the slice with what was dirty in them, and every context with
dirty lines in the slice is terminated and reported. -/
def execL2TagParity (die slice : Nat) (lines : List Nat) (s : State) : Out :=
  .next (
    if Config.dies ≤ die || Config.slicesPerDie ≤ slice then s else
    let home := Config.slicesPerDie * die + slice
    let inSlice := s.l2.filter (fun e => s.homeSlice e.1 == home)
    let vfs := (inSlice.flatMap (fun e => e.2.dirty)).eraseDups
    let gone := inSlice.filter (fun e => lines.contains e.1)
    let lost := gone.filter (fun e => !e.2.dirty.isEmpty)
    let s1 := s.setHomeBytes (lost.flatMap (fun e => (List.range 128).map (fun k =>
      (128 * e.1 + k, Config.lostByte s.tick (128 * e.1 + k)))))
    let s2 := { s1 with l2 := s1.l2.filter (fun e => !(kvKeys gone).contains e.1) }
    vfs.foldl (fun s vf =>
      let s3 := (kvKeys (s.ctx vf).casts).foldl (fun s key => s.endCast vf key none) s
      { s3 with hostLog := s3.hostLog ++ [.uncontained die slice vf] }) s2)

end Sys2Proof.Machine
end

