-- ==== Sys2Proof/Machine/CoreEvents.lean ====
section
/-! DEFINITION. What the cores do beside executing instructions: the choice of a fragment and the start of its clause (R71
to R75, R187 to R190), results that return (R40, R41, R155, R159), fusion and restored spills (R29, R30), entry into
handlers (R42, R328), and register growth (R35, R37). An event that is not enabled leaves the state as it is. -/

namespace Sys2Proof.Machine

/-! ### Where an agent stands -/

def State.clOf (s : State) (ag : Agent) : Option Nat :=
  (agentCid ag).bind (fun cid => (kvFind s.crews cid).map Crew.cl)
/-- The crew's scratchpad aperture, as an instruction that has begun and waits found it (R161, R354). -/
def State.apOf (s : State) (ag : Agent) : Nat × Nat :=
  match (agentCid ag).bind (fun cid => kvFind s.crews cid) with
  | some c => ((((s.thread? ag).bind Thread.began).map Prod.fst).getD (s.ctx c.vf).spva |>.toNat, c.body.pad.size)
  | none => (0, 0)

/-- The agent may issue at all: its crew is resident and has no rollback to finish, and its stream has not ended. -/
def State.issuable (s : State) (ag : Agent) (th : Thread) : Bool :=
  !th.spilled && s.mayGo ag th && match ag with
  | .frag cid _ _ => (kvFind s.crews cid).any Crew.resident && !s.rollbackWaits cid
  | .seq cid x => match kvFind s.crews cid with
    | some c => c.resident && !s.rollbackWaits cid && match kvFind c.body.seqs x with | some q => !q.ended | none => false
    | none => false
  | .sup _ => true

/-! ### Headers (R71 to R73) -/

def State.fetchFor (s : State) (ag : Agent) (va : Nat) : Except FetchErr (Word × State) :=
  s.fetchWord (s.fetchUnit ag) (s.vfOf ag) (s.clOf ag) (s.apOf ag) va

/-- A set WAIT bit of a class with something outstanding holds a clause back. What has been performed at issue counts as
returned; a load still held does not. -/
def waitMet (th : Thread) (h : Word) : Bool :=
  let bit : Nat → Bool := (hdrWait h).getLsbD
  !(bit 1 && th.pend.any (fun p => p.held.isSome)) && !(bit 2 && th.outSt != 0) && !(bit 3 && th.outAt != 0) &&
    !(bit 6 && th.outEng != 0)

/-- The same, with the requests of the agent that still wait at a memory controller (R372). -/
def State.waitOver (s : State) (ag : Agent) (th : Thread) (h : Word) : Bool :=
  waitMet th h && !s.tbQueue.any (fun r => r.who.any (fun w => w.1 == ag && (hdrWait h).getLsbD w.2))

/-- The class that ENG names; 4 to 7 are reserved. -/
def engOf (h : Word) : Option Eng :=
  match (hdrEng h).toNat with
  | 0 => some .team
  | 1 => some .matrix
  | 2 => some .copy
  | 3 => some .supervisor
  | _ => none

/-- Whether an agent accepts a class of clause (R72). -/
def accepts (ag : Agent) (th : Thread) (own : Eng) (e : Eng) : Bool :=
  match ag with
  | .frag _ _ _ => e == .team || (e == .supervisor && th.priv == .ctxSup)
  | .seq _ _ => e == own
  | .sup _ => e == .supervisor

/-- The fault that a fetched clause raises before any instruction of it takes effect (R71, R72): code and sub-code. The order of R71
is that of the sub-codes of 0x02; that 0x1C stands where sub-code 3 would is the model's choice (log 71). -/
def clauseFault (ag : Agent) (th : Thread) (own : Eng) (h : Word) (ws : List Word) : Option (Nat × Nat) :=
  match engOf h with
  | none => some (0x02, 2)
  | some e =>
    if !accepts ag th own e then
      (match ag, e with
       | .frag _ _ _, .supervisor => some (0x1C, 0)
       | _, _ => some (0x02, 3))
    else if h.extractLsb' 0 40 != 0 then some (0x02, 4)
    else if ws.dropLast.any (fun w => decide (fOp w ≤ 0x0D)) then some (0x02, 5)
    else none

/-- The class of a sequencer context's code. -/
def State.ownEng (s : State) (ag : Agent) : Eng :=
  match ag with
  | .seq cid x => match (kvFind s.crews cid).bind (fun c => kvFind c.body.seqs x) with | some q => q.kind | none => .matrix
  | .frag _ _ _ => .team
  | .sup _ => .supervisor

/-- A fault that names the header with slot 16 (R71). -/
def headerTrap (th : Thread) (code sub : Nat) (va : Option Nat) : Trap :=
  { code := code, sub := sub, lanes := th.exm, header := true, uaddr := va.map (BitVec.ofNat 64) }

/-- Poison that an agent has consumed (R344). -/
def State.eatPoison (s : State) (ag : Agent) (pa : Nat) : State :=
  match agentCid ag with
  | some cid => s.consumed cid pa
  | none => s.parkThread ag .halted

/-! ### Joins (R29, R61) -/

/-- A fragment alone at its join goes on past it: an entry that did not split, or whose other side has ended. -/
def State.passJoin (s : State) (ag : Agent) (r : SplitRef) : Option State :=
  match ag with
  | .frag cid t _ =>
    let ended := match s.team? cid t with | some tm => tm.ended | none => []
    (s.popEntry ag r).map (fun s1 => s1.modThread ag (fun th => { th with
      sig := if r.split then sideSig ended r th.sig none else th.sig, ready := s.cyc }))
  | _ => s.popEntry ag r

/-- What a thread at the header it is about to start does about its innermost entry. Only that entry is looked at: a fragment that comes
to the join of an outer split while its innermost entry is a labelled branch's goes on past it (log 75). -/
inductive AtJoin where
  /-- no join here -/
  | go
  /-- it waits for its sibling -/
  | wait
  /-- its entry ends here -/
  | pass (r : SplitRef)

def State.atJoin (s : State) (ag : Agent) (th : Thread) : AtJoin :=
  match th.stack with
  | [] => .go
  | r :: _ =>
    if r.join != th.pc || th.slot != 0 then .go
    else match ag with
      | .frag cid t fn =>
        if r.split && (match s.team? cid t with | some tm => tm.others fn r.sid | none => false) then .wait else .pass r
      | _ => .pass r

/-! ### CLAUSE_START -/

/-- A thread begins a fetched clause: its turn starts, what its WAIT classes name has returned. -/
def startThread (h : Word) (ws : List Word) (cyc : Nat) (th : Thread) : Thread :=
  { th with clause := ws, eng := (engOf h).getD .team, pri := hdrPri h, cold := hdrCold h, ready := cyc, unready := 0, started := cyc,
            pend := th.pend.filter (fun p => !(hdrWait h).getLsbD p.cls) }

/-- Fetches the clause at a thread's PC, checks it, and starts it once its WAIT classes are empty. Where the first word is no header
(R71), the words after it are not fetched, which the spec leaves open (log 71). -/
def State.startClause (s : State) (ag : Agent) (th : Thread) : State :=
  let bad : State → Nat → Nat → Option Nat → State := fun s code sub va => s.takeTrap ag (headerTrap th code sub va)
  match s.fetchFor ag th.pc with
  | .error (.poison pa s1) => s1.eatPoison ag pa
  | .error (.fault code sub va) => bad s code sub (some va)
  | .ok (h, s1) =>
    if !hdrOk h then bad s1 0x02 1 none
    else match s1.fetchWords (s1.fetchUnit ag) (s1.vfOf ag) (s1.clOf ag) (s1.apOf ag) (th.pc + 8) (hdrLen h) with
      | .error (.poison pa s2) => s2.eatPoison ag pa
      | .error (.fault code sub va) => bad s1 code sub (some va)
      | .ok (ws, s2) =>
        match clauseFault ag th (s.ownEng ag) h ws with
        | some (code, sub) => bad s2 code sub none
        | none =>
          if s.waitOver ag th h then { s2.modThread ag (startThread h ws s.cyc) with cur := some ag } else s

/-- The key of a team's issue slot in its cluster. -/
def State.slotOf (s : State) (ag : Agent) : Option (Nat × Nat) :=
  match ag with
  | .frag cid t _ =>
    match kvFind s.crews cid, s.team? cid t with
    | some c, some tm => some (c.cl, 4 * c.core + tm.slot)
    | _, _ => none
  | _ => none

def State.chosen (s : State) (ag : Agent) : Bool :=
  match s.slotOf ag with
  | some (cl, k) => kvFind (s.cluster cl).running k == some ag
  | none => true

/-- The choice of a slot has been used. -/
def State.unchoose (s : State) (ag : Agent) : State :=
  match s.slotOf ag with
  | some (cl, k) => s.modCluster cl (fun q => { q with running := kvDel q.running k })
  | none => s

/-- The grant whose rendezvous an agent of a crew waits at is its own, while that lasts (R245, R289). -/
def Grant.mine (g : Grant) (ag : Agent) : Bool :=
  match ag with
  | .frag _ t _ => g.team == t
  | .seq _ x => g.mseq == some x || g.cseq == some x
  | .sup _ => false

/-- Executed now, the instruction would park again on a barrier word or an absent line. -/
def parksAgain (ag : Agent) : Host.Outcome State Fault Refusal → Bool
  | .next s => s.parkOf ag == .word || s.parkOf ag == .line
  | _ => false
/-- An agent parked on a barrier word, an absent line or a load still held has what it waits for still to come (R155, R156, R162). -/
def State.stillWaits (s : State) (ag : Agent) (th : Thread) : Bool :=
  let s' := { s with cur := some ag }
  match th.park with
  | .window => th.pend.any (fun p => p.left == 0 && p.held.isSome)
  | .held => th.holding
  | .word | .line =>
    match Sys2Proof.decode th.eng (hereWord th) with
    | .ok (.vlds la ty sc d a idx ofs) => parksAgain ag (execVlds la ty sc d a idx ofs s')
    | .ok (.vsts ty sc d a idx ofs) => parksAgain ag (execVsts ty sc d a idx ofs s')
    | .ok (.spwait a b ofs) => parksAgain ag (execSpwait a b ofs s')
    | .ok (.wbara scp a b ofs) => parksAgain ag (execWbara scp a b ofs s')
    | .ok (.wbarw scp p d a b ofs) => parksAgain ag (execWbarw scp p d a b ofs s')
    | .ok (.wbari scp d a b ofs) => parksAgain ag (execWbari scp d a b ofs s')
    | _ => false
  | _ => false
/-- A wait that may be over: the parked thread executes its instruction again, and parks again if it is not. -/
def State.mayRetry (s : State) (ag : Agent) (th : Thread) : Bool :=
  match th.park with
  | .word | .line | .window | .held => !s.stillWaits ag th
  | .run | .passed _ | .granted | .engine | .commit | .queue | .pinned => true
  | .rdv => match (agentCid ag).bind (fun cid => kvFind s.crews cid) with
    | some c => c.body.grant.all (fun g => g.met || !g.mine ag)
    | none => false
  | .pair w => match (agentCid ag).bind (fun cid => kvFind s.crews cid) with
    | some c => decide (w < c.matched)
    | none => false
  | _ => false

/-- A thread could go on now: inside its clause, or at a header whose WAIT classes are empty (R73, R189). A fault of its fetch is
taken at issue. -/
def State.readyNow (s : State) (ag : Agent) (th : Thread) : Bool :=
  s.issuable ag th &&
    if !th.clause.isEmpty then s.mayRetry ag th
    else th.park == .run && !th.pend.any (fun p => p.left == 0 && p.held.isSome) &&
      match s.fetchFor ag th.pc with
      | .ok (h, _) => !hdrOk h || s.waitOver ag th h
      | .error _ => true

/-- A fragment runs its clause: it has its slot, and has not parked (R189). -/
def Thread.running (th : Thread) : Bool := !th.clause.isEmpty && th.active && th.park == .run

def engNum : Eng → Nat
  | .matrix => 1
  | .copy => 2
  | _ => 0
/-- The contexts of one sequencer of a cluster that are ready. -/
def State.seqsReady (s : State) (cl : Nat) (kind : Eng) : List Nat :=
  s.crews.flatMap (fun e => if e.2.cl != cl then [] else
    (e.2.body.seqs.filter (fun q => q.2.kind == kind && s.readyNow (.seq e.1 q.1) q.2.th)).map (fun q => ctxNum (.seq e.1 q.1)))
/-- A sequencer context issues when it is its turn among the ready ones, round-robin; in which order these stand, the spec does not
say (R268, log 72). -/
def State.seqTurn (s : State) (ag : Agent) : Bool :=
  match ag, s.clOf ag with
  | .seq _ _, some cl =>
    roundRobin (kvGet 0 (s.cluster cl).lastSeq (engNum (s.ownEng ag))) (s.seqsReady cl (s.ownEng ag)) == some (ctxNum ag)
  | .seq _ _, none => false
  | _, _ => true
/-- A thread takes its turn, which its slot or its sequencer gives it. -/
def State.takesTurn (s : State) (ag : Agent) : State :=
  match ag, s.clOf ag with
  | .seq _ _, some cl => s.modCluster cl (fun q => { q with lastSeq := kvSet q.lastSeq (engNum (s.ownEng ag)) (ctxNum ag) })
  | _, _ => s.unchoose ag

/-- CLAUSE_START (R73). A thread at a header meets its join first, and then starts the clause that its slot has chosen it for. One
that has parked inside a clause goes on there when its slot chooses it again (R189). -/
def execClauseStart (ag : Agent) (s : State) : Host.Outcome State Fault Refusal :=
  .next (match s.thread? ag with
    | none => s
    | some th =>
      if !s.issuable ag th || !s.seqTurn ag then s
      else if !th.clause.isEmpty then
        (if s.mayRetry ag th && (th.running || s.chosen ag) then { s.takesTurn ag with cur := some ag } else s)
      else if th.park != .run then s
      else match s.atJoin ag th with
        | .wait => (s.unchoose ag).parkThread ag .join
        | .pass r =>
          match s.passJoin ag r with
          | some s1 => s1
          | none => (s.unchoose ag).takeTrap ag (headerTrap th 0x10 0 none)
        | .go => if s.chosen ag then (s.takesTurn ag).startClause ag th else s)

/-! ### ISSUE_CHOICE (R187 to R190) -/

/-- A fragment of an issue slot with what the slot's choice looks at. -/
structure Cand where
  ag : Agent
  th : Thread
  order : Nat
  team : Nat
  prio : Nat
  ready : Bool

/-- PRI of the clause that a fragment stands in, or is to start. -/
def State.headerPri (s : State) (ag : Agent) (th : Thread) : Nat :=
  if !th.clause.isEmpty then th.pri else match s.fetchFor ag th.pc with
  | .ok (h, _) => hdrPri h
  | .error _ => 0

/-- The fragments bound to a slot. -/
def State.slotFrags (s : State) (cl core slot : Nat) : List Cand :=
  (s.crews.filter (fun e => onCore cl core e.2)).flatMap (fun e =>
    let pr := match s.cast? e.2.vf e.2.key with | some k => k.launch.prio | none => 0
    (e.2.body.teams.filter (fun t => t.2.slot == slot)).flatMap (fun t =>
      (t.2.frags.filter (fun f => !f.2.spilled)).map (fun f =>
        let ag := Agent.frag e.1 t.1 f.1
        { ag := ag, th := f.2, order := e.2.order, team := t.1, prio := s.headerPri ag f.2 + pr, ready := s.readyNow ag f.2 })))

/-- The slot still runs a clause, or has chosen its next. -/
def State.slotBusy (s : State) (cl core slot : Nat) (cs : List Cand) : Bool :=
  (kvFind (s.cluster cl).running (4 * core + slot)).isSome || cs.any (fun c => c.th.running)

/-- A fragment's age runs from when it became ready, and how long it has been unready from when it ceased to be (R189, R190). -/
def Thread.noteReady (cyc : Nat) (ready : Bool) (th : Thread) : Thread :=
  if ready then (if th.unready = 0 then th else { th with ready := cyc, unready := 0 })
  else if th.unready = 0 then { th with unready := cyc }
  else th
def Cand.note (cyc : Nat) (c : Cand) : Cand := { c with th := c.th.noteReady cyc c.ready }

/-- What a thread waits for may come without a change of it. -/
def Park.outside : Park → Bool
  | .word | .line => true
  | _ => false
/-- Fragments that a step has changed, or that wait for a barrier word or a line, and that do not run a clause: whether they are ready
is noted as it changes. -/
def State.noteReady (s0 s : State) : State :=
  (s.crews.filter (fun e => e.2.resident)).foldl (fun s e =>
    e.2.body.teams.foldl (fun s t => t.2.frags.foldl (fun s f =>
      let ag := Agent.frag e.1 t.1 f.1
      if f.2.running || f.2.spilled || (!f.2.park.outside && s0.thread? ag == some f.2) then s
      else
        let th := f.2.noteReady s.cyc (s.readyNow ag f.2)
        if th = f.2 then s else s.modThread ag (fun x => { x with ready := th.ready, unready := th.unready })) s) s) s

def Cand.age (cyc : Nat) (c : Cand) : Nat := cyc - c.th.ready
def activeCount (cs : List Cand) : Nat := (cs.filter (fun c => c.th.active)).length
def setCand (cs : List Cand) (ag : Agent) (f : Thread → Thread) : List Cand :=
  cs.map (fun c => if c.ag == ag then { c with th := f c.th } else c)

/-- The waiting fragment that a free place goes to: a ready one before others, the longest ready first. -/
def nextWaiting (cyc : Nat) (cs : List Cand) : Option Cand :=
  let ws := cs.filter (fun c => !c.th.active && (c.ready || c.th.park == .run))
  let rs := ws.filter Cand.ready
  let pick : List Cand → Option Cand := fun l => l.foldl (fun b c => match b with
    | some x => if x.age cyc < c.age cyc then some c else some x
    | none => some c) none
  match pick rs with
  | some c => some c
  | none => pick ws

def fillPlaces (cyc : Nat) : Nat → List Cand → List Cand
  | 0, cs => cs
  | n + 1, cs =>
    if 8 ≤ activeCount cs then cs
    else match nextWaiting cyc cs with
      | some c => fillPlaces cyc n (setCand cs c.ag (fun th => { th with active := true, entered := cyc }))
      | none => cs

/-- The active fragment that a promoted one replaces: the one unready longest, else the one that has gone longest without
starting a clause (R190). -/
def victimOf (cs : List Cand) (fresh : List Agent) : Option Cand :=
  let av := cs.filter (fun c => c.th.active && !fresh.contains c.ag)
  let lame := av.filter (fun c => c.th.unready != 0)
  let least : (Cand → Nat) → List Cand → Option Cand := fun f l => l.foldl (fun b c => match b with
    | some x => if f c < f x then some c else some x
    | none => some c) none
  match least (fun c => c.th.unready) lame with
  | some c => some c
  | none => least (fun c => c.th.started) av

def promoteAll (cyc : Nat) : List Cand → List Cand → List Agent → List Cand
  | [], cs, _ => cs
  | w :: ws, cs, fresh =>
    let lame := cs.any (fun c => c.th.active && c.th.unready != 0 && decide (64 < cyc - c.th.unready))
    if 8 ≤ activeCount cs && (lame || 256 ≤ w.age cyc) then
      match victimOf cs fresh with
      | some v => promoteAll cyc ws (setCand (setCand cs v.ag (fun th => { th with active := false, ready := cyc })) w.ag
          (fun th => { th with active := true, entered := cyc })) (w.ag :: fresh)
      | none => cs
    else promoteAll cyc ws cs fresh

/-- Of two fragments of a team the one on the taken side of the split that separates them comes first. -/
def takenFirst (a b : Thread) : Bool :=
  match a.stack.find? (fun r => b.stack.any (fun q => q.sid == r.sid && q.taken != r.taken)) with
  | some r => r.taken
  | none => true

/-- The order of R189 between two ready fragments. -/
def Cand.before (cyc : Nat) (overdue : Bool) (a b : Cand) : Bool :=
  if !overdue && a.prio != b.prio then decide (b.prio < a.prio)
  else if a.age cyc != b.age cyc then decide (b.age cyc < a.age cyc)
  else if overdue && a.prio != b.prio then decide (b.prio < a.prio)
  else if a.th.entered != b.th.entered then decide (a.th.entered < b.th.entered)
  else if a.order != b.order then decide (a.order < b.order)
  else if a.team != b.team then decide (a.team < b.team)
  else takenFirst a.th b.th

def bestOf (cyc : Nat) (cs : List Cand) : Option Cand :=
  let rs := cs.filter (fun c => c.ready && c.th.active)
  let old := rs.filter (fun c => decide (256 ≤ c.age cyc))
  let late := !old.isEmpty
  (if late then old else rs).foldl (fun b c => match b with
    | some x => if c.before cyc late x then some c else some x
    | none => some c) none

/-- ISSUE_CHOICE: at a clause boundary a slot notes which of its fragments are ready, fills and exchanges the places of its
active set, and chooses the fragment that runs its next clause. -/
def execIssueChoice (cl core slot : Nat) (s : State) : Host.Outcome State Fault Refusal :=
  .next (
    let cs := s.slotFrags cl core slot
    if s.slotBusy cl core slot cs || !cs.any Cand.ready then s
    else
      let c1 := fillPlaces s.cyc 8 (cs.map (Cand.note s.cyc))
      let fresh := (c1.filter (fun c => c.th.active && !cs.any (fun x => x.ag == c.ag && x.th.active))).map Cand.ag
      let c2 := promoteAll s.cyc (c1.filter (fun c => c.ready && !c.th.active)) c1 fresh
      let s1 := c2.foldl (fun s c => s.modThread c.ag (fun _ => c.th)) s
      match bestOf s.cyc c2 with
      | some c => s1.modCluster cl (fun q => { q with running := kvSet q.running (4 * core + slot) c.ag })
      | none => s1)

/-! ### Stash fills and held loads (R155, R159) -/

/-- A line filled from a global line as a crew reads that one, with its granule's label. -/
def Pad.fill (p : Pad) (line g : Nat) (byteAt : Nat → Byte) (lab : Lbl) : Pad :=
  { p with bytes := (List.range 128).foldl (fun m k => kvPut 0 m (128 * line + k) (byteAt (128 * g + k))) p.bytes
           labs := if lab = p.base then kvDel p.labs line else kvSet p.labs line lab
           absent := dropAll p.absent line, failed := dropAll p.failed line, poison := dropAll p.poison line
           filled := kvSet p.filled line g, wanted := kvDel p.wanted line }

/-- STASH_FILL: an absent line that the crew has touched is filled from its global address, with its granule's label, and
tracked as a copy (R159). Other crews of the core that hold the global line uncommitted commit first (R205), the line
enters the scratchpad log within its limits (R333, R334), which stands in the L1 (R1), and no older clean copy is left there (R195).
A poisoned line is consumed (R344). -/
def execStashFill (cid line : Nat) (s : State) : Host.Outcome State Fault Refusal :=
  .next (match kvFind s.crews cid with
    | none => s
    | some c =>
      match kvFind c.body.pad.wanted line with
      | none => s
      | some g =>
        if !c.resident then s
        else if s.l1Bad c.cl c.core g || (s.bad g && !s.storedWhole c g) then
          s.consumed cid (128 * g)
        else match s.commitOthers (s.holders c.cl c.core g (some cid)) false with
          | (false, s1) => s1
          | (true, s1) => match s1.padRoom cid line with
            | (false, s2) => s2
            | (true, s2) =>
              let s3 := (s2.touchHome c.vf (128 * g) 128 false).modL1 c.cl c.core (fun l => { l with clean := kvDel l.clean g })
              (s3.modCrew cid (fun c => { (c.modBody (fun b => ({ b with
                pad := b.pad.fill line g (s2.coreByte c false) (s2.granLab g) }).feed line)) with
                padLog := addOnce c.padLog line })).l1Trim c.cl c.core)

/-- Lanes of a held load whose line will not come. -/
def HeldLoad.lostLanes (h : HeldLoad) : KV Nat := h.offs.filter (fun e => h.lost.contains (padLine e.2))
/-- The offset of the first lane whose line turned out poisoned (R343). -/
def HeldLoad.bad? (h : HeldLoad) : Option Nat := (h.offs.find? (fun e => h.spoilt.contains (padLine e.2))).map Prod.snd
/-- Each line of a held load has been present since it was issued (R155). -/
def HeldLoad.here (h : HeldLoad) : Bool := h.need.isEmpty

/-- A value that has arrived is written as the load left it to be written, with the labels that its lines had. -/
def deliver (k : Nat) (h : HeldLoad) : M Unit := do
  let th ← myTh
  modTh (fun th => { th with exm := h.mask, pcl := 0 })
  let labs : Nat → List Lbl := fun g =>
    (h.offs.filter (fun e => e.1 / 32 == g)).map (fun e => kvGet 0 h.labs (padLine e.2)) ++
      ((h.alab.find? (fun e => e.1 == g)).map Prod.snd).getD []
  writeV h.dst labs (fun l => loadLane h.ty (h.byteNat (kvGet 0 h.offs l) (tySize h.ty)))
  modTh (fun t => { t with exm := th.exm, pcl := th.pcl, pend := t.pend.set k { t.pend.getD k (Pending.mk [] 0 0 none) with held := none } })

/-- One register with what a window has changed of it taken back: a uniform register that still has the window's value, the window's
bits of a mask but for lanes that have exited since, and its lanes of a register word; a label that is still the window's. -/
def backLab (old now cur : Lbl) : Lbl := if cur = now then old else cur
def SReg.back (u : SReg × SReg) (r : SReg) : SReg := if r = u.2 then u.1 else r
def MReg.back (live : Mask) (u : MaskUndo) (r : MReg) : MReg :=
  { bits := (r.bits &&& ~~~u.bits) ||| (u.old &&& u.bits &&& live), lab := backLab u.lab u.labNow r.lab }
def RegWord.back (u : WordUndo) (r : RegWord) : RegWord :=
  { lanes := (List.range 32).map (fun j => if u.lanes.getLsbD j then u.old.getD j 0 else r.lanes.getD j 0)
    lab := backLab u.lab u.labNow r.lab }
/-- What the instructions of a held load's window have done goes back; what other fragments of the team have done meanwhile stays
(R41, R125). -/
def Undo.apply (u : Undo) (cid t : Nat) (ag : Agent) (s : State) : State :=
  let s1 := s.modTeam cid t (fun tm => { tm with
    s := u.s.foldl (fun m e => kvPut {} m e.1 ((kvGet {} m e.1).back e.2)) tm.s
    m := u.m.foldl (fun m e => kvPut {} m e.1 ((kvGet {} m e.1).back tm.live e.2)) tm.m
    v := u.v.foldl (fun m e => kvPut {} m e.1 ((kvGet {} m e.1).back e.2)) tm.v })
  match u.exm with | some m => s1.modThread ag (fun th => { th with exm := m &&& th.f }) | none => s1

/-- The load that stands k-th among a fragment's outstanding instructions faults: its window is discarded, and the trap
frame names the load (R41). -/
def State.failHeld (s : State) (ag : Agent) (cid t k : Nat) (h : HeldLoad) (tr : Trap) : State :=
  let s1 := h.undo.apply cid t ag s
  let s2 := s1.modThread ag (fun th => { th with
    pc := h.pc, slot := h.slot, clause := h.clause, pend := th.pend.take k, park := .run, count := h.count, began := none })
  s2.takeTrap ag tr

/-- LONG_LATENCY_COMPLETE (R40). The k-th outstanding instruction of a fragment is a load held for absent lines: it completes
when all have arrived, and faults when one never will; poison among its bytes it then consumes (R343). Any other has its result
already, and completes: an instruction of its window that comes later and names its destination then raises no 0x03, which the spec
leaves open (R41, log 66). -/
def execLongLatencyComplete (ag : Agent) (k : Nat) (s : State) : Host.Outcome State Fault Refusal :=
  .next (match ag, s.thread? ag with
    | .frag cid t _, some th =>
      match th.pend[k]?, kvFind s.crews cid with
      | some p, some c =>
        match p.held with
        | none => s.modThread ag (fun th => { th with pend := th.pend.eraseIdx k })
        | some h =>
          if !c.resident then s
          else if !h.lostLanes.isEmpty then
            let lost := h.lostLanes
            s.failHeld ag cid t k h
              { code := 0x14, lanes := maskOf (kvKeys lost), addrs := lost.map (fun (e : Nat × Nat) => (e.1, BitVec.ofNat 64 e.2))
                alab := h.flab }
          else if h.here then
            match h.bad? with
            | some off => s.consumedPad cid off
            | none => match deliver k h { s with cur := some ag } with
              | .ok _ s1 => { s.noteUndo s1 ag k with cur := s.cur }
              | .error (.trap tr) _ => s.failHeld ag cid t k h { tr with lanes := h.mask }
              | .error _ _ => s
          else s
      | _, _ => s
    | _, some th =>
      if k < th.pend.length then s.modThread ag (fun th => { th with pend := th.pend.eraseIdx k }) else s
    | _, none => s)

/-- STORE_PERFORMED (R152): one store leaves WAIT class st. -/
def execStorePerformed (ag : Agent) (s : State) : Host.Outcome State Fault Refusal :=
  .next (s.modThread ag (fun th => { th with outSt := th.outSt - 1 }))

/-- RED_ACKNOWLEDGED (R228): one RED leaves WAIT class at. -/
def execRedAcknowledged (ag : Agent) (s : State) : Host.Outcome State Fault Refusal :=
  .next (s.modThread ag (fun th => { th with outAt := th.outAt - 1 }))

/-! ### Fusion and restored spills (R29, R30) -/

/-- FRAGMENT_FUSION: two siblings that wait at their join fuse, with no load of theirs still held; one whose sibling has ended goes on
alone. A span whose close finds the label table full faults there (R45): of two siblings the first listed takes the
fault, at the join's header, which the spec leaves open (R61, log 70). -/
def execFragmentFusion (cid team sid : Nat) (s : State) : Host.Outcome State Fault Refusal :=
  .next (match s.team? cid team with
    | none => s
    | some tm =>
      match tm.frags.filter (fun e => Sys2Proof.Machine.atJoin e.2 && match e.2.stack with | q :: _ => q.sid == sid | [] => false) with
      | [(fn, th)] =>
        let ag := Agent.frag cid team fn
        if tm.others fn sid || !s.mayGo ag th then s
        else
          match th.stack with
          | r :: _ => match s.passJoin ag r with
            | some s1 => s1.modThread ag (fun th => { th with park := .run })
            | none => (s.modThread ag (fun th => { th with park := .run })).takeTrap ag (headerTrap th 0x10 0 none)
          | [] => s
      | [(a, x), (b, y)] =>
        if !s.mayGo (.frag cid team a) x || !s.mayGo (.frag cid team b) y then s
        else match s.fuse cid team sid with
        | some s1 => s1
        | none => (s.modThread (.frag cid team a) (fun th => { th with park := .run })).takeTrap (.frag cid team a)
            (headerTrap x 0x10 0 none)
      | _ => s)

/-- SPILL_RESTORE: the side that found no split-table entry runs once the other side waits at the join or has ended. Where
what was written of it to the context area is lost, its cast ends (R326, R343). -/
def execSpillRestore (cid team frag : Nat) (s : State) : Host.Outcome State Fault Refusal :=
  .next (match kvFind s.crews cid, s.team? cid team with
    | some c, some tm => match kvFind tm.frags frag with
      | some th => match th.spilled, th.stack with
        | true, r :: _ =>
          let waits := tm.frags.any (fun e => e.1 != frag && e.2.park == .join && match e.2.stack with
            | q :: _ => q.sid == r.sid
            | [] => false)
          if waits || !tm.others frag r.sid then
            if s.savedBad c then s.abortCrew cid 0x18 0 else
            s.modThread (.frag cid team frag) (fun th => { th with spilled := false, ready := s.cyc, unready := 0 })
          else s
        | _, _ => s
      | none => s
    | _, _ => s)

/-! ### TRAP_ENTRY (R42, R328) -/

/-- A fragment whose fault waits for the trap frame, or for results still outstanding, enters its handler. -/
def execTrapEntry (ag : Agent) (s : State) : Host.Outcome State Fault Refusal :=
  .next (match ag, s.thread? ag with
    | .frag cid t fn, some th =>
      match th.park with
      | .fault tr =>
        if ((s.team? cid t).bind Team.frame).isSome || th.pend.any (fun p => p.held.isSome) || !s.issuable ag th then s
        else s.enterHandler cid t fn tr
      | _ => s
    | _, _ => s)

/-! ### Register growth (R35, R37) -/

def growOf (th : Thread) : Option Nat := match th.park with | .grow n => some n | _ => none

/-- REGISTER_GRANT: the team's pending request is granted whole. An RGROW then completes; a SCOPEO finds its words in the
reserve. -/
def execRegisterGrant (cid team : Nat) (s : State) : Host.Outcome State Fault Refusal :=
  .next (match kvFind s.crews cid, s.team? cid team with
    | some c, some tm => match tm.frags with
      | [(fn, th)] => match growOf th with
        | some n =>
          if !c.resident then s
          else if s.grantable cid team n then
            (s.giveWords cid team n).modThread (.frag cid team fn) (fun th => { th with
              park := .granted, unready := 0, ready := s.cyc })
          else s.askHeld c.cl c.core
        | none => s
      | _ => s
    | _, _ => s)

/-- Every resident team of a core is blocked in growth, and no request can be granted (R37). -/
def State.growStuck (s : State) (cl core : Nat) : Bool :=
  let cs := s.crews.filter (fun e => onCore cl core e.2)
  let teams := cs.flatMap (fun e => (e.2.body.teams.filter (fun t => !t.2.retired)).map (fun t => (e.1, t.1, t.2)))
  !teams.isEmpty && teams.all (fun e => match e.2.2.frags with
    | [(_, th)] => match growOf th with
      | some n => !s.couldGrant e.1 e.2.1 n
      | none => false
    | _ => false)

/-- GROW_DEADLOCK: the youngest crew is evicted; the oldest, alone, ends with its cast. -/
def execGrowDeadlock (cl core : Nat) (s : State) : Host.Outcome State Fault Refusal :=
  .next (
    if !s.growStuck cl core then s
    else
      let cs := (s.crews.filter (fun e => onCore cl core e.2)).map (fun e => (e.2.order, e.1))
      let young := cs.foldl (fun b e => if b.1 ≤ e.1 then e else b) (0, 0)
      match cs with
      | [(_, cid)] => s.abortCrew cid 0x22 0
      | _ => s.relaunch young.2 0x22 false)

end Sys2Proof.Machine
end

