-- ==== Sys2Proof/Machine/LadleEvents.lean ====
section
/-! DEFINITION. Slices and switches of a partition (R362, R370, R373, R374), the Ladle's swaps (R364, R374 to R376), page faults
taken by supervisor cores (R269, R329, R392), token buckets (R371, R372), and the frames of a pool (R368). An event that is
not enabled leaves the state as it is. -/

namespace Sys2Proof.Machine

/-! ### Slices (R373) -/

/-- Retirements and the entry's change take effect, and the host and the board controller are told (R342, R370, R390). -/
def State.boundary (s : State) (n : Nat) : State :=
  match kvFind s.parts n with
  | none => s
  | some p =>
    let cs := s.pendDead.filter (inClust p)
    let ks := s.pendDeadCores.filter (fun k => inClust p (k / 4))
    let p' : Part := match p.pending with
      | some (clust, vfs, slice, flags, reserved) => { p with
          clust := clust, vfs := vfs, slice := slice, flags := flags, reserved := reserved, pending := none
          incoming := p.incoming.filter vfs.getLsbD }
      | none => p
    { s with
      deadClusters := cs.foldl addOnce s.deadClusters, deadCores := ks.foldl addOnce s.deadCores
      pendDead := s.pendDead.filter (fun c => !cs.contains c)
      pendDeadCores := s.pendDeadCores.filter (fun k => !ks.contains k)
      hostLog := s.hostLog ++ cs.map Report.retiredCluster ++ ks.map (fun k => Report.retiredCore (k / 4) (k % 4))
      mgmtLog := s.mgmtLog ++ cs.map Report.retiredCluster ++ ks.map (fun k => Report.retiredCore (k / 4) (k % 4))
      switches := if p'.incoming.isNone then dropAll s.switches n else s.switches
      parts := kvSet s.parts n p' }

/-- A thread stands waiting in a TLBINV. -/
def inTlbinv (th : Thread) : Bool := th.park != .run && !th.clause.isEmpty && fOp (hereWord th) == 0xD3
/-- A thread stands in an instruction of R338 that has begun and waits: an atomic, a store, an append, an XFER, a PGMAP, a DECL, an
ENDORSE or an LRAISE. -/
def inUndone (th : Thread) : Bool :=
  let op := fOp (hereWord th)
  !th.clause.isEmpty && (th.asked.isSome ||
    ([0x23, 0x79, 0x7B, 0x7D, 0x80, 0x81, 0x82, 0x83, 0xA9, 0xAA, 0xAB, 0xBB, 0xC1, 0xC2, 0xD6].contains op &&
      match th.park with
      | .commit => true
      | .queue => true
      | .pair _ => true
      | _ => false))
/-- A step of an XFER of a crew is under way. It stops between its chunks, each of which is one event, and the boundary there is a commit
point (R221, R299). -/
def State.inXfer (s : State) (cid : Nat) : Bool :=
  (kvFind s.crews cid).any (fun c => (s.cluster c.cl).cq.any (fun m => m.cid == cid && !m.orphan && m.st == .accepted &&
    match m.kind with | .xfer _ => true | _ => false))
/-- That commit point cannot be made yet, or, in a pair, the window that it closes has not matched. -/
def State.xferWaits (s : State) (due cid : Nat) (c : Crew) : Bool :=
  s.inXfer cid && match c.copy with
    | .solo => s.commitWaits cid
    | .lead => decide (c.lastCommit < due) || !c.closed.isEmpty
    | .trail => false
/-- What saving a crew waits for: a rollback under way and a copy that has begun, whose arrival is a commit point (R338, R347, R362),
an operation of R338 that has begun or one that waits for a pin, a TLBINV (R360), the boundary of an XFER step (R221), and lines still
to be written through (R362). -/
def State.saveWaits (s : State) (due cid : Nat) (c : Crew) : Bool :=
  (s.cluster c.cl).cq.any (fun m => m.cid == cid && (m.orphan || m.running)) ||
  c.body.threads.any (fun th => th.park == .pinned || inTlbinv th || inUndone th) || s.xferWaits due cid c ||
  !s.wtReady c.cl c.core (s.dirtyLines c.cl c.core cid)

/-- Since when a partition's slice is to end. -/
def State.overSince (s : State) (vf : Nat) : Nat := ((s.partOf vf).bind (fun e => e.2.ending)).getD s.cyc
/-- The lines of a context that stand committed in some core's L1, those of crews that are gone among them: by their crews, and by their
virtual tags. -/
def State.ctxLines (s : State) (vf : Nat) : List (Nat × Nat × List Nat) :=
  s.clusters.flatMap (fun e => e.2.l1s.map (fun x => (e.1, x.1, (x.2.writers.filter (fun w =>
    w.2.any (fun k => (kvFind s.crews k).any (fun c => c.vf == vf)) ||
      (kvFind x.2.tags w.1).any (fun t => t / 2 ^ 64 == vf))).map Prod.fst)))
/-- What a slice end waits for. -/
def State.sliceWaits (s : State) (vf : Nat) : Bool :=
  (s.crews.filter (fun e => e.2.vf == vf && e.2.resident)).any (fun e => s.saveWaits (s.overSince vf) e.1 e.2) ||
    (s.ctxLines vf).any (fun w => !s.wtReady w.1 w.2.1 w.2.2)
/-- While a slice end waits, it is noted since when, and a pair in an XFER step closes its window (R221). -/
def State.askBoundary (s : State) (n vf : Nat) (cids : List Nat) : State :=
  let s1 : State := { s with parts := kvModify s.parts n (fun p => { p with ending := some (p.ending.getD s.cyc) }) }
  cids.foldl (fun t k => if t.inXfer k && (kvFind t.crews k).any (fun c => decide (c.lastCommit < t.overSince vf)) then t.forceClose k else t) s1

/-- The boundary of an XFER step is a commit point of an unpaired crew (R221). -/
def State.boundaryCommit (s : State) (cid : Nat) : State :=
  if s.inXfer cid && (kvFind s.crews cid).any (fun c => c.copy == .solo) then
    (if s.areaGone cid then s.abortCrew cid 0x07 0 else s.commitNow cid)
  else s
/-- A crew rolls back and its commit-point state is saved (R362). -/
def State.saveCrew (s : State) (cid : Nat) : State := (((s.boundaryCommit cid).record cid 5 0 [0]).rollback cid).unplace cid []
/-- The context's committed lines go home, where they need not wait (R362). -/
def State.wtCtx (s : State) (vf : Nat) : State :=
  (s.ctxLines vf).foldl (fun s w => if s.wtReady w.1 w.2.1 w.2.2 then s.wtLines w.1 w.2.1 w.2.2 else s) s

/-- The end of the slice of a running VF: its crews are saved, changes take effect, and the next VF with work is to come
in. -/
def State.endSlice (s : State) (n vf : Nat) : State :=
  let cs := (s.crews.filter (fun e => e.2.vf == vf && e.2.resident)).map Prod.fst
  let s1 := ((cs.foldl State.saveCrew s).wtCtx vf).modCtx vf (fun c => { c with
    bell := false, casts := c.casts.map (fun e => (e.1, { e.2 with gate := false, others := false })) })
  let s2 := s1.boundary n
  match kvFind s2.parts n with
  | none => s2
  | some p =>
    let next := if s2.partsOn.any (fun e => e.1 == n) then s2.nextWork p vf else none
    { s2 with
      parts := kvSet s2.parts n { p with running := none, ending := none, last := vf, out := some vf, incoming := next }
      switches := if next.isSome then s2.switches ++ [n] else s2.switches }

/-- The crews of a running VF on units that are retired at the slice boundary, with the other copies of their pairs (R370). -/
def State.doomed (s : State) (p : Part) (vf : Nat) : List Nat :=
  ((s.crews.filter (fun e => e.2.vf == vf && e.2.resident && inClust p e.2.cl &&
    (s.pendDead.contains e.2.cl || s.pendDeadCores.contains (4 * e.2.cl + e.2.core)))).flatMap (fun e => s.copies e.1)).eraseDups
/-- A due slice with no other VF to run begins anew with no rollback and no save; at this boundary changes take effect, and the crews on
units that are retired are saved, to be placed elsewhere (R370, R373, R378). -/
def State.newSlice (s : State) (n : Nat) (p : Part) (vf : Nat) : State :=
  let cs := s.doomed p vf
  if (s.crews.filter (fun e => cs.contains e.1)).any (fun e => s.saveWaits (s.overSince vf) e.1 e.2) then s.askBoundary n vf cs
  else
    let s1 := (cs.foldl State.saveCrew s).boundary n
    { s1 with parts := kvModify s1.parts n (fun p => { p with since := s.cyc, ending := none }) }

/-- SLICE_END (R373): a slice that has lasted its length ends when another VF has work, and else begins anew; a running VF with no work
ends its slice at once, and so does one that its partition loses. -/
def execSliceEnd (part : Nat) (s : State) : Out :=
  .next (match kvFind s.parts part with
    | none => s
    | some p => match p.running with
      | none => s
      | some vf =>
        let cs := (s.crews.filter (fun e => e.2.vf == vf && e.2.resident)).map Prod.fst
        if s.sliceOver part p vf then (if s.sliceWaits vf then s.askBoundary part vf cs else s.endSlice part vf)
        else if p.since + p.sliceLen ≤ s.cyc then s.newSlice part p vf
        else if p.ending.isSome then { s with parts := kvSet s.parts part { p with ending := none } }
        else s)

/-! ### The Ladle's swaps of a switch (R374, R375) -/

/-- SWAP_DOWN: the next page of the switch in progress goes to its tier, and its frame to the incoming context's pool. -/
def execSwapDown (vf page : Nat) (tier : Tier) (s : State) : Out :=
  .next (match s.switchNow with
    | some (_, p, v) =>
      if s.nextSwap p v == some (vf, page, tier) then
        (s.swapDown vf page tier v).2
      else s
    | none => s)

/-- SWITCH_IN: the next VF with work runs once the swap-downs for it are done and nothing that the outgoing context began is
left in the engines. The switch of a partition that has come to count as disabled is given up, and what waits for its boundary takes
effect, since it runs nothing (R369). -/
def execSwitchIn (part : Nat) (s : State) : Out :=
  .next (match s.partsOn.find? (fun e => e.1 == part) with
    | none =>
      let s1 : State := if s.switches.contains part then
          { s with switches := dropAll s.switches part, parts := kvModify s.parts part (fun p => { p with incoming := none }) }
        else s
      if (kvFind s1.parts part).any (fun p => p.running.isNone && s1.boundaryWork p) then s1.boundary part else s1
    | some (_, p) =>
      if p.running.isSome || (s.switches.contains part && s.switches.head? != some part) then s
      else if s.boundaryWork p then s.boundary part
      else match (match p.incoming with | some v => some v | none => s.nextWork p p.last) with
        | none => s
        | some v =>
          let left := s.clusters.any (fun e => e.2.cq.any (fun m => (m.orphan || m.running) &&
            (kvFind s.crews m.cid).any (fun c => p.vfs.getLsbD c.vf)))
          if left || (p.incoming.isSome && (s.nextSwap p v).isSome) then s
          else if p.incoming.isNone && (s.nextSwap p v).isSome then
            { s with parts := kvSet s.parts part { p with incoming := some v }, switches := s.switches ++ [part] }
          else
            let s1 : State := { s with switches := dropAll s.switches part }
            let s2 := s1.modCtx v (fun c => { c with lastSet := c.recordedSet, recordedSet := [], bell := false })
            let s3 := (kvKeys (s2.ctx v).casts).foldl (fun s key => s.newPeriod v key s.cyc) s2
            { s3 with parts := kvModify s3.parts part (fun p => { p with
                running := some v, out := none, incoming := none, since := s.cyc, ending := none }) })

/-! ### Waiting for a page (R329, R364, R392) -/

def resumeThread (page cyc : Nat) (th : Thread) : Thread :=
  let hit := match th.park with
    | .page va _ _ => va / 65536 == page
    | .stopped _ _ va => (stoppedOn th).isSome && va / 65536 == page
    | _ => false
  if hit then { th with park := .run, ready := cyc, unready := 0 } else th

/-- Everything that waits for a page of a context tries its access again. -/
def State.resumePage (s : State) (vf page : Nat) : State :=
  let g : Thread → Thread := resumeThread page s.cyc
  let mine : List Nat := (s.crews.filter (fun e => e.2.vf == vf)).map Prod.fst
  let k : Cmd → Cmd := fun m =>
    if mine.contains m.cid && m.wants.any (fun w => w.1 / 65536 == page) then { m with wants := none } else m
  { s with
    crews := s.crews.map (fun e => if e.2.vf == vf then (e.1, e.2.modBody (fun b => { b with
      teams := b.teams.map (fun t => (t.1, { t.2 with frags := t.2.frags.map (fun f => (f.1, g f.2)) }))
      seqs := b.seqs.map (fun q => (q.1, { q.2 with th := g q.2.th })) })) else e)
    clusters := s.clusters.map (fun e => (e.1, { e.2 with mq := e.2.mq.map k, cq := e.2.cq.map k }))
    ladleQ := s.ladleQ.filter (fun w => !(w.1 == vf && w.2.1 / 65536 == page))
    ctxs := kvModify s.ctxs vf (fun c => { c with mapping := kvDel c.mapping page }) }

/-- What waits for a page, apart from lane-less agents of trailing copies, which wait for their leading copies (R392). -/
def State.waitersOn (s : State) (vf page sub : Nat) : List Waiter :=
  (s.waiters vf).filter (fun w => w.va / 65536 == page && w.sub == sub &&
    !(w.laneless && (kvFind s.crews w.cid).any (fun c => c.copy == .trail)))

def abortAll (s : State) (ws : List Waiter) (code : Nat) : State :=
  ws.foldl (fun s w => s.abortCrew w.cid code 0) s

/-- SWAP_UP: the recorded pages of a running or incoming context come up in ascending VA as frames are free (R374). -/
def execSwapUp (vf page : Nat) (s : State) : Out :=
  .next (
    let rs := if s.running vf then (s.ctx vf).lastSet
      else if s.partsOn.any (fun e => e.2.incoming == some vf) then (s.ctx vf).recordedSet else []
    let first := (rs.filter (fun p => (kvFind (s.ctx vf).tierPages p).isSome)).foldl (fun (b : Option Nat) p => match b with
      | some q => some (min p q)
      | none => some p) none
    if first != some page then s
    else match s.swapUp vf page with
      | some s1 => s1.resumePage vf page
      | none => s)

/-- A swapped page is brought up for those that wait for it; with no frame to be had their casts end (R364). -/
def State.serveUp (s : State) (vf page : Nat) (ws : List Waiter) : State :=
  if s.pageHere vf page || (kvFind (s.ctx vf).tierPages page).isNone then s.resumePage vf page
  else match s.bringUp vf page (ws.flatMap Waiter.pages) with
    | .room s1 => s1.resumePage vf page
    | .wait s1 => s1
    | .impossible => (abortAll s ws 0x13).resumePage vf page

/-- The first of some cycles. -/
def firstOf (ts : List Nat) : Nat := ts.min?.getD 0
/-- DEMAND_SWAP_UP: served after the swap-downs of a switch in progress, in arrival order (R376). -/
def execDemandSwapUp (vf va : Nat) (s : State) : Out :=
  .next (
    let page := va / 65536
    let ws := s.waitersOn vf page 1
    let asked := s.ladleQ.filter (fun w => w.1 == vf && w.2.1 / 65536 == page)
    if ws.isEmpty && asked.isEmpty then s
    else if !s.firstAsked (firstOf (ws.map Waiter.since ++ asked.map (fun w => w.2.2))) then s
    else s.escalated vf (fun s => s.serveUp vf page ws))

/-- A page is mapped for lane-less agents that wait for it, as PGMAP maps one from its second step on (R392): with the attributes that
%pgattr held as that began (R354), and, where frames must first be freed, in its turn (R376). -/
def State.serveMap (s : State) (vf va : Nat) (ws : List Waiter) : State :=
  let page := va / 65536
  let attr := (kvFind (s.ctx vf).mapping page).getD (s.ctx vf).pgattr
  match s.mapAt (s.ctx vf).root va with
  | .missing n =>
    if (s.ctx vf).pool.length < n + 1 && !s.firstAsked (firstOf (ws.map Waiter.since)) then s
    else match s.makeRoom vf (n + 1) [page] (n + 1) with
      | .room s1 => (s1.mapNow vf va n attr).resumePage vf page
      | .wait s1 => s1.modCtx vf (fun c => { c with mapping := kvSet c.mapping page attr })
      | .impossible => (abortAll s ws 0x13).modCtx vf (fun c => { c with mapping := kvDel c.mapping page })
  | _ => s.resumePage vf (va / 65536)

/-- SUPERVISOR_PAGE_MAP (R392). -/
def execSupervisorPageMap (vf va : Nat) (s : State) : Out :=
  .next (
    let ws := (s.waitersOn vf (va / 65536) 0).filter Waiter.laneless
    if ws.isEmpty then s else s.escalated vf (fun s => s.serveMap vf va ws))

/-- What the firmware does about the fault of a stream: a page of its own access or fetch is mapped or brought up; any other fault
ends the cast. -/
def State.serveStream (s : State) (cid : Nat) (c : Crew) (code : Nat) (th : Thread) : State :=
  let end_ : State := s.abortCrew cid code (BitVec.ofNat 64 th.pc)
  match stoppedOn th with
  | some (va, sub) =>
    let w : Waiter := { cid := cid, laneless := true, va := va, sub := sub, pages := [], since := th.unready }
    if 2 ≤ sub then end_
    else if s.pageHere c.vf (va / 65536) then s.resumePage c.vf (va / 65536)
    else if c.copy == .trail then s
    else if sub = 1 then (if s.firstAsked w.since then s.serveUp c.vf (va / 65536) [w] else s)
    else s.serveMap c.vf va [w]
  | none => end_

/-- SEQUENCER_FAULT (R269): a supervisor core acts on the fault that has stopped a sequencer context. -/
def execSequencerFault (cid ctx : Nat) (s : State) : Out :=
  .next (match kvFind s.crews cid with
    | none => s
    | some c => match kvFind c.body.seqs ctx with
      | none => s
      | some q => match q.th.park with
        | .stopped code _ _ => s.escalated c.vf (fun s => s.serveStream cid c code q.th)
        | _ => s)

/-! ### Token buckets (R371, R372) -/

/-- Metered buckets: controller and VF. -/
def State.buckets (s : State) : List (Nat × Nat) :=
  s.ctl.filterMap (fun e =>
    let ofs := e.1 % 2 ^ 16
    if isBucketReg ofs && ofs % 16 == 0 && e.2.getLsbD 63 then some (e.1 / 2 ^ 16, (ofs - 0x2000) / 16) else none)

/-- BUCKET_REFILL: one window of 1,050 cycles. -/
def execBucketRefill (s : State) : Out :=
  .next (
    if s.cyc / 1050 ≤ s.refilled then s
    else if s.buckets.isEmpty then { s with refilled := s.cyc / 1050 }
    else s.buckets.foldl (fun s (b : Nat × Nat) =>
      let w := s.mcReg b.1 (0x2000 + 16 * b.2)
      let rate := min (w.extractLsb' 0 13).toNat 5600
      let lvl := min (s.tbLevelOf b.1 b.2 + rate * 1000) (4096 * tbBurst w)
      ({ s with tbLevel := kvPut 4096 s.tbLevel (tbKey b.1 b.2) lvl }).tbDrain b.1 b.2) { s with refilled := s.refilled + 1 })

/-- METERED_REQUEST: a request on a VF's behalf that no access of the model makes by itself, such as the read of a line's scale bytes or
a poll of the dispatcher (log 2). -/
def execMeteredRequest (mc vf bytes : Nat) (s : State) : Out :=
  .next (
    if 16 ≤ mc || 256 ≤ vf then s else s.meter vf mc bytes)

/-- TBC_WRITE. -/
def execTbcWrite (mc vf : Nat) (val : Word) (s : State) : Out :=
  .next (if 256 ≤ vf then s else s.ctlWrite mc (0x2000 + 16 * vf) val)

/-! ### Frames of a pool (R368) -/

/-- A frame stands in a context's page table: as a table of its walk or under a leaf entry, be it by the window of the module's own ID
(R316). -/
def State.inTables (s : State) (root f : Nat) : Bool :=
  let at_ : Word → Nat := fun e => s.normPa (pteFrame e)
  (decide (root ≤ f) && decide (f < root + 2 ^ 18) && root != 0) ||
  (s.tableIdx root 32768).any (fun i =>
    let e1 := s.home64 (root + 8 * i)
    pteV e1 && tableOk e1 && (at_ e1 == f || (s.tableIdx (pteFrame e1) 8192).any (fun j =>
      let e2 := s.home64 (pteFrame e1 + 8 * j)
      pteV e2 && (if pteLeaf e2 then at_ e2 / 2 ^ 29 == f / 2 ^ 29
        else tableOk e2 && (at_ e2 == f || (s.tableIdx (pteFrame e2) 8192).any (fun k =>
          let e3 := s.home64 (pteFrame e2 + 8 * k)
          pteV e3 && at_ e3 == f))))))

/-- A frame is in a pool, held for a VF, or in a page table. -/
def State.frameUsed (s : State) (f : Nat) : Bool :=
  s.ctxs.any (fun e => e.2.pool.contains f || e.2.frames.contains f || s.inTables e.2.root f)

/-- POOLADD: a run of frames is checked whole and joins the pool zeroed, or none of it does. -/
def execPooladd (vf : Nat) (val : Word) (s : State) : Out :=
  .next (
    if 256 ≤ vf then s
    else
      let f0 := (val.extractLsb' 16 36).toNat * 65536
      let fs := (List.range ((val.extractLsb' 52 12).toNat + 1)).map (fun k => f0 + 65536 * k)
      let res : Nat := if val.extractLsb' 0 16 != 0 then 3
        else if fs.any (fun f => decide (2 ^ 40 ≤ f)) then 1
        else if fs.any s.frameUsed then 2
        else 0
      if res = 0 then
        (fs.foldl State.zeroFrame s).modCtx vf (fun c => { c with pool := c.pool ++ fs, poolOutcome := 0 })
      else s.modCtx vf (fun c => { c with poolOutcome := res }))

/-- POOLREL: frames leave the pool, from its end, for the operator. -/
def execPoolrel (vf : Nat) (val : Word) (s : State) : Out :=
  .next (
    if 256 ≤ vf then s
    else
      let n := (s.ctx vf).pool.length
      let k := min n (val.extractLsb' 0 32).toNat
      (s.modCtx vf (fun c => { c with pool := c.pool.take (n - k), poolRemoved := k })).lowMark vf n)

end Sys2Proof.Machine
end

