-- ==== Sys2Proof/Machine/HostEvents.lean ====
section
/-! DEFINITION. The fabric's packets (R379 to R382), the host's registers (R387), owners and handles (R383, R388), turnover and
reset (R350, R359, R377), the SPDM responder (R389), power and cooling (R390), the loader (R16, R90), the debugger (R109) and
the partition table (R369). An event that is not enabled leaves the state as it is. -/

namespace Sys2Proof.Machine

/-! ### The fabric (R379 to R382) -/

/-- FABRIC_ID_ASSIGN. -/
def execFabricIdAssign (id : Nat) (s : State) : Out := .next (if id < 192 then { s with fabricId := some id } else s)

/-- A packet has come from a peer of the domain over some port. -/
def State.hears (s : State) (peer : Nat) : Bool :=
  s.fabricId.isSome && decide (peer < 192) && s.fabricId != some peer && decide (s.portsDown.length < 24)

/-- A valid entry of a VF's access-control table for a peer, its VF and its job key. -/
def AclEntry.from (e : AclEntry) (peer pvf : Nat) (jobkey : Word) : Bool :=
  e.valid && e.q0 == jobkey && aclByte e 0 == peer && aclByte e 1 == pvf
/-- The receiver's check (R382). -/
def State.admits (s : State) (p : FabricPacket) (rd wr : Bool) : Bool :=
  (kvVals (s.ctx p.vf).acl).any (fun e => e.from p.peer p.pvf p.jobkey && e.opens p.pa p.bytes rd wr)

/-- The new value of an atomic's location. -/
def fabricCombine (op : AOp) (ty : Ty) (bytes old : Nat) (x : Word) : Nat :=
  if bytes = 8 then combine64 op (ty == .i64) old x else combine op ty old (x.extractLsb' 0 32)

/-- A store from outside is performed at home once it need not wait (R159, R217). -/
def State.storeHome (s : State) (vf : Nat) (bs : List (Nat × Byte)) : State :=
  let lines := (bs.map (fun e => lineOf e.1)).eraseDups
  if lines.all s.storable then s.uncharged (s.perform vf bs) else s.askHolders lines

/-- The promotion that an access triggers which arrives from the fabric as an acquire at .sys (R208, R212). -/
def State.fabricPromote (s : State) (p : FabricPacket) : Bool × State :=
  match p.op with
  | .store _ => (true, s)
  | _ => if p.acq then s.promoteNotices (s.notices.filter (fun n => n.line == lineOf p.pa)) else (true, s)

/-- FABRIC_PACKET_RECEIVE: a packet that the target VF's table does not allow is dropped, and the host is told; one that it
admits is performed at its home, an acquire after the promotion that it triggers. What a load or an atomic returns is the peer's
affair. -/
def execFabricPacketReceive (p : FabricPacket) (s : State) : Out :=
  .next (
    if !s.hears p.peer || 256 ≤ p.vf || 2 ^ 40 < p.pa + p.bytes then s
    else
      let (rd, wr) : Bool × Bool := match p.op with
        | .load => (true, false)
        | .store _ => (false, true)
        | .atomic _ _ _ => (true, true)
      if !s.admits p rd wr then { s with hostLog := s.hostLog ++ [.fabricProtection p.peer p.vf] }
      else match s.fabricPromote p with
        | (false, s1) => s1
        | (true, s1) => match p.op with
          | .load => if s1.poison.contains (lineOf p.pa) then s1 else s1.attach (lineOf p.pa)
          | .store data => if data.length = p.bytes then s1.storeHome p.vf (zipAddr p.pa data) else s1
          | .atomic op ty x =>
            if (p.bytes != 4 && p.bytes != 8) || p.pa % p.bytes != 0 || s1.poison.contains (lineOf p.pa) then s1
            else s1.storeHome p.vf
              (zipAddr p.pa (leBytes p.bytes (fabricCombine op ty p.bytes (s1.homeNat p.pa p.bytes) x))))

/-- PEER_QPUT_RECEIVE: the append of a peer's QPUT to a queue that an entry's QMASK opens to it. -/
def execPeerQputReceive (peer pvf : Nat) (jobkey : Word) (vf queue : Nat) (record : Word) (s : State) : Out :=
  .next (
    let open_ := (kvVals (s.ctx vf).acl).any (fun e => e.from peer pvf jobkey && e.q1.getLsbD (16 + queue))
    if !s.hears peer || 256 ≤ vf || queue = 0 || 16 ≤ queue || !open_ then s
    else match s.append vf queue record none none with
      | .done _ s1 => s1
      | .held ls => s.askHolders ls
      | _ => s)

/-! ### The host's registers (R387) -/

/-- DBELL: an append to a queue, its outcome in the queue's DSTAT. -/
def execDbell (vf queue : Nat) (record : Word) (s : State) : Out :=
  .next (
    if 256 ≤ vf || queue = 0 || 16 ≤ queue || 2 ≤ s.pcieDown.length then s
    else
      let stat : State → Word → State := fun s v => s.modCtx vf (fun c => { c with dstat := kvPut 0 c.dstat queue v })
      match s.append vf queue record none none with
      | .done t s1 => (stat s1 (BitVec.ofNat 64 t)).modCtx vf (fun c => { c with bell := true })
      | .refused n => stat s (refused n)
      | .held ls => s.askHolders ls
      | .flow => s)

/-- The casts of a context end with their crews, and nothing is reported (R377). -/
def State.stopContext (s : State) (vf : Nat) : State :=
  (kvKeys (s.ctx vf).casts).foldl (fun s key => s.endCast vf key none) s

/-- What a change of TIER, handles or BAR layout does to a locked or running TDI (R389). -/
def State.tdiChange (s : State) (vf : Nat) : State :=
  if (s.ctx vf).tdi == .locked || (s.ctx vf).tdi == .run then
    (s.modCtx vf (fun c => { c with tdi := .error })).stopContext vf
  else s

/-- TIER_WRITE. -/
def execTierWrite (vf base size : Nat) (s : State) : Out :=
  .next (if 256 ≤ vf then s
    else (s.modCtx vf (fun c => { c with tierBase := base, tierSize := size })).tdiChange vf)

/-- Sets a doubleword of an entry. -/
def AclEntry.setQuarter (e : AclEntry) (k : Nat) (v : Word) : AclEntry :=
  match k with
  | 0 => { e with q0 := v }
  | 1 => { e with q1 := v }
  | 2 => { e with q2 := v }
  | _ => { e with q3 := v }

def tdiOf (v : Word) : Option Tdi :=
  match v.toNat with
  | 0 => some .unlocked
  | 1 => some .locked
  | 2 => some .run
  | 3 => some .error
  | _ => none

/-- REGISTER_WRITE: a register with no row of its own takes its RW fields (R12). -/
def execRegisterWrite (target : RegTarget) (val : Word) (s : State) : Out :=
  .next (match target with
    | .poolLow vf => if 256 ≤ vf then s else s.modCtx vf (fun c => { c with poolLow := (val.extractLsb' 0 32).toNat })
    | .obuf vf ofs => if 256 ≤ vf || 512 ≤ ofs || ofs % 8 != 0 then s
      else s.modCtx vf (fun c => { c with obuf := (numBytes ofs 8 val.toNat).foldl (fun m e => kvPut 0 m e.1 e.2) c.obuf })
    | .ctl mc ofs => s.ctlWrite mc ofs val
    | .acl vf e k => if 256 ≤ vf || 32 ≤ e || 4 ≤ k then s
      else s.modCtx vf (fun c => { c with acl := kvPut {} c.acl e ((kvGet {} c.acl e).setQuarter k val) })
    | .egress vf e k => if 256 ≤ vf || 32 ≤ e || 4 ≤ k then s
      else s.modCtx vf (fun c => { c with egress := kvPut {} c.egress e ((kvGet {} c.egress e).setQuarter k val) })
    | .bar vf => if 256 ≤ vf || (s.ctx vf).bar = val then s else (s.modCtx vf (fun c => { c with bar := val })).tdiChange vf
    | .tdi vf => if 256 ≤ vf then s
      else match tdiOf val with | some t => s.modCtx vf (fun c => { c with tdi := t }) | none => s)

/-! ### Owners and handles (R383, R388) -/

def obufBytes (c : Context) (lo n : Nat) : List Byte := (List.range n).map (fun k => kvGet 0 c.obuf (lo + k))
def obufZero (c : Context) (lo n : Nat) : Bool := (obufBytes c lo n).all (· == 0)

/-- The context's current nonce. -/
def State.nonceOf (s : State) (vf : Nat) : BitVec 256 :=
  Config.nonce ((s.spdm.boots * 2 ^ 32 + (s.ctx vf).draws) * 256 + vf)

/-- The first check of a registration record that fails, or 0 (R388). -/
def State.ownerOutcome (s : State) (vf : Nat) : Nat :=
  let c := s.ctx vf
  let k := bytesNat (obufBytes c 0 1)
  let key := obufBytes c 8 97
  if 64 ≤ k || !obufZero c 1 7 || !obufZero c 0x69 7 || !obufZero c 0xC3 5 || bytesNat (obufBytes c 0xC2 1) != k ||
    key.headD 0 != 4 then 5
  else if c.omask.getLsbD k then 2
  else if obufBytes c 0x70 48 != leBytes 48 Config.devid.toNat || obufBytes c 0xA0 32 != leBytes 32 (s.nonceOf vf).toNat ||
    bytesNat (obufBytes c 0xC0 2) != vf then 4
  else if !Config.signatureValid key (obufBytes c 0x70 88) (obufBytes c 0xC8 96) then 3
  else 0

/-- OWNER_REGISTER (OCMD 1). -/
def execOwnerRegister (vf : Nat) (s : State) : Out :=
  .next (
    if 256 ≤ vf then s
    else
      let r := s.ownerOutcome vf
      s.modCtx vf (fun c =>
        let k := bytesNat (obufBytes c 0 1)
        let stat : BitVec 64 := BitVec.ofNat 64 (r + 256 * k)
        if r = 0 then { c with omask := c.omask ||| BitVec.ofNat 64 (2 ^ k), keys := kvSet c.keys k (obufBytes c 8 97), ostat := stat }
        else { c with ostat := stat }))

/-- NONCE_READ (OCMD 2). -/
def execNonceRead (vf : Nat) (s : State) : Out :=
  .next (
    if 256 ≤ vf then s
    else s.modCtx vf (fun c => { c with
      obuf := (zipAddr 0 (leBytes 32 (s.nonceOf vf).toNat)).foldl (fun m e => kvPut 0 m e.1 e.2) c.obuf, ostat := 0 }))

/-- Blocks that a handle's eager slots take (R326). -/
def eagerBlocks (ranks : Nat) : Nat := (32768 * (ranks - 1) + 4194303) / 4194304

/-- The granules of a handle's slots have its label from its registration on (R384). -/
def State.labelSlots (s : State) (vf : Nat) (h : Handle) : State :=
  ((List.range h.reg.ranks.length).filter (fun p => h.reg.ranks[p]? != s.fabricId.map (fun i => (i, vf)))).foldl (fun s p =>
    (List.range 8).foldl (fun s n => match s.slotAddr vf h p n with | some pa => s.labelSlot h pa | none => s) s) s

/-- HANDLE_REGISTER: the record written to HREG is checked, and kept with its label and blocks, or refused; HREG then reads which
(R383, R387). -/
def execHandleRegister (vf : Nat) (rec : HandleRec) (s : State) : Out :=
  .next (
    let stat : Bool → State → State := fun ok s => s.modCtx vf (fun c => { c with hreg := some (rec, ok) })
    let c := s.ctx vf
    let h := rec.handle.toNat
    let n := eagerBlocks rec.ranks.length
    let free := s.freeBlocks vf
    if 256 ≤ vf then s
    else if 64 ≤ c.handles.length || (kvFind c.handles h).isSome || rec.ranks.isEmpty || 192 < rec.ranks.length ||
      rec.ranks.any (fun r => decide (192 ≤ r.1) || decide (256 ≤ r.2)) || rec.owners &&& ~~~c.omask != 0 || free.length < n then stat false s
    else match labelId c.labels rec.owners with
      | none => stat false s
      | some (l, tab) =>
        let new : Handle := { reg := rec, lab := l, blocks := free.take n }
        ((stat true (s.modCtx vf (fun c => { c with labels := tab, handles := kvSet c.handles h new }))).labelSlots vf new).tdiChange vf)

/-- HANDLE_DEREGISTER: what the handle's XFERs have left to be compared goes with it. -/
def execHandleDeregister (vf handle : Nat) (s : State) : Out :=
  .next (
    if (kvFind (s.ctx vf).handles handle).isNone then s
    else (s.modCtx vf (fun c => { c with
      handles := kvDel c.handles handle, posts := c.posts.filter (fun p => p.handle != handle) })).tdiChange vf)

/-! ### Turnover and reset (R350, R359, R377) -/

/-- A frame is a context's: in its pool, taken from it, or a frame of local HBM in its page table that no other context's pool holds
or has supplied (R377). -/
def State.holdsFrame (s : State) (vf f : Nat) : Bool :=
  let c := s.ctx vf
  c.pool.contains f || c.frames.contains f || (c.ptb != 0 && decide (f < 2 ^ 40) && s.inTables c.root f &&
    !s.ctxs.any (fun e => e.1 != vf && (e.2.pool.contains f || e.2.frames.contains f)))

/-- What caches and translations hold of a context, and of lines, goes. -/
def State.purge (s : State) (vf : Nat) (p : Nat → Bool) : State :=
  let l1 : L1 → L1 := fun l => { l with
    clean := l.clean.filter (fun e => !p e.1), dirty := l.dirty.filter (fun e => !p (lineOf e.1))
    writers := l.writers.filter (fun e => !p e.1), poison := l.poison.filter (fun k => !p k), tags := l.tags.filter (fun e => !p e.1 && !ctxTag vf e.2) }
  { s with
    clusters := s.clusters.map (fun e => (e.1, { e.2 with
      tlb := e.2.tlb.filter (fun t => t.vf != vf), mids := e.2.mids.filter (fun m => m.1 / 2 ^ 64 != vf), l1s := e.2.l1s.map (fun x => (x.1, l1 x.2)) }))
    notices := s.notices.filter (fun n => !p n.line), code := s.code.filter (fun e => codeVf e.1 != vf)
    ladleQ := s.ladleQ.filter (fun w => w.1 != vf) }

/-- Lines are zero, public, not poisoned, and held in no L2 slice. -/
def State.zeroLines (s : State) (p : Nat → Bool) : State :=
  { s with hbm := s.hbm.filter (fun e => !p (lineOf e.1)), gran := s.gran.filter (fun e => !p e.1)
           origin := s.origin.filter (fun e => !p (lineOf e.1)), areas := s.areas.filter (fun e => !p (512 * e.1)), areaMem := s.areaMem.filter (fun e => !p (lineOf e.1))
           poison := s.poison.filter (fun l => !p l), l2 := s.l2.filter (fun e => !p e.1) }

/-- VF_RELEASE: casts and crews end, the VF's frames, in its pool or mapped, return zeroed to the operator, its tier copies go with
their key, and its tables and registers return to reset, with a fresh nonce. The operator's own tables and low mark stay, and the fall
of its pool below that mark raises the interrupt (R368). -/
def State.release (s : State) (vf : Nat) : State :=
  let s1 := s.stopContext vf
  let c := s1.ctx vf
  let p : Nat → Bool := fun l => s1.holdsFrame vf (65536 * (l / 512))
  let s2 := (s1.purge vf p).zeroLines p
  (s2.setCtx vf { acl := c.acl, egress := c.egress, poolLow := c.poolLow, draws := c.draws + 1 }).lowMark vf c.pool.length

def execVfRelease (vf : Nat) (s : State) : Out := .next (if 256 ≤ vf then s else s.release vf)

/-- What measuring the firmware's sixteen stages leaves in the measurement registers (R389). -/
def measured (n : Nat) : List (BitVec 384) := (List.range 16).map (Config.measurement n)

/-- A supervisor core at the firmware's entry, with s0 to s63 zero and public (R359). -/
def supEntry : Sup := { th := { supReset.th with park := .run } }

/-- MODULE_TURNOVER: every context ends, memory is zeroed, every table and store is cleared, the firmware is measured again and
restarted, and the clusters, cores and L2 slices that the health test fails are retired, of which the host and the board controller are
told (R342, R390). One that is asked for during a switch waits until the switch completes (R378). -/
def execModuleTurnover (s : State) : Out :=
  .next (
    if !s.switches.isEmpty then { s with turnover := true } else
    let s1 := (kvKeys s.ctxs).foldl State.release s
    let n := s1.spdm.boots + 1
    let dead := (Config.healthRetires n).filter (fun c => decide (c < Config.clusters))
    let slices := (Config.healthSlices n).filter (fun c => decide (c < Config.dies * Config.slicesPerDie))
    let cores := (Config.healthCores n).filter (fun k => decide (k < Config.clusters * Config.coresPerCluster))
    let told := (dead.filter (fun c => !s1.deadClusters.contains c)).map Report.retiredCluster ++
      (cores.filter (fun k => !s1.deadCores.contains k)).map (fun k => Report.retiredCore (k / 4) (k % 4)) ++
      (slices.filter (fun c => !s1.deadSlices.contains c)).map Report.retiredSlice
    { s1 with
      cur := none, hbm := [], origin := [], areas := [], areaMem := [], gran := [], poison := [], l2 := [], pins := [], code := [], notices := [], frinvs := []
      crews := [], clusters := [], ladleQ := [], turnover := false
      tbQueue := []
      parts := s1.parts.map (fun e => (e.1, { e.2 with running := none, incoming := none, ending := none, out := none }))
      spdm := { s1.spdm with session := .none, boots := n, meas := measured n }
      sups := (List.range Config.supervisorCores).map (fun k => (k, supEntry))
      deadClusters := dead.foldl addOnce s1.deadClusters, deadSlices := slices.foldl addOnce s1.deadSlices
      deadCores := cores.foldl addOnce s1.deadCores
      hostLog := s1.hostLog ++ told, mgmtLog := s1.mgmtLog ++ told })

/-- MODULE_RESET: %cyc and every register return to reset and the firmware is measured. Memory, what has been retired, and what
lies outside the module stand as they were. -/
def execModuleReset (s : State) : Out :=
  .next (
    let n := s.spdm.boots + 1
    { State.reset with
      agenda := s.agenda, tick := s.tick, hbm := s.hbm, areas := s.areas, areaMem := s.areaMem, gran := s.gran, poison := s.poison
      deadClusters := s.deadClusters, deadCores := s.deadCores, deadSlices := s.deadSlices
      pcieDown := s.pcieDown, portsDown := s.portsDown, cooled := s.cooled
      hostLog := s.hostLog, mgmtLog := s.mgmtLog, spdm := { boots := n, meas := measured n } })

/-- SUPERVISOR_RESTART: a halted core goes on at the header after its HALT, or restarts at the firmware's entry (R359). -/
def execSupervisorRestart (k : Nat) (turnover : Bool) (s : State) : Out :=
  .next (
    let u := s.sup k
    if Config.supervisorCores ≤ k || u.th.park != .halted then s
    else if turnover then s.setSup k { u with th := supEntry.th, s := [] }
    else s.setSup k { u with th := { u.th with
      pc := if u.th.clause.isEmpty then u.th.pc else u.th.pc + 8 * (u.th.clause.length + 1)
      slot := 0, clause := [], park := .run } })

/-! ### SPDM (R389) -/

def State.answer (s : State) (r : SpdmResp) : State := { s with spdm := { s.spdm with out := s.spdm.out ++ [r] } }
/-- A response whose payload SPDM 1.3 and not this spec fixes (log 7). -/
def State.answerFree (s : State) (code : String) : State := s.answer (.ok code (Config.spdmPayload s.tick))
def unsupported : SpdmResp := .error "UnsupportedRequest"
def State.session (s : State) (x : Session) : State := { s with spdm := { s.spdm with session := x } }

def execGetVersion (s : State) : Out := .next (s.answerFree "VERSION")
def execGetCapabilities (s : State) : Out := .next (s.answerFree "CAPABILITIES")
def execNegotiateAlgorithms (s : State) : Out := .next (s.answerFree "ALGORITHMS")
/-- One certificate chain is served, in slot 0; its digest is the DEVID. -/
def execGetDigests (s : State) : Out := .next (s.answer (.ok "DIGESTS" (leBytes 48 Config.devid.toNat)))
def execGetCertificate (slot : Nat) (s : State) : Out :=
  .next (if slot = 0 then s.answerFree "CERTIFICATE" else s.answer (.error "InvalidRequest"))
def execChallenge (slot : Nat) (s : State) : Out :=
  .next (if slot = 0 then s.answerFree "CHALLENGE_AUTH" else s.answer (.error "InvalidRequest"))
def execGetMeasurements (s : State) : Out := .next (s.answer (.measurements s.spdm.meas))
def execKeyExchange (s : State) : Out := .next ((s.answerFree "KEY_EXCHANGE_RSP").session .handshake)
def execFinish (s : State) : Out :=
  .next (if s.spdm.session = .handshake then (s.answerFree "FINISH_RSP").session .established
    else s.answer (.error "UnexpectedRequest"))
/-- A request that keeps, re-keys or ends a session. -/
def State.inSession (s : State) (code : String) : State :=
  if s.spdm.session = .established then s.answerFree code else s.answer (.error "UnexpectedRequest")
def execHeartbeat (s : State) : Out := .next (s.inSession "HEARTBEAT_ACK")
def execKeyUpdate (s : State) : Out := .next (s.inSession "KEY_UPDATE_ACK")
def execEndSession (s : State) : Out :=
  .next (if s.spdm.session = .established then (s.answerFree "END_SESSION_ACK").session .none
    else s.answer (.error "UnexpectedRequest"))
/-- A TDISP command changes the state of a VF where that state allows it (R389, log 82). -/
def tdispNext (t : Tdi) (cmd : Nat) : Tdi :=
  match t, cmd with
  | .unlocked, 0 => .locked
  | .locked, 1 => .run
  | _, 2 => .unlocked
  | t, _ => t
/-- What a vendor-defined request asks for: a TDISP command, or the keying of an IDE stream (R389). -/
def State.vendor (s : State) (payload : List Byte) : State :=
  let s1 := match Config.tdispCommand payload with
    | some (vf, cmd) => s.modCtx vf.val (fun c => { c with tdi := tdispNext c.tdi cmd.val })
    | none => s
  match Config.ideCommand payload with
  | some (vf, on) => s1.modCtx vf.val (fun c => { c with ide := on })
  | none => s1
/-- Inside a secure session alone it carries the key-management and TDISP protocols. -/
def execVendorDefinedRequest (payload : List Byte) (s : State) : Out :=
  .next (if s.spdm.session = .established then (s.vendor payload).answerFree "VENDOR_DEFINED_RESPONSE" else s.answer unsupported)
def execUnsupportedRequest (_code : Nat) (s : State) : Out := .next (s.answer unsupported)

/-! ### Power, cooling, links (R375, R378, R390) -/

/-- What a voltage and frequency island drives: a cluster, a memory controller, or the L2 ring, I/O and fabric (R390). -/
inductive Island where
  | cluster (cl : Nat)
  | controller (mc : Nat)
  | other (n : Nat)
  deriving DecidableEq, Repr
/-- The islands in that order, 128, 16 and 112 of them. -/
def islandOf (n : Nat) : Island :=
  if n < Config.clusters then .cluster n
  else if n < Config.clusters + Config.hbmStacks then .controller (n - Config.clusters) else .other (n - Config.clusters - Config.hbmStacks)
/-- THERMAL_THROTTLE: firmware lowers the clock of an island, the clusters' before any other, and the board controller is told; no result
changes (R390). -/
def execThermalThrottle (island : Nat) (s : State) : Out :=
  .next (
    let lowered : Nat → Bool := fun n => (kvFind s.islands n).isSome
    let turn_ : Bool := match islandOf island with
      | .cluster _ => true
      | _ => (List.range Config.clusters).all lowered
    if 256 ≤ island || !turn_ then s
    else
      let v := Config.throttled s.tick
      { s with islands := kvSet s.islands island v, mgmtLog := s.mgmtLog ++ [.clock island v] })

/-- COOLANT_LOSS: every context stops, and the board controller is told. -/
def execCoolantLoss (s : State) : Out :=
  .next (
    let s1 := (kvKeys s.ctxs).foldl State.stopContext s
    { s1 with cooled := false, mgmtLog := s1.mgmtLog ++ [.coolant] })

/-- PCIE_LINK_STATE_CHANGE. -/
def execPcieLinkStateChange (link : Nat) (up : Bool) (s : State) : Out :=
  .next (if 2 ≤ link then s
    else { s with pcieDown := if up then dropAll s.pcieDown link else addOnce s.pcieDown link })

/-- FABRIC_LINK_STATE_CHANGE, which the board controller is told of (R390). -/
def execFabricLinkStateChange (port : Nat) (up : Bool) (s : State) : Out :=
  .next (if 24 ≤ port then s
    else { s with portsDown := if up then dropAll s.portsDown port else addOnce s.portsDown port
                  mgmtLog := s.mgmtLog ++ [.fabricLink port up] })

/-! ### The loader, the debugger, the partition table -/

/-- The owner sets of an image get their IDs in source order; none when the table has no room (R16). -/
def imageLabels (tab : List (BitVec 64)) : List (Nat × Nat × BitVec 64) → Option (List (Nat × Nat × Lbl) × List (BitVec 64))
  | [] => some ([], tab)
  | (va, n, o) :: rest =>
    match labelId tab o with
    | none => none
    | some (l, tab1) => (imageLabels tab1 rest).map (fun r => ((va, n, l) :: r.1, r.2))

/-- Where the loader of a context places a byte. -/
def State.loadAddr (s : State) (vf va : Nat) : Option Nat :=
  if !canonical (va : Int) then none
  else match s.walk (s.ctx vf).root va with
    | .leaf _ e l => let pa := s.normPa (pteAddr e l va); if paLocal pa then some pa else none
    | .absent _ => none

/-- IMAGE_LOAD: the image's bytes and granule labels are placed whole, or it is refused whole (R16, R90). A granule range is
its first address, its number of granules, and its owner set; a granule of the image that no range covers is public. -/
def execImageLoad (vf : Nat) (img : Image) (s : State) : Out :=
  .next (
    let c := s.ctx vf
    let bytes := img.bytes.map (fun e => (s.loadAddr vf e.1, e.2))
    let grans := img.granules.flatMap (fun g => (List.range g.2.1).map (fun k => s.loadAddr vf (g.1 + 128 * k)))
    if 256 ≤ vf || bytes.any (fun e => e.1.isNone) || grans.any Option.isNone ||
      img.granules.any (fun g => g.1 % 128 != 0 || g.2.2 &&& ~~~c.omask != 0) then s
    else match imageLabels c.labels img.granules with
      | none => s
      | some (gs, tab) =>
        let lines := gs.flatMap (fun g => (List.range g.2.1).filterMap (fun k =>
          (s.loadAddr vf (g.1 + 128 * k)).map (fun pa => (lineOf pa, g.2.2))))
        let bs := bytes.filterMap (fun e => e.1.map (fun pa => (pa, e.2)))
        let plain := (bs.map (fun e => lineOf e.1)).eraseDups
        let all := (plain ++ lines.map Prod.fst).eraseDups
        if !all.all s.storable then s.askHolders all
        else
          let s1 := all.foldl (fun s l => (s.forceHolders s.chain [] l).dropStash [] l) (s.perform vf bs)
          let gran := lines.foldl (fun m (e : Nat × Lbl) => kvPut 0 m e.1 e.2) (plain.foldl (fun m l => kvPut 0 m l 0) s1.gran)
          ({ s1 with gran := gran }).modCtx vf (fun c => { c with labels := tab }))

/-- DEBUGGER_RESUME: what a BKPT stopped goes on at the next clause (R109). -/
def execDebuggerResume (ag : Agent) (s : State) : Out :=
  .next (match s.thread? ag with
    | some th => if th.park == .debugger then s.modThread ag (fun th => { th with
        pc := th.pc + 8 * (th.clause.length + 1), slot := 0, clause := [], park := .run, ready := s.cyc, unready := 0, began := none }) else s
    | none => s)

/-- PARTITION_TABLE_WRITE: the entry changes at its partition's next slice boundary, which is now if it runs nothing; a change
that takes the running VF or a cluster away ends the slice (R369). -/
def execPartitionTableWrite (entry : Nat) (clust : BitVec 128) (vfs : BitVec 256) (slice : BitVec 32) (flags : BitVec 8)
    (reserved : BitVec 88) (s : State) : Out :=
  if 16 ≤ entry then .next s
  else
    let p := kvGet ({} : Part) s.parts entry
    let s1 := { s with parts := kvSet s.parts entry { p with pending := some (clust, vfs, slice, flags, reserved) } }
    match p.running with
    | none => if p.incoming.isNone then .next (s1.boundary entry) else .next s1
    | some vf => if ({ p with pending := some (clust, vfs, slice, flags, reserved) } : Part).cut vf then execSliceEnd entry s1
      else .next s1

end Sys2Proof.Machine
end

