-- ==== Sys2Proof/Machine/Masks.lean ====
section
/-! DEFINITION. The mask instructions (R112, R113). -/

namespace Sys2Proof.Machine

/-- The mask of the active lanes that satisfy a test. -/
def lanesWhere (exm : Mask) (p : Nat → Bool) : Mask := maskOf ((mlanes exm).filter p)

/-- The lanes a ≤ l < b, unsigned. -/
def execMset (d a b : Nat) (s : State) : Host.Outcome State Fault Refusal :=
  run (maskOp d [.s a, .s b]
    (do pure [(← rdS a).lab, (← rdS b).lab])
    (do
      let x ← valS a
      let y ← valS b
      pure (lanesBelow (min y.toNat 1024) &&& ~~~(lanesBelow (min x.toNat 1024))))) s

def execMlog (op : MOp) (d a b : Nat) (s : State) : Host.Outcome State Fault Refusal :=
  run (maskOp d [.m a, .m b]
    (do pure [← maskLab a, ← maskLab b])
    (do
      let x ← maskBits a
      let y ← maskBits b
      pure (match op with
        | .and => x &&& y
        | .or => x ||| y
        | .xor => x ^^^ y
        | .andn => x &&& ~~~y))) s

def execMnot (d a : Nat) (s : State) : Host.Outcome State Fault Refusal :=
  run (maskOp d [.m a] (do pure [← maskLab a]) (do pure (~~~(← maskBits a)))) s

/-- A lane-wise compare of two vector registers: W joins the source words of the groups that hold an active lane. -/
def maskCompare (d a b : Nat) (p : Lane → Lane → Bool) : M Done :=
  maskOp d [.v a, .v b]
    (do
      let th ← myTh
      let tm ← myTeam
      pure (tm.crossLab th.exm a ++ tm.crossLab th.exm b))
    (do
      let th ← myTh
      let tm ← myTeam
      pure (lanesWhere th.exm (fun l => p (tm.lane a l) (tm.lane b l))))

def execMcmp (ty : Ty) (c : Cond) (d a b : Nat) (s : State) : Host.Outcome State Fault Refusal :=
  run (maskCompare d a b (fun x y => condInt c (laneInt ty x) (laneInt ty y))) s

def execMfcmp (ty : Ty) (c : Cond) (d a b : Nat) (s : State) : Host.Outcome State Fault Refusal :=
  run (maskCompare d a b (fun x y => condFp c (laneFp ty x) (laneFp ty y))) s

/-- Each active lane takes the lane word of its group. -/
def execMsave (d a : Nat) (s : State) : Host.Outcome State Fault Refusal :=
  run (do
    let b ← maskBits a
    lanewise d [] [.m a] (do pure [← maskLab a]) (fun _ l => mword b (l / 32))) s

/-- The lowest active lane of a lane's group. -/
def lowestOf (exm : Mask) (g : Nat) : Nat := 32 * g + ((List.range 32).find? (fun j => (mword exm g).getLsbD j)).getD 0

def execMrest (d a : Nat) (s : State) : Host.Outcome State Fault Refusal :=
  run (maskOp d [.v a]
    (do
      let th ← myTh
      pure ((← myTeam).crossLab th.exm a))
    (do
      let th ← myTh
      let tm ← myTeam
      pure (lanesWhere th.exm (fun l => (tm.lane a (lowestOf th.exm (l / 32))).getLsbD (l % 32))))) s

def execMpopc (d a : Nat) (s : State) : Host.Outcome State Fault Refusal :=
  run (do
    issue [.m a] [.s d]
    let th ← myTh
    let b ← maskBits a
    let l ← joinAll [← maskLab a, th.pcl]
    writeS d (BitVec.ofNat 64 (mcount (th.exm &&& b))) l
    done) s

/-- Only the lowest lane of exm AND mA. -/
def execMelect (d a : Nat) (s : State) : Host.Outcome State Fault Refusal :=
  run (maskOp d [.m a] (do pure [← maskLab a])
    (do
      let th ← myTh
      match mlanes (th.exm &&& (← maskBits a)) with
      | l :: _ => pure (laneBit l)
      | [] => pure 0)) s

def execMtest (d a b : Nat) (s : State) : Host.Outcome State Fault Refusal :=
  run (do
    issue [.m a, .s b] [.s d]
    let th ← myTh
    let bits ← maskBits a
    let rb ← rdS b
    let l ← joinAll [← maskLab a, rb.lab, th.pcl]
    let n := rb.val.toNat
    writeS d (boolWord (decide (n < 1024) && mhas th.exm n && mhas bits n)) l
    done) s

/-- EXMW m0 leaves exm unchanged; another mask must be dominated by the PC label (R50). -/
def execExmw (a : Nat) (s : State) : Host.Outcome State Fault Refusal :=
  run (do
    issue [.m a] []
    if a = 0 then done
    else do
      let th ← myTh
      if ← dominates th.pcl (← maskLab a) then
        let b ← maskBits a
        modTh (fun th => { th with exm := b &&& th.f })
        done
      else trapU 0x0D) s

/-- EXMR writes the bits of all of F; naming m0 it leaves exm as it was. -/
def execExmr (d : Nat) (s : State) : Host.Outcome State Fault Refusal :=
  run (do
    issue [] [.m d]
    if d = 0 then done
    else do
      let th ← myTh
      writeM d th.f th.exm []
      done) s

end Sys2Proof.Machine
end

