-- ==== Sys2Proof/Machine/Uniform.lean ====
section
/-! DEFINITION. The uniform integer instructions (R101 to R103). -/

namespace Sys2Proof.Machine

/-- The value of the n-th source. -/
def src (vs : List Word) (n : Nat) : Word := vs.getD n 0

def execSmov (d a : Nat) (s : State) : Host.Outcome State Fault Refusal :=
  run (uniform d [a] (fun v => src v 0)) s

def execSmovi (d : Nat) (imm : BitVec 32) (s : State) : Host.Outcome State Fault Refusal :=
  run (uniform d [] (fun _ => imm.signExtend 64)) s

/-- SMOVH keeps the low half, and so its label joins the old one (R102). -/
def execSmovh (d : Nat) (imm : BitVec 32) (s : State) : Host.Outcome State Fault Refusal :=
  run (do
    issue [.s d] [.s d]
    let old ← rdS d
    let l ← joinAll [← myPcl, old.lab]
    writeS d (imm ++ old.val.extractLsb' 0 32) l
    done) s

/-- Exact integer operation on two operands, wrapped or saturated (R101). -/
def uniArith (i64 sat : Bool) (d a b : Nat) (f : Int → Int → Int) : M Done :=
  uniform d [a, b] (fun v => narrow64 sat (f (wordInt i64 (src v 0)) (wordInt i64 (src v 1))))

def execSadd (i64 sat : Bool) (d a b : Nat) (s : State) : Host.Outcome State Fault Refusal :=
  run (uniArith i64 sat d a b (· + ·)) s
def execSsub (i64 sat : Bool) (d a b : Nat) (s : State) : Host.Outcome State Fault Refusal :=
  run (uniArith i64 sat d a b (· - ·)) s
def execSmul (i64 sat : Bool) (d a b : Nat) (s : State) : Host.Outcome State Fault Refusal :=
  run (uniArith i64 sat d a b (· * ·)) s
/-- Bits [127:64] of the product. -/
def execSmulh (i64 : Bool) (d a b : Nat) (s : State) : Host.Outcome State Fault Refusal :=
  run (uniArith i64 false d a b (fun x y => (x * y) / 2 ^ 64)) s
def execSmin (i64 : Bool) (d a b : Nat) (s : State) : Host.Outcome State Fault Refusal :=
  run (uniArith i64 false d a b (fun x y => if x ≤ y then x else y)) s
def execSmax (i64 : Bool) (d a b : Nat) (s : State) : Host.Outcome State Fault Refusal :=
  run (uniArith i64 false d a b (fun x y => if x ≤ y then y else x)) s
def execScmp (i64 : Bool) (c : Cond) (d a b : Nat) (s : State) : Host.Outcome State Fault Refusal :=
  run (uniform d [a, b] (fun v => boolWord (condInt c (wordInt i64 (src v 0)) (wordInt i64 (src v 1))))) s

def execSand (d a b : Nat) (s : State) : Host.Outcome State Fault Refusal :=
  run (uniform d [a, b] (fun v => src v 0 &&& src v 1)) s
def execSor (d a b : Nat) (s : State) : Host.Outcome State Fault Refusal :=
  run (uniform d [a, b] (fun v => src v 0 ||| src v 1)) s
def execSxor (d a b : Nat) (s : State) : Host.Outcome State Fault Refusal :=
  run (uniform d [a, b] (fun v => src v 0 ^^^ src v 1)) s
/-- Shifts by 64 or more give 0, or 64 copies of the sign. -/
def execSshl (d a b : Nat) (s : State) : Host.Outcome State Fault Refusal :=
  run (uniform d [a, b] (fun v => if (src v 1).toNat < 64 then src v 0 <<< (src v 1).toNat else 0)) s
def execSshr (d a b : Nat) (s : State) : Host.Outcome State Fault Refusal :=
  run (uniform d [a, b] (fun v => if (src v 1).toNat < 64 then src v 0 >>> (src v 1).toNat else 0)) s
def execSsar (d a b : Nat) (s : State) : Host.Outcome State Fault Refusal :=
  run (uniform d [a, b] (fun v => (src v 0).sshiftRight (min (src v 1).toNat 64))) s
def execSsel (d a b c : Nat) (s : State) : Host.Outcome State Fault Refusal :=
  run (uniform d [a, b, c] (fun v => if src v 0 ≠ 0 then src v 1 else src v 2)) s
def execSaddi (i64 sat : Bool) (d a : Nat) (imm : BitVec 26) (s : State) : Host.Outcome State Fault Refusal :=
  run (uniform d [a] (fun v => narrow64 sat (wordInt i64 (src v 0) + imm.toInt))) s
def execSclz (d a : Nat) (s : State) : Host.Outcome State Fault Refusal :=
  run (uniform d [a] (fun v => BitVec.ofNat 64 (clz 64 (src v 0).toNat))) s
def execSpopc (d a : Nat) (s : State) : Host.Outcome State Fault Refusal :=
  run (uniform d [a] (fun v => BitVec.ofNat 64 (popc 64 (src v 0).toNat))) s
/-- Bits [b + w − 1 : b] of a, with w = min(c, 64). -/
def execSbfe (d a b c : Nat) (s : State) : Host.Outcome State Fault Refusal :=
  run (uniform d [a, b, c] (fun v =>
    if (src v 1).toNat < 64 then
      BitVec.ofNat 64 ((src v 0).toNat / 2 ^ (src v 1).toNat % 2 ^ (min (src v 2).toNat 64))
    else 0)) s

/-- SLANE: lane b of vA when it exists and is active, else 0; the label takes every group with an active lane (R103). -/
def execSlane (d a b : Nat) (s : State) : Host.Outcome State Fault Refusal :=
  run (do
    issue [.v a, .s b] [.s d]
    let th ← myTh
    let tm ← myTeam
    let rb ← rdS b
    let l ← joinAll (tm.crossLab th.exm a ++ [rb.lab, th.pcl])
    let n := rb.val.toNat
    writeS d (if n < tm.lanes ∧ mhas th.exm n then (tm.lane a n).zeroExtend 64 else 0) l
    done) s

end Sys2Proof.Machine
end

