-- ==== Sys2Proof/Machine/Dispatch.lean ====
section
/-! DEFINITION. The dispatch of every step of the machine to its meaning. -/

namespace Sys2Proof.Machine

def exec (i : Instr) (s : State) : Host.Outcome State Fault Refusal :=
  match i with
  | .nop => Sys2Proof.Machine.execNop s
  | .bra tgt => Sys2Proof.Machine.execBra tgt s
  | .brc kind a tgt join => Sys2Proof.Machine.execBrc kind a tgt join s
  | .brv m tgt join => Sys2Proof.Machine.execBrv m tgt join s
  | .call tgt => Sys2Proof.Machine.execCall tgt s
  | .ret => Sys2Proof.Machine.execRet s
  | .exit => Sys2Proof.Machine.execExit s
  | .yield => Sys2Proof.Machine.execYield s
  | .loop a tgt join => Sys2Proof.Machine.execLoop a tgt join s
  | .brx a => Sys2Proof.Machine.execBrx a s
  | .trap n => Sys2Proof.Machine.execTrap n s
  | .tretRetry => Sys2Proof.Machine.execTretRetry s
  | .tretSkip => Sys2Proof.Machine.execTretSkip s
  | .bkpt n => Sys2Proof.Machine.execBkpt n s
  | .halt => Sys2Proof.Machine.execHalt s
  | .smov d a => Sys2Proof.Machine.execSmov d a s
  | .smovi d imm => Sys2Proof.Machine.execSmovi d imm s
  | .smovh d imm => Sys2Proof.Machine.execSmovh d imm s
  | .sadd i64 sat d a b => Sys2Proof.Machine.execSadd i64 sat d a b s
  | .ssub i64 sat d a b => Sys2Proof.Machine.execSsub i64 sat d a b s
  | .smul i64 sat d a b => Sys2Proof.Machine.execSmul i64 sat d a b s
  | .smulh i64 d a b => Sys2Proof.Machine.execSmulh i64 d a b s
  | .sand d a b => Sys2Proof.Machine.execSand d a b s
  | .sor d a b => Sys2Proof.Machine.execSor d a b s
  | .sxor d a b => Sys2Proof.Machine.execSxor d a b s
  | .sshl d a b => Sys2Proof.Machine.execSshl d a b s
  | .sshr d a b => Sys2Proof.Machine.execSshr d a b s
  | .ssar d a b => Sys2Proof.Machine.execSsar d a b s
  | .smin i64 d a b => Sys2Proof.Machine.execSmin i64 d a b s
  | .smax i64 d a b => Sys2Proof.Machine.execSmax i64 d a b s
  | .scmp i64 c d a b => Sys2Proof.Machine.execScmp i64 c d a b s
  | .ssel d a b c => Sys2Proof.Machine.execSsel d a b c s
  | .saddi i64 sat d a imm => Sys2Proof.Machine.execSaddi i64 sat d a imm s
  | .sld la ty sc o d a b ofs => Sys2Proof.Machine.execSld la ty sc o d a b ofs s
  | .sst ty sc o d a b ofs => Sys2Proof.Machine.execSst ty sc o d a b ofs s
  | .sclz d a => Sys2Proof.Machine.execSclz d a s
  | .spopc d a => Sys2Proof.Machine.execSpopc d a s
  | .sbfe d a b c => Sys2Proof.Machine.execSbfe d a b c s
  | .slane d a b => Sys2Proof.Machine.execSlane d a b s
  | .mset d a b => Sys2Proof.Machine.execMset d a b s
  | .mlog op d a b => Sys2Proof.Machine.execMlog op d a b s
  | .mnot d a => Sys2Proof.Machine.execMnot d a s
  | .mcmp ty c d a b => Sys2Proof.Machine.execMcmp ty c d a b s
  | .mfcmp ty c d a b => Sys2Proof.Machine.execMfcmp ty c d a b s
  | .msave d a => Sys2Proof.Machine.execMsave d a s
  | .mrest d a => Sys2Proof.Machine.execMrest d a s
  | .mpopc d a => Sys2Proof.Machine.execMpopc d a s
  | .melect d a => Sys2Proof.Machine.execMelect d a s
  | .mtest d a b => Sys2Proof.Machine.execMtest d a b s
  | .exmw a => Sys2Proof.Machine.execExmw a s
  | .exmr d => Sys2Proof.Machine.execExmr d s
  | .vmov d a => Sys2Proof.Machine.execVmov d a s
  | .vmovi d imm => Sys2Proof.Machine.execVmovi d imm s
  | .vadd ty sat d a b => Sys2Proof.Machine.execVadd ty sat d a b s
  | .vsub ty sat d a b => Sys2Proof.Machine.execVsub ty sat d a b s
  | .vmul ty sat d a b => Sys2Proof.Machine.execVmul ty sat d a b s
  | .vmulh ty d a b => Sys2Proof.Machine.execVmulh ty d a b s
  | .vmad ty sat d a b c => Sys2Proof.Machine.execVmad ty sat d a b c s
  | .vand d a b => Sys2Proof.Machine.execVand d a b s
  | .vor d a b => Sys2Proof.Machine.execVor d a b s
  | .vxor d a b => Sys2Proof.Machine.execVxor d a b s
  | .vnot d a => Sys2Proof.Machine.execVnot d a s
  | .vshl d a b => Sys2Proof.Machine.execVshl d a b s
  | .vshr d a b => Sys2Proof.Machine.execVshr d a b s
  | .vsar d a b => Sys2Proof.Machine.execVsar d a b s
  | .vmin ty d a b => Sys2Proof.Machine.execVmin ty d a b s
  | .vmax ty d a b => Sys2Proof.Machine.execVmax ty d a b s
  | .vabs ty sat d a => Sys2Proof.Machine.execVabs ty sat d a s
  | .vneg ty sat d a => Sys2Proof.Machine.execVneg ty sat d a s
  | .vsel d a b c => Sys2Proof.Machine.execVsel d a b c s
  | .vclz d a => Sys2Proof.Machine.execVclz d a s
  | .vpopc d a => Sys2Proof.Machine.execVpopc d a s
  | .vbfe d a b c => Sys2Proof.Machine.execVbfe d a b c s
  | .vbfi d a b c => Sys2Proof.Machine.execVbfi d a b c s
  | .vsat ty d a => Sys2Proof.Machine.execVsat ty d a s
  | .vaddi ty sat d a imm => Sys2Proof.Machine.execVaddi ty sat d a imm s
  | .vlane d a => Sys2Proof.Machine.execVlane d a s
  | .vfroms d a => Sys2Proof.Machine.execVfroms d a s
  | .vfadd ty r d a b => Sys2Proof.Machine.execVfadd ty r d a b s
  | .vfsub ty r d a b => Sys2Proof.Machine.execVfsub ty r d a b s
  | .vfmul ty r d a b => Sys2Proof.Machine.execVfmul ty r d a b s
  | .vfma ty r d a b c => Sys2Proof.Machine.execVfma ty r d a b c s
  | .vfmin ty d a b => Sys2Proof.Machine.execVfmin ty d a b s
  | .vfmax ty d a b => Sys2Proof.Machine.execVfmax ty d a b s
  | .vfrcp la r d a => Sys2Proof.Machine.execVfrcp la r d a s
  | .vfrsq la r d a => Sys2Proof.Machine.execVfrsq la r d a s
  | .vfexp2 la r d a => Sys2Proof.Machine.execVfexp2 la r d a s
  | .vflog2 la r d a => Sys2Proof.Machine.execVflog2 la r d a s
  | .vfabs ty d a => Sys2Proof.Machine.execVfabs ty d a s
  | .vfneg ty d a => Sys2Proof.Machine.execVfneg ty d a s
  | .vcvt dt st sat r d a => Sys2Proof.Machine.execVcvt dt st sat r d a s
  | .vpack ty sat r d a b => Sys2Proof.Machine.execVpack ty sat r d a b s
  | .vunpk ty hi d a => Sys2Proof.Machine.execVunpk ty hi d a s
  | .vshuf mode d a b => Sys2Proof.Machine.execVshuf mode d a b s
  | .vbcast d a b => Sys2Proof.Machine.execVbcast d a b s
  | .vred la ty sat r op d a => Sys2Proof.Machine.execVred la ty sat r op d a s
  | .vscan la ty sat r op excl d a => Sys2Proof.Machine.execVscan la ty sat r op excl d a s
  | .vld la ty scp o sc d a idx ofs => Sys2Proof.Machine.execVld la ty scp o sc d a idx ofs s
  | .vst ty scp o sc d a idx ofs => Sys2Proof.Machine.execVst ty scp o sc d a idx ofs s
  | .vldx la ty scp o d a ofs => Sys2Proof.Machine.execVldx la ty scp o d a ofs s
  | .vstx ty scp o d a ofs => Sys2Proof.Machine.execVstx ty scp o d a ofs s
  | .vlds la ty sc d a idx ofs => Sys2Proof.Machine.execVlds la ty sc d a idx ofs s
  | .vsts ty sc d a idx ofs => Sys2Proof.Machine.execVsts ty sc d a idx ofs s
  | .vpref sc a idx ofs => Sys2Proof.Machine.execVpref sc a idx ofs s
  | .spwait a b ofs => Sys2Proof.Machine.execSpwait a b ofs s
  | .atom la ty scp o pb op d a b ofs => Sys2Proof.Machine.execAtom la ty scp o pb op d a b ofs s
  | .atomc la scp o pb d a b ofs => Sys2Proof.Machine.execAtomc la scp o pb d a b ofs s
  | .red ty scp o pb op a b ofs => Sys2Proof.Machine.execRed ty scp o pb op a b ofs s
  | .satom la i64 scp o op d a b ofs => Sys2Proof.Machine.execSatom la i64 scp o op d a b ofs s
  | .stashMap d a b ofs => Sys2Proof.Machine.execStashMap d a b ofs s
  | .stashFlush d a b ofs => Sys2Proof.Machine.execStashFlush d a b ofs s
  | .stashUnmap d a b ofs => Sys2Proof.Machine.execStashUnmap d a b ofs s
  | .fence scp o => Sys2Proof.Machine.execFence scp o s
  | .fencex scp o paths => Sys2Proof.Machine.execFencex scp o paths s
  | .bara n => Sys2Proof.Machine.execBara n s
  | .barw n => Sys2Proof.Machine.execBarw n s
  | .baraw n => Sys2Proof.Machine.execBaraw n s
  | .bari n a => Sys2Proof.Machine.execBari n a s
  | .wbara scp a b ofs => Sys2Proof.Machine.execWbara scp a b ofs s
  | .wbarw scp p d a b ofs => Sys2Proof.Machine.execWbarw scp p d a b ofs s
  | .wbari scp d a b ofs => Sys2Proof.Machine.execWbari scp d a b ofs s
  | .ckpt => Sys2Proof.Machine.execCkpt s
  | .clm sc a idx ofs => Sys2Proof.Machine.execClm sc a idx ofs s
  | .clmseal => Sys2Proof.Machine.execClmseal s
  | .clmdone => Sys2Proof.Machine.execClmdone s
  | .clmq la d => Sys2Proof.Machine.execClmq la d s
  | .lget d a => Sys2Proof.Machine.execLget d a s
  | .lraise d a b ofs => Sys2Proof.Machine.execLraise d a b ofs s
  | .decl d a site target => Sys2Proof.Machine.execDecl d a site target s
  | .endorse site count => Sys2Proof.Machine.execEndorse site count s
  | .lchk d a b => Sys2Proof.Machine.execLchk d a b s
  | .lspan d n a => Sys2Proof.Machine.execLspan d n a s
  | .scopeo n base => Sys2Proof.Machine.execScopeo n base s
  | .scopec => Sys2Proof.Machine.execScopec s
  | .rgrow n => Sys2Proof.Machine.execRgrow n s
  | .rshrink n => Sys2Proof.Machine.execRshrink n s
  | .fork a b c => Sys2Proof.Machine.execFork a b c s
  | .rdv => Sys2Proof.Machine.execRdv s
  | .tcopy sh co ct => Sys2Proof.Machine.execTcopy sh co ct s
  | .xfer red sh co ct => Sys2Proof.Machine.execXfer red sh co ct s
  | .mma ty i32 tile sh co ct => Sys2Proof.Machine.execMma ty i32 tile sh co ct s
  | .mzero tile => Sys2Proof.Machine.execMzero tile s
  | .mdrain la ty r d tile b => Sys2Proof.Machine.execMdrain la ty r d tile b s
  | .mfill ty tile a b => Sys2Proof.Machine.execMfill ty tile a b s
  | .mrsclVector tile a => Sys2Proof.Machine.execMrsclVector tile a s
  | .mrsclUniform tile a => Sys2Proof.Machine.execMrsclUniform tile a s
  | .shape d a => Sys2Proof.Machine.execShape d a s
  | .cast a => Sys2Proof.Machine.execCast a s
  | .qput a b ofs => Sys2Proof.Machine.execQput a b ofs s
  | .sysr d reg => Sys2Proof.Machine.execSysr d reg s
  | .sysw reg a => Sys2Proof.Machine.execSysw reg a s
  | .pkeyw a => Sys2Proof.Machine.execPkeyw a s
  | .tlbinvPage a => Sys2Proof.Machine.execTlbinvPage a s
  | .tlbinvCtx a => Sys2Proof.Machine.execTlbinvCtx a s
  | .tlbinvAll a => Sys2Proof.Machine.execTlbinvAll a s
  | .frinv a b => Sys2Proof.Machine.execFrinv a b s
  | .faultr f d => Sys2Proof.Machine.execFaultr f d s
  | .pgmap a => Sys2Proof.Machine.execPgmap a s
  | .stashFill cid line => Sys2Proof.Machine.execStashFill cid line s
  | .clauseStart ag => Sys2Proof.Machine.execClauseStart ag s
  | .issueChoice cl core slot => Sys2Proof.Machine.execIssueChoice cl core slot s
  | .longLatencyComplete ag k => Sys2Proof.Machine.execLongLatencyComplete ag k s
  | .storePerformed ag => Sys2Proof.Machine.execStorePerformed ag s
  | .redAcknowledged ag => Sys2Proof.Machine.execRedAcknowledged ag s
  | .fragmentFusion cid team sid => Sys2Proof.Machine.execFragmentFusion cid team sid s
  | .spillRestore cid team frag => Sys2Proof.Machine.execSpillRestore cid team frag s
  | .trapEntry ag => Sys2Proof.Machine.execTrapEntry ag s
  | .sequencerFault cid ctx => Sys2Proof.Machine.execSequencerFault cid ctx s
  | .registerGrant cid team => Sys2Proof.Machine.execRegisterGrant cid team s
  | .growDeadlock cl core => Sys2Proof.Machine.execGrowDeadlock cl core s
  | .dispatchPacket vf q => Sys2Proof.Machine.execDispatchPacket vf q s
  | .waitWordRead vf key => Sys2Proof.Machine.execWaitWordRead vf key s
  | .priorityPeriodEnd vf key => Sys2Proof.Machine.execPriorityPeriodEnd vf key s
  | .crewPlace vf key => Sys2Proof.Machine.execCrewPlace vf key s
  | .castCompletionRelease vf key => Sys2Proof.Machine.execCastCompletionRelease vf key s
  | .waveForm vf key => Sys2Proof.Machine.execWaveForm vf key s
  | .commitPoint cid => Sys2Proof.Machine.execCommitPoint cid s
  | .timedCommitPoint cid => Sys2Proof.Machine.execTimedCommitPoint cid s
  | .rollback cid => Sys2Proof.Machine.execRollback cid s
  | .writeThrough cl core line => Sys2Proof.Machine.execWriteThrough cl core line s
  | .promotionRequest line cl core => Sys2Proof.Machine.execPromotionRequest line cl core s
  | .commandAccept cl copy => Sys2Proof.Machine.execCommandAccept cl copy s
  | .forkGrant cid team => Sys2Proof.Machine.execForkGrant cid team s
  | .tileFetchLine cl op => Sys2Proof.Machine.execTileFetchLine cl op s
  | .mmaKBlock cl op => Sys2Proof.Machine.execMmaKBlock cl op s
  | .mmaCompletion cl op => Sys2Proof.Machine.execMmaCompletion cl op s
  | .scratchpadLineArrival cl op line => Sys2Proof.Machine.execScratchpadLineArrival cl op line s
  | .copyCompletion cl op => Sys2Proof.Machine.execCopyCompletion cl op s
  | .xferChunk cl op who data => Sys2Proof.Machine.execXferChunk cl op who data s
  | .xferStepCompletion cl op => Sys2Proof.Machine.execXferStepCompletion cl op s
  | .eagerSlotWrite vf handle who data => Sys2Proof.Machine.execEagerSlotWrite vf handle who data s
  | .slotReleaseNotice vf handle who head => Sys2Proof.Machine.execSlotReleaseNotice vf handle who head s
  | .readyToReceive cl op who dest owners => Sys2Proof.Machine.execReadyToReceive cl op who dest owners s
  | .reductionSlotRequest vf handle seq => Sys2Proof.Machine.execReductionSlotRequest vf handle seq s
  | .fabricPacketReceive p => Sys2Proof.Machine.execFabricPacketReceive p s
  | .peerQputReceive peer pvf jobkey vf queue record => Sys2Proof.Machine.execPeerQputReceive peer pvf jobkey vf queue record s
  | .windowCompare cid => Sys2Proof.Machine.execWindowCompare cid s
  | .pipelineError cid u => Sys2Proof.Machine.execPipelineError cid u s
  | .uncorrectableRegister cid r => Sys2Proof.Machine.execUncorrectableRegister cid r s
  | .poisonedDataConsumed cid pa => Sys2Proof.Machine.execPoisonedDataConsumed cid pa s
  | .engineReset cl => Sys2Proof.Machine.execEngineReset cl s
  | .l2TagParity die slice lines => Sys2Proof.Machine.execL2TagParity die slice lines s
  | .sliceEnd part => Sys2Proof.Machine.execSliceEnd part s
  | .switchIn part => Sys2Proof.Machine.execSwitchIn part s
  | .swapDown vf page tier => Sys2Proof.Machine.execSwapDown vf page tier s
  | .swapUp vf page => Sys2Proof.Machine.execSwapUp vf page s
  | .demandSwapUp vf va => Sys2Proof.Machine.execDemandSwapUp vf va s
  | .supervisorPageMap vf va => Sys2Proof.Machine.execSupervisorPageMap vf va s
  | .bucketRefill => Sys2Proof.Machine.execBucketRefill s
  | .meteredRequest mc vf bytes => Sys2Proof.Machine.execMeteredRequest mc vf bytes s
  | .tbcWrite mc vf val => Sys2Proof.Machine.execTbcWrite mc vf val s
  | .pooladd vf val => Sys2Proof.Machine.execPooladd vf val s
  | .poolrel vf val => Sys2Proof.Machine.execPoolrel vf val s
  | .dbell vf queue record => Sys2Proof.Machine.execDbell vf queue record s
  | .ownerRegister vf => Sys2Proof.Machine.execOwnerRegister vf s
  | .nonceRead vf => Sys2Proof.Machine.execNonceRead vf s
  | .handleRegister vf rec_ => Sys2Proof.Machine.execHandleRegister vf rec_ s
  | .vfRelease vf => Sys2Proof.Machine.execVfRelease vf s
  | .moduleTurnover => Sys2Proof.Machine.execModuleTurnover s
  | .supervisorRestart k turnover => Sys2Proof.Machine.execSupervisorRestart k turnover s
  | .fabricIdAssign id => Sys2Proof.Machine.execFabricIdAssign id s
  | .getVersion => Sys2Proof.Machine.execGetVersion s
  | .getCapabilities => Sys2Proof.Machine.execGetCapabilities s
  | .negotiateAlgorithms => Sys2Proof.Machine.execNegotiateAlgorithms s
  | .getDigests => Sys2Proof.Machine.execGetDigests s
  | .getCertificate slot => Sys2Proof.Machine.execGetCertificate slot s
  | .challenge slot => Sys2Proof.Machine.execChallenge slot s
  | .getMeasurements => Sys2Proof.Machine.execGetMeasurements s
  | .keyExchange => Sys2Proof.Machine.execKeyExchange s
  | .finish => Sys2Proof.Machine.execFinish s
  | .heartbeat => Sys2Proof.Machine.execHeartbeat s
  | .keyUpdate => Sys2Proof.Machine.execKeyUpdate s
  | .endSession => Sys2Proof.Machine.execEndSession s
  | .vendorDefinedRequest payload => Sys2Proof.Machine.execVendorDefinedRequest payload s
  | .unsupportedRequest code => Sys2Proof.Machine.execUnsupportedRequest code s
  | .thermalThrottle island => Sys2Proof.Machine.execThermalThrottle island s
  | .coolantLoss => Sys2Proof.Machine.execCoolantLoss s
  | .registerWrite target val => Sys2Proof.Machine.execRegisterWrite target val s
  | .imageLoad vf img => Sys2Proof.Machine.execImageLoad vf img s
  | .debuggerResume ag => Sys2Proof.Machine.execDebuggerResume ag s
  | .moduleReset => Sys2Proof.Machine.execModuleReset s
  | .pcieLinkStateChange link up => Sys2Proof.Machine.execPcieLinkStateChange link up s
  | .fabricLinkStateChange port up => Sys2Proof.Machine.execFabricLinkStateChange port up s
  | .partitionTableWrite entry clust vfs slice flags reserved => Sys2Proof.Machine.execPartitionTableWrite entry clust vfs slice flags reserved s
  | .handleDeregister vf handle => Sys2Proof.Machine.execHandleDeregister vf handle s
  | .tierWrite vf base size => Sys2Proof.Machine.execTierWrite vf base size s

end Sys2Proof.Machine
end

