-- ==== Sys2Proof/Machine/Turn.lean ====
section
/-! DEFINITION. One turn of the machine: the instruction at which the current agent stands, and what happens by itself where
no agent has the turn (log 1). -/

namespace Sys2Proof.Machine

/-! ### Instructions and the agents that lack what they need (R83, R84) -/

def opIn (op : Nat) (rs : List (Nat × Nat)) : Bool := rs.any (fun r => decide (r.1 ≤ op) && decide (op ≤ r.2))

/-- Opcodes that need a team fragment's registers or masks, or its team. -/
def needsFrag (op : Nat) : Bool :=
  opIn op [(0x03, 0x03), (0x0B, 0x0B), (0x27, 0x27), (0x30, 0x3B), (0x40, 0x5A), (0x60, 0x6E), (0x70, 0x73), (0x78, 0x7E),
    (0x80, 0x82), (0xA0, 0xA3), (0xA8, 0xA8), (0xAA, 0xAA), (0xAC, 0xAD), (0xB0, 0xB3), (0xB8, 0xB8), (0xBE, 0xBF),
    (0xD2, 0xD2), (0xD5, 0xD5)]
/-- Opcodes that need a crew. -/
def needsCrew (op : Nat) : Bool := opIn op [(0x7F, 0x7F), (0x84, 0x84), (0x92, 0x95), (0xB9, 0xBD), (0xC3, 0xC3)]
/-- Opcodes that need a tile grant. -/
def needsGrant (op : Nat) : Bool := opIn op [(0xBC, 0xBF), (0xC3, 0xC3)]

/-- The phase that an instruction on claims needs. -/
def phaseOk (op : Nat) (p : Phase) : Bool :=
  match op with
  | 0xA0 => p == .claim
  | 0xA1 => p == .claim
  | 0xA2 => p == .commit
  | 0xA3 => p != .none
  | _ => true

/-- An instruction of this opcode needs something that the agent lacks, whatever its other fields hold. -/
def State.lacks (s : State) (ag : Agent) (w : Word) : Bool :=
  let op := fOp w
  let granted : Nat → Bool := fun cid => match kvFind s.crews cid with | some c => c.body.grant.isSome | none => false
  let open_ : Nat → Bool := fun cid => match kvFind s.crews cid with
    | some c => c.body.grant.any (fun g => !g.met)
    | none => false
  match ag with
  | .sup _ => needsFrag op || needsCrew op || (op == 0x02 && decide (3 ≤ (fTy w).toNat) && decide ((fTy w).toNat ≤ 4))
  | .seq cid _ => needsFrag op || (needsGrant op && !granted cid) ||
      (op == 0x02 && decide (3 ≤ (fTy w).toNat) && decide ((fTy w).toNat ≤ 4))
  | .frag cid t fn =>
    op == 0xBC || op == 0xBD || (needsGrant op && !open_ cid) || (op == 0xB8 && granted cid) ||
    (match s.team? cid t with
      | some tm => !phaseOk op tm.phase || ((op == 0xA1 || op == 0xA2) && tm.frags.length != 1) ||
        ((op == 0x0B || (op == 0xD5 && ((kvFind tm.frags fn).any (fun th => th.priv != .user)))) &&
          !(tm.frame.any (fun f => f.frag == fn)))
      | none => false)

/-- The current agent's instruction: it is decoded and executed, or it is illegal with the lowest sub-code that applies (R84).
A thread of a trailing copy that may not go on yet gives up its turn (log 20). -/
def State.turn (s : State) (ag : Agent) (th : Thread) : Host.Outcome State Fault Refusal :=
  if th.clause.isEmpty || !s.mayGo ag th then .next { s with cur := none }
  else match Sys2Proof.decode th.eng (hereWord th) with
    | .ok i => exec i s
    | .error e =>
      let sub := if 4 ≤ illegalCode e && s.lacks ag (hereWord th) then 3 else illegalCode e
      .next (s.takeTrap ag { code := 0x01, sub := sub, lanes := th.exm })

/-! ### The recorder's writes (R348, R349) -/

/-- The bytes of an entry. -/
def LogEntry.bytes (e : LogEntry) : List Byte :=
  leBytes 1 e.kind ++ leBytes 4 e.crew ++ leBytes 1 e.team ++ leBytes 2 e.payload.length ++ leBytes 8 e.cyc ++ e.payload

/-- Where a byte of a log lies, while its page is present and pinned. -/
def State.logByte (s : State) (vf va : Nat) : Option Nat :=
  match s.walk (s.ctx vf).root va with
  | .leaf _ e l => if ptePin e then some (s.normPa (pteAddr e l va)) else none
  | .absent _ => none

/-- Recording in a log stops, and its first entry is marked truncated; how, the spec does not say (R349, log 73). -/
def State.endLog (s : State) (vf g : Nat) : State :=
  let s1 := s.modCtx vf (fun c => { c with rlogFull := addOnce c.rlogFull g })
  if kvGet 0 (s.ctx vf).rlogPos g = 0 then s1
  else s1.perform vf ((List.range 16).filterMap (fun k => (s.logByte vf (g / 4096 * 4096 % 2 ^ 57 + k)).map (fun pa =>
    (pa, Config.truncMark k (s.homeByte pa)))))

/-- The recorder writes its oldest entry; a log that is full or has lost a page stops. -/
def State.drainLog (s : State) (vf : Nat) : State :=
  match (s.ctx vf).rlogOut with
  | [] => s
  | e :: rest =>
    let pos := kvGet 0 (s.ctx vf).rlogPos e.log
    let bs := e.bytes
    let base := e.log / 4096 * 4096 % 2 ^ 57
    let pas := (List.range bs.length).map (fun k => s.logByte vf (base + pos + k))
    let s1 := s.modCtx vf (fun c => { c with rlogOut := rest })
    if (s.ctx vf).rlogFull.contains e.log then s1
    else if 65536 * (e.log % 4096) < pos + bs.length || !s.logThere vf e.log false || pas.any Option.isNone then s1.endLog vf e.log
    else (s1.perform vf ((pas.zip bs).filterMap (fun x => x.1.map (fun pa => (pa, x.2))))).modCtx vf (fun c =>
      { c with rlogPos := kvSet c.rlogPos e.log (pos + bs.length) })

/-- The agent whose instruction, or whose engine command, a step has worked on. -/
def State.actor (s0 s : State) : Option Agent :=
  match (match s0.agenda with | some _ :: _ => none | _ => s0.cur) with
  | some ag => some ag
  | none => s0.clusters.findSome? (fun e => ((e.2.mq ++ e.2.cq).find? (fun m => s.cmd? e.1 m.op != some m)).map Cmd.ag)
/-- New label IDs of a context are recorded with the casts it records, and, in the cast of the crew that has allocated them, under that
crew and its team (R45, R349). -/
def noteLabels (s0 s : State) (vf : Nat) : State :=
  let new := (s.ctx vf).labels.drop (s0.ctx vf).labels.length
  if new.isEmpty then s
  else
    let who : Option (Nat × Nat × Nat) := (s0.actor s).bind (fun ag => (agentCid ag).bind (fun cid =>
      (kvFind s0.crews cid).bind (fun c => if c.vf == vf then some (cid, c.key, s0.agentTeam ag) else none)))
    (kvKeys (s.ctx vf).casts).foldl (fun s key => new.foldl (fun s o => match who with
      | some (cid, k, t) => if k == key && (kvFind s.crews cid).isSome then s.record cid 7 t (leBytes 8 o.toNat)
          else s.recordCast vf key 7 (leBytes 8 o.toNat)
      | none => s.recordCast vf key 7 (leBytes 8 o.toNat)) s) s
def State.noteAllLabels (s0 s : State) : State :=
  (kvKeys s.ctxs).foldl (fun s1 vf => if (s.ctx vf).casts.all (fun e => e.2.recorded.isNone) then s1 else noteLabels s0 s1 vf) s

/-! ### What happens by itself (log 1) -/

/-- Fragments and sequencer contexts of resident crews, and the supervisor cores that have started. -/
def State.agents (s : State) : List (Agent × Thread) :=
  (s.crews.filter (fun e => e.2.resident)).flatMap (fun e =>
    e.2.body.teams.flatMap (fun t => t.2.frags.map (fun f => (Agent.frag e.1 t.1 f.1, f.2))) ++
    (e.2.body.seqs.filter (fun q => !q.2.ended)).map (fun q => (Agent.seq e.1 q.1, q.2.th))) ++
  s.sups.map (fun u => (Agent.sup u.1, u.2.th))

/-- A list as it is taken up at a turn, each element first once in as many turns as there are elements. -/
def rotate {α : Type} (n : Nat) (l : List α) : List α := l.drop (n % l.length) ++ l.take (n % l.length)

/-- An operation or a context of a cluster's engine has made no progress for 2^24 cycles (R345). -/
def State.engineHangs (s : State) (cl : Nat) : Bool :=
  (s.cluster cl).mq.any (fun m => decide (m.progress + 2 ^ 24 ≤ s.cyc)) ||
    s.crews.any (fun e => e.2.resident && e.2.cl == cl && e.2.body.seqs.any (fun q =>
      !q.2.ended && decide (q.2.th.ready + 2 ^ 24 ≤ s.cyc)))

/-- Events of one cluster's engines. -/
def State.engineEvents (s : State) (cl : Nat) : List Instr :=
  let q := s.cluster cl
  [.commandAccept cl false, .commandAccept cl true] ++
  q.mq.flatMap (fun m => [.mmaCompletion cl m.op, .mmaKBlock cl m.op, .tileFetchLine cl m.op]) ++
  q.cq.flatMap (fun m => m.todo.map (.scratchpadLineArrival cl m.op) ++ [.copyCompletion cl m.op, .xferStepCompletion cl m.op] ++
    (match m.post with
      | some k => (k.rank :: s.localRanks k k.ranks.length).map (fun q => .xferChunk cl m.op
          { fab := s.fabricId.getD 0, pvf := ((k.ranks[q]?).map Prod.snd).getD 0, jobkey := k.jobkey, rank := q } [])
      | none => [])) ++
  (if s.engineHangs cl then [.engineReset cl] else [])

/-- Events of one thread. -/
def threadEvents (ag : Agent) (th : Thread) : List Instr :=
  (match ag, th.park with
    | .frag cid t _, .join => [.fragmentFusion cid t (match th.stack with | r :: _ => r.sid | [] => 0)]
    | .frag cid t _, .grow _ => [.registerGrant cid t]
    | .frag cid t _, .fork => [.forkGrant cid t]
    | _, .fault _ => [.trapEntry ag]
    | .seq cid x, .stopped _ _ _ => [.sequencerFault cid x]
    | _, _ => []) ++
  (match ag with | .frag cid t f => if th.spilled then [.spillRestore cid t f] else [] | _ => []) ++
  (List.range th.pend.length).map (.longLatencyComplete ag) ++
  (if th.outSt = 0 then [] else [.storePerformed ag]) ++ (if th.outAt = 0 then [] else [.redAcknowledged ag])

/-- Events of one crew. -/
def crewEvents (cid : Nat) (c : Crew) : List Instr :=
  c.body.pad.wanted.map (fun e => .stashFill cid e.1) ++
  (match c.copy with
    | .solo => []
    | .lead => [.windowCompare cid]
    | .trail => [.commitPoint cid]) ++ [.timedCommitPoint cid]

/-- Events of one context's dispatcher and pages. -/
def State.contextEvents (s : State) (vf : Nat) : List Instr :=
  let c := s.ctx vf
  (s.waiters vf).map (fun w => if w.sub = 1 then .demandSwapUp vf w.va else .supervisorPageMap vf w.va) ++
  (match s.nextQueue vf with | some q => [.dispatchPacket vf q] | none => []) ++
  (kvKeys c.casts).flatMap (fun k =>
    [.castCompletionRelease vf k, .waveForm vf k, .waitWordRead vf k, .priorityPeriodEnd vf k, .crewPlace vf k]) ++
  (kvKeys c.tierPages).map (.swapUp vf)

def State.partEvents (s : State) : List Instr :=
  (match s.switchNow with
    | some (_, p, v) => match s.nextSwap p v with | some (x, page, t) => [.swapDown x page t] | none => []
    | none => []) ++
  (kvKeys s.parts).flatMap (fun n => [.switchIn n, .sliceEnd n])

def State.coreEvents (s : State) : List Instr :=
  (((s.crews.filter (fun e => e.2.resident)).map (fun e => (e.2.cl, e.2.core))).eraseDups).flatMap (fun p =>
    .growDeadlock p.1 p.2 :: (List.range 4).map (.issueChoice p.1 p.2))

def State.writeEvents (s : State) : List Instr :=
  s.clusters.flatMap (fun e => e.2.l1s.flatMap (fun x => (kvKeys x.2.writers).map (.writeThrough e.1 x.1)))

/-- Clusters with something to do. -/
def State.busyClusters (s : State) : List Nat := (kvKeys s.clusters).filter (fun n =>
  let q := s.cluster n; !q.mq.isEmpty || !q.cq.isEmpty || s.engineHangs n)

/-- What may happen next, in the order in which it is tried. Committed lines are written through at every eighth turn
before the threads go on, and else after them. -/
def State.candidates (s : State) : List Instr :=
  let ags := s.agents
  let starts := rotate (s.tick / 2) (ags.map (fun e => Instr.clauseStart e.1))
  (if s.turnover && s.switches.isEmpty then [.moduleTurnover] else []) ++
  s.busyClusters.flatMap s.engineEvents ++ ags.flatMap (fun e => threadEvents e.1 e.2) ++
  s.crews.flatMap (fun e => crewEvents e.1 e.2) ++ (kvKeys s.ctxs).flatMap s.contextEvents ++
  s.ladleQ.map (fun w => .demandSwapUp w.1 w.2.1) ++ s.partEvents ++ [.bucketRefill] ++
  (if s.tick % 8 = 7 then s.writeEvents ++ s.coreEvents ++ starts else s.coreEvents ++ starts ++ s.writeEvents)

/-- The first of some events that changes the state; crews with nothing left to do retire first. -/
def State.firstOf (s : State) : List Instr → State
  | [] => s
  | i :: is => match exec i s with
    | .next s1 => if s1 = s then s.firstOf is else s1
    | _ => s.firstOf is

def State.retireAll (s : State) : State := (kvKeys s.crews).foldl State.retireCrew s

/-- The machine goes on by itself. -/
def State.auto (s : State) : State :=
  match s.ctxs.find? (fun e => !e.2.rlogOut.isEmpty) with
  | some e => s.drainLog e.1
  | none =>
    let s1 := s.retireAll
    if s1 = s then s.firstOf s.candidates else s1

/-- An event comes from outside or settles an order; an instruction word never comes from there. -/
def isEvent (i : Instr) : Bool := (encode i).isNone

/-- What the next step does, before its time is counted. -/
def State.act (s : State) : Host.Outcome State Fault Refusal :=
  match s.agenda with
  | some i :: rest => if isEvent i then exec i { s with agenda := rest } else .next { s with agenda := rest }
  | ag =>
    let s1 := { s with agenda := ag.tail }
    match s1.cur with
    | some a => match s1.thread? a with
      | some th => s1.turn a th
      | none => .next { s1 with cur := none }
    | none => .next s1.auto

/-- After a step the recorder sees the labels it has allocated, the wait words that it has changed are read (R179), fragments that
have become ready or unready are noted (R189), and its cycles pass (log 2). -/
def State.after (s0 s : State) : State :=
  let s1 := s0.noteReady (s0.rereadWaits (s0.noteAllLabels s))
  { s1 with tick := s1.tick + 1, cyc := s1.cyc + Config.elapsed s1.tick }

end Sys2Proof.Machine
end

