-- ==== Sys2Proof/Machine/Step.lean ====
section
/-! DEFINITION. The step of the machine, and the state in which its next instruction is a given word. -/

namespace Sys2Proof.Machine

/-- One step: the next event of the agenda, the current agent's instruction, or what the machine does by itself; then the
step's cycles pass. -/
def step (s : State) : Host.Outcome State Fault Refusal :=
  match s.act with
  | .next s1 => .next (s.after s1)
  | .fault f => .fault f
  | .refused r => .refused r

/-- MMA and MZERO run in a matrix sequencer's stream. -/
def seqOnly (w : Word) : Bool := fOp w == 0xBC || fOp w == 0xBD

/-- The class of the clause: team for what a team clause admits, supervisor for the rest and for the system instructions. -/
def fetchEng (w : Word) : Eng :=
  match Sys2Proof.decode .team w with
  | .ok _ => if fOp w < 0xD0 then .team else .supervisor
  | .error _ => .supervisor

/-- The thread that stands at the word: in a team clause, or in an active handler, so that an instruction of a handler finds
its privilege and its trap frame. -/
def fetchThread (w : Word) (eng : Eng) : Thread :=
  { clause := [w], eng := eng, exm := lanesBelow 32, f := lanesBelow 32
    priv := if eng == .supervisor then .ctxSup else .user, handler := eng == .supervisor }

def fetchFrame : TrapFrame :=
  { frag := 0, pc := 0, slot := 0, code := 0x21, sub := 0, plbl := 0, priv := .user, info := 0, armed := none,
    mask := lanesBelow 32, lanes := lanesBelow 32, addrs := [], uaddr := none, alab := [], len := 1 }

def fetchTeam (w : Word) : Team :=
  { lanes := 32, live := lanesBelow 32, frags := [(0, fetchThread w (fetchEng w))], scopes := [(0, 256)]
    frame := if fetchEng w == .supervisor then some fetchFrame else none, nextFrag := 1 }

/-- A stream of the crew's grant that stands at the word. -/
def fetchSeq (w : Word) : SeqCtx := { kind := .matrix, team := 0, th := fetchThread w .matrix }

def fetchBody (w : Word) : Body :=
  if seqOnly w then
    { teams := [(0, fetchTeam 0)], seqs := [(0, fetchSeq w)], nextSeq := 1
      grant := some { team := 0, tiles := List.replicate 8 {}, mseq := some 0, cseq := none } }
  else { teams := [(0, fetchTeam w)] }

/-- The state with the instruction word w as what the machine executes next: the program has been loaded and launched, and
one crew of one team of 32 lanes stands at the word (log 21). -/
def State.withFetchWord (s : State) (nbits w : Nat) : State :=
  let wd : Word := BitVec.ofNat 64 (w % 2 ^ nbits)
  let b := fetchBody wd
  { s with
    agenda := [], cur := some (if seqOnly wd then .seq 0 0 else .frag 0 0 0)
    crews := [(0, { vf := 0, key := 0, index := 0, body := b, saved := b })] }

end Sys2Proof.Machine
end

