-- ==== Sys2Proof/Safety.lean ====
section
/-! DEFINITION. The terms in which claims speak of a run: who has the turn, what a safe step is, and what stays as it was. -/

namespace Sys2Proof.Machine

/-! ### Who has the turn -/

/-- An agent has the turn, with its thread. -/
def State.Turn (s : State) (ag : Agent) (th : Thread) : Prop := s.cur = some ag ∧ s.thread? ag = some th

/-- A fragment has the turn, with its crew, team and thread. -/
def State.AtFrag (s : State) (cid t fn : Nat) (c : Crew) (tm : Team) (th : Thread) : Prop :=
  s.cur = some (.frag cid t fn) ∧ kvFind s.crews cid = some c ∧ kvFind c.body.teams t = some tm ∧
    kvFind tm.frags fn = some th

/-- A sequencer context has the turn, with its crew. -/
def State.AtSeq (s : State) (cid x : Nat) (c : Crew) (q : SeqCtx) : Prop :=
  s.cur = some (.seq cid x) ∧ kvFind s.crews cid = some c ∧ kvFind c.body.seqs x = some q

/-- No lookahead window is open and no labelled branch is (R40, R60). -/
def Thread.Calm (th : Thread) : Prop := th.pend = [] ∧ th.openSpan = none

/-- A register name exists for an agent: v registers of an open scope of its team, and v and m registers for fragments
alone (R33, R83). -/
def State.hasName (s : State) (ag : Agent) : RegName → Bool
  | .s _ => true
  | .v n => match ag with
    | .frag cid t _ => (s.team? cid t).any (fun tm => tm.inScope n)
    | _ => false
  | .m _ => match ag with
    | .frag _ _ _ => true
    | _ => false

/-- No lookahead window has run out or holds one of the registers that an instruction names, and the open write span
declares each one that it writes (R41, R60). -/
def Thread.free (th : Thread) (names ws : List RegName) : Bool :=
  th.pend.all (fun p => p.left != 0 && !p.dsts.any (fun d => names.contains d && d != .s 63)) &&
    match th.openSpan with
    | none => true
    | some o => ws.all (spanAllows o.span)

/-- An instruction that reads some registers and writes others passes the checks that every instruction makes first. -/
def State.mayIssue (s : State) (ag : Agent) (th : Thread) (rs ws : List RegName) : Bool :=
  (rs ++ ws).all (s.hasName ag) && th.free (rs ++ ws) ws

/-- The context whose labels, keys and pages govern an agent (R367, R352). -/
def State.ctxOf (s : State) (ag : Agent) : Nat :=
  match ag with
  | .frag cid _ _ => match kvFind s.crews cid with | some c => c.vf | none => 0
  | .seq cid _ => match kvFind s.crews cid with | some c => c.vf | none => 0
  | .sup k => (supVf (s.sup k)).getD 0

/-- The context's label table is replaced: what a join of labels may do (R45). -/
def State.setLabels (s : State) (vf : Nat) (tab : List (BitVec 64)) : State :=
  s.modCtx vf (fun c => { c with labels := tab })

/-- The join of a list of labels in an agent's context: the label and the table after it (R46); none when the table is
full. -/
def State.joined (s : State) (ag : Agent) (ls : List Lbl) : Option (Lbl × List (BitVec 64)) :=
  joinAllIn (s.ctx (s.ctxOf ag)).labels 0 ls

/-! ### Masks as a fragment sees them -/

/-- The bits and the label of a mask as a fragment sees it: m0 is its exm, with the PC label (R27, R47). -/
def maskVal (tm : Team) (th : Thread) (n : Nat) : Mask := if n = 0 then th.exm else (kvGet {} tm.m n).bits
def maskLbl (tm : Team) (th : Thread) (n : Nat) : Lbl := if n = 0 then th.pcl else (kvGet {} tm.m n).lab

/-! ### Branches (R79, R104) -/

/-- No load of the thread is still held: its windows can end (R40). -/
def Thread.heldFree (th : Thread) : Bool := !th.pend.any (fun p => p.held.isSome)

/-- Every lookahead window of the thread ends. -/
def State.closed (s : State) (ag : Agent) (th : Thread) : State :=
  if th.pend = [] then s else s.modThread ag (fun th => { th with pend := [] })

/-- The word at an address can be read as code and is a header: the state after the read (R79). -/
def State.headerAt (s : State) (ag : Agent) (va : Int) : Option State :=
  if va < 0 ∨ va % 8 ≠ 0 then none
  else match s.fetchFor ag va.toNat with
    | .ok (w, s1) => if hdrOk w then some s1 else none
    | .error _ => none

/-- The words at some addresses can be read as code and are headers: the state after the reads (R79). -/
def State.headersAt (s : State) (ag : Agent) (vas : List Int) : Option State :=
  vas.foldlM (fun t va => t.headerAt ag va) s

/-- The clearance of an agent (R57). -/
def State.clearOf (s : State) (ag : Agent) : Lbl :=
  match ag with
  | .frag cid t _ => match s.team? cid t with | some tm => tm.clear | none => 0
  | .seq cid x => match (kvFind s.crews cid).bind (fun c => kvFind c.body.seqs x) with | some q => q.clear | none => 0
  | .sup _ => 0

/-- A condition label under the clearance that the PC label dominates: the branch needs no span (R58). -/
def State.unlabelled (s : State) (ag : Agent) (th : Thread) (l : Lbl) : Bool :=
  (s.ctx (s.ctxOf ag)).dominates (s.clearOf ag) l && (s.ctx (s.ctxOf ag)).dominates th.pcl l

/-- A conditional branch without a span drops what was armed (R59), and its windows end if it is taken. -/
def State.moved (s : State) (ag : Agent) (th : Thread) (taken : Bool) : State :=
  (if taken then s.closed ag th else s).modThread ag (fun th => { th with armed := none })

/-- A labelled branch of the thread, with a join or without, has no span to open: none is armed, or the armed one does not lie within
the open one (R59, R62). -/
def Thread.spanMissing (th : Thread) (join : Bool) : Bool :=
  match th.armed with
  | none => true
  | some sp => !join || match th.openSpan with | some o => !spanWithin sp o.span | none => false

/-- The condition of a BRC on a uniform register (R79): .z asks for zero. -/
def State.regTest (s : State) (ag : Agent) (k : BrKind) (a : Nat) : Bool :=
  if k = .z then (s.readS ag a).val == 0 else (s.readS ag a).val != 0

/-- The condition of a BRC of a fragment and its label (R79, R104). -/
def State.brTest (s : State) (ag : Agent) (tm : Team) (th : Thread) (k : BrKind) (a : Nat) : Bool × Lbl :=
  match k with
  | .nz => ((s.readS ag a).val != 0, (s.readS ag a).lab)
  | .z => ((s.readS ag a).val == 0, (s.readS ag a).lab)
  | .any => (th.exm &&& maskVal tm th a != 0, maskLbl tm th a)
  | .all => (th.exm &&& ~~~(maskVal tm th a) == 0, maskLbl tm th a)

/-- The splits of a labelled branch that moves the whole fragment: the entry that its span opens (R59 to R61). -/
def State.spanOpened (s : State) (ag : Agent) (sid join : Nat) (l : Lbl) (o : OpenSpan) (taken : Bool) : State :=
  s.modThread ag (fun th => { th with
    armed := none, pcl := l, stack := SplitRef.mk sid join th.pcl (some o) false taken 0 0 :: th.stack })

/-- The core or the team has no split-table entry free (R28, R30). -/
def State.splitsFull (s : State) (c : Crew) (tm : Team) : Bool :=
  decide (Config.coreSplits ≤ s.coreSplits c.cl c.core) || decide (Config.teamFrags ≤ tm.frags.length)

/-- The two sides of a split: the lanes that take the branch keep the fragment's number, the others become a new fragment at
the next header, spilled to the context area where no entry is free (R28, R30, R100). -/
def State.split (s : State) (cid t fn : Nat) (c : Crew) (tm : Team) (th : Thread) (pc join : Nat) (m : Mask)
    (sp : Option OpenSpan) (pcl : Lbl) : State :=
  let ref : Bool → SplitRef := fun taken =>
    { sid := tm.nextSid, join := join, pcl := th.pcl, span := sp, split := true, taken := taken, psig := th.sig
      born := c.win * 2 ^ 32 + th.count + 1 }
  let base : Thread := { th with clause := [], slot := 0, pend := [], armed := none, pcl := pcl, sig := 0,
                                 count := th.count + 1, ready := s.cyc, park := .run, entered := s.cyc, began := none }
  let on := th.exm &&& m
  let taken : Thread := { base with pc := pc, exm := on, f := on, stack := ref true :: th.stack }
  let rest : Thread := { base with pc := nextHeader th, exm := th.exm &&& ~~~m, f := th.f &&& ~~~on
                                   stack := ref false :: th.stack, active := false, outSt := 0, outAt := 0, outEng := 0
                                   spilled := s.splitsFull c tm }
  let s1 := match (if s.splitsFull c tm then s.blockAddr c (spillOfs t tm.nextFrag) else none) with
    | some pa => s.writeHome c.vf (zipAddr pa (spillBytes rest))
    | none => s
  { s1.modTeam cid t (fun tm => { tm with
      frags := kvSet (kvSet tm.frags fn taken) tm.nextFrag rest, nextFrag := tm.nextFrag + 1, nextSid := tm.nextSid + 1 })
    with cur := none }

/-- Lanes leave a team at an EXIT: its live lanes, and their bits in every mask (R25, R106). -/
def State.lanesGone (s : State) (cid t : Nat) (gone : Mask) : State :=
  s.modTeam cid t (fun tm => { tm with
    live := tm.live &&& ~~~gone
    m := (tm.m.map (fun e => (e.1, { e.2 with bits := e.2.bits &&& ~~~gone }))).filter (fun e => e.2 != {}) })

/-- A commit point of an unpaired crew can be made now: its core waits for no pin and the page of its commit record is there. -/
def State.mayCommit (s : State) (cid : Nat) (c : Crew) : Bool := c.copy == .solo && !s.commitWaits cid && !s.areaGone cid

/-- An instruction that acts once acts: a fragment has an active lane (R18, R162, R233). -/
def Acts (ag : Agent) (th : Thread) : Prop := match ag with
  | .frag _ _ _ => th.exm ≠ 0
  | _ => True

/-! ### Accesses (R146 to R153) -/

/-- The claim label that joins an agent's address labels while its team is in its commit phase (R63). -/
def State.claimLabs (s : State) (ag : Agent) : List Lbl :=
  match ag with
  | .frag cid t _ =>
    match kvFind s.crews cid with
    | some c => if (kvFind c.body.teams t).map Team.phase == some .commit then [c.body.clab] else []
    | none => []
  | .seq cid x =>
    match kvFind s.crews cid with
    | some c =>
      if ((kvFind c.body.seqs x).bind (fun q => kvFind c.body.teams q.team)).map Team.phase == some .commit then [c.body.clab]
      else []
    | none => []
  | .sup _ => []

/-- The one access of [sA + sB + o] (R146, R147). -/
def State.uniAccess (s : State) (ag : Agent) (size a b : Nat) (ofs : Int) : Acc :=
  { uni := true, size := size, eas := [(0, eaUniform (s.readS ag a).val (s.readS ag b).val ofs)]
    alab := [(s.readS ag a).lab, (s.readS ag b).lab] ++ s.claimLabs ag }

/-- The accesses of [sA + vB*k + o], one for each active lane, and each group's address labels (R146). -/
def State.laneAccess (s : State) (ag : Agent) (tm : Team) (th : Thread) (size a : Nat) (idx : Option Nat) (sc : Bool) (ofs : Int) :
    Acc × (Nat → List Lbl) :=
  ({ uni := false, size := size
     eas := (mlanes th.exm).map (fun l => (l, eaLane (s.readS ag a).val (idx.map (fun b => tm.lane b l)) sc size ofs))
     alab := [(s.readS ag a).lab] ++ (match idx with | some b => tm.crossLab th.exm b | none => []) ++ s.claimLabs ag },
   fun g => [(s.readS ag a).lab] ++ (match idx with | some b => [tm.vlab b g] | none => []) ++ s.claimLabs ag)

/-- The accesses of [vP + o] (R146). -/
def State.pairAccess (s : State) (ag : Agent) (tm : Team) (th : Thread) (size p : Nat) (ofs : Int) : Acc × (Nat → List Lbl) :=
  ({ uni := false, size := size
     eas := (mlanes th.exm).map (fun l => (l, eaPair (tm.lane p l) (tm.lane (p + 1) l) ofs))
     alab := tm.crossLab th.exm p ++ tm.crossLab th.exm (p + 1) ++ s.claimLabs ag },
   fun g => [tm.vlab p g, tm.vlab (p + 1) g] ++ s.claimLabs ag)

/-- The fault of a uniform access: it strikes all the active lanes at the one address (R42, R327). -/
def uniTrap (code sub : Nat) (th : Thread) (x : Acc) (ea : Int) : Trap :=
  { code := code, sub := sub, lanes := th.exm, alab := x.alab, pages := [ea.toNat / 65536]
    uaddr := some (BitVec.ofInt 64 ea) }

/-- A write by lanes passes the checks of R149: each location is there and may be written, each written granule is claimed in a
commit phase, and each granule's label dominates its group's check label. -/
def Granted (k : AccKind) (a : Acc) (gs : List Nat) (labs : Nat → List Lbl) (s : State) (locs : List Loc)
    (ls : List (Nat × Lbl)) (s2 : State) : Prop :=
  ∃ s1, checkAcc k a s = .ok locs s1 ∧ checkClaims a (locs.map (fun l => (l.lane, l.va))) s1 = .ok ⟨⟩ s1 ∧
    groupLabels gs labs s1 = .ok ls s2 ∧
    checkFlow a (locs.map (fun l => (l.lane, s2.granLab l.line))) (fun l => labOf ls (l / 32)) s2 = .ok ⟨⟩ s2

/-- The same for a uniform write with one check label. -/
def GrantedU (k : AccKind) (a : Acc) (ls : List Lbl) (s : State) (locs : List Loc) (l : Lbl) (s2 : State) : Prop :=
  ∃ s1, checkAcc k a s = .ok locs s1 ∧ checkClaims a (locs.map (fun x => (x.lane, x.va))) s1 = .ok ⟨⟩ s1 ∧
    joinAll ls s1 = .ok l s2 ∧
    checkFlow a (locs.map (fun x => (x.lane, s2.granLab x.line))) (fun _ => l) s2 = .ok ⟨⟩ s2

/-- The L1 of a crew's core takes the virtual tag of a location's line, where it has none (R322). -/
def State.tagged (s : State) (c : Crew) (l : Loc) : State :=
  match kvFind (s.l1 c.cl c.core).tags l.line with
  | some _ => s
  | none => s.modL1 c.cl c.core (fun x => { x with tags := kvSet x.tags l.line (vtag c.vf l.va) })

/-- An ordinary location for an unpaired crew: a page without MS, no other crew of the core holding the line uncommitted, the
line under no other virtual tag, not poisoned, and not refused by a peer. -/
def State.plainLoc (s : State) (cid : Nat) (c : Crew) (l : Loc) : Bool :=
  !l.ms && (s.holders c.cl c.core l.line (some cid)).isEmpty && !s.bad l.line &&
    !(s.l1 c.cl c.core).poison.contains l.line &&
    match kvFind (s.l1 c.cl c.core).tags l.line with
    | some t => t == vtag c.vf l.va
    | none => true

/-- An agent's .core scope is its own core: a sequencer context's is its cluster (R193). -/
def coreScope (ag : Agent) (sc : Scope) : Bool := match ag with
  | .frag _ _ _ => sc == .core
  | _ => false

/-- What a relaxed load of an ordinary location leaves behind: the line's tag, its fill into the L2 slice, but where a clean copy
answers the load, and, under .core, a clean copy of it in the core's L1, within its size (R201, R258, R372); under a wider scope, no
clean copy of the line (R195). -/
def State.readBy (s : State) (c : Crew) (own : Bool) (l : Loc) : State :=
  let s1 := s.tagged c l
  if own && (kvFind (s1.l1 c.cl c.core).clean l.line).isSome then s1
  else
    let s2 := if 2 ^ 40 ≤ l.pa then s1 else s1.fill c.vf l.line
    if own then s2.l1Fill c.cl c.core l.line
    else s2.modL1 c.cl c.core (fun x => { x with clean := kvDel x.clean l.line })

/-- What a crew's store in the L1 does first about an ordinary location: the line's tag, and the clean copies in the stash
windows of the core's other crews go (R203, R322). -/
def State.touched (s : State) (cid : Nat) (c : Crew) (l : Loc) : State :=
  (s.tagged c l).dropMates c.cl c.core l.line (some cid)

/-- Every location of a store is ordinary as it is reached. -/
def State.plainLocs (s : State) (cid : Nat) (c : Crew) : List Loc → Bool
  | [] => true
  | l :: ls => s.plainLoc cid c l && (s.touched cid c l).plainLocs cid c ls

/-- The lines of a store fit the crew's commit window and its core's (R334). -/
def State.linesFit (s : State) (c : Crew) (lines : List Nat) : Bool :=
  decide (c.logLines + c.newLines lines [] ≤ 512) && decide (s.coreLines c.cl c.core + c.newLines lines [] ≤ 1024)

/-! ### The scratchpad (R154 to R159) -/

/-- Lines of stash windows are wanted: their fills begin (R159). -/
def State.wanting (s : State) (cid : Nat) (ws : List (Nat × Loc)) : State :=
  if ws = [] then s
  else s.modCrew cid (fun c => c.modBody (fun b => { b with pad := { b.pad with
    wanted := ws.foldl (fun m e => kvSet m e.1 e.2.line) b.pad.wanted } }))

/-- The locations of a scratchpad access by lane that lie in a stash window over an MS page, which keeps no copy (R219). -/
def farLane (ws : List (Nat × Loc)) (k : Nat) : Option Loc := (ws.find? (fun w => w.2.ms && w.2.lane == k)).map Prod.snd

/-- The joins that the words of a vector write take have their label IDs already: each group's sources with the PC label, and
that with the word's old label (R46, R49). -/
def State.wordsJoined (s : State) (ag : Agent) (tm : Team) (th : Thread) (d : Nat) (labs : Nat → List Lbl) : Prop :=
  ∀ g ∈ mgroups th.exm, ∃ w l, s.joined ag (labs g ++ [th.pcl]) = some (w, (s.ctx (s.ctxOf ag)).labels) ∧
    s.joined ag [w, tm.vlab d g] = some (l, (s.ctx (s.ctxOf ag)).labels)

/-- Every lane of a scratchpad access is within the crew's limit and aligned, on a line that is present and has not failed (R154,
R155). -/
def Pad.holdsAll (p : Pad) (x : Acc) : Prop :=
  ∀ e ∈ x.eas, 0 ≤ e.2 ∧ e.2 + x.size ≤ p.size ∧ e.2 % (x.size : Int) = 0 ∧ p.absent.contains (padLine e.2.toNat) = false ∧
    p.failed.contains (padLine e.2.toNat) = false
/-- No lane of it is on a poisoned line (R343). -/
def Pad.sound (p : Pad) (x : Acc) : Prop := ∀ e ∈ x.eas, p.poison.contains (padLine e.2.toNat) = false

/-- The scratchpad lines of a store fit the crew's commit window and its core's (R334). -/
def State.padFit (s : State) (c : Crew) (lines : List Nat) : Bool :=
  decide (c.logLines + c.newLines [] lines ≤ 512) && decide (s.coreLines c.cl c.core + c.newLines [] lines ≤ 1024)
/-- The core's L1 holds n lines more without eviction (R1, R6). -/
def State.l1Has (s : State) (c : Crew) (n : Nat) : Bool := decide (s.l1Size c.cl c.core + n ≤ Config.l1Lines)

/-- Every byte of a scratchpad line is among those that some numbers of n bytes write. -/
def coversLine (n : Nat) (ws : List (Nat × Nat)) (l : Nat) : Bool :=
  (List.range 128).all (fun k => ws.any (fun e => decide (e.1 ≤ 128 * l + k) && decide (128 * l + k < e.1 + n)))
/-- Numbers of n bytes enter the scratchpad at some offsets: their lines enter the scratchpad log, lines of stash windows
become dirty, and lines that they write whole are not poisoned any more (R159, R333, R344); the core's L1 keeps its size (R1). -/
def State.padStored (s : State) (cid : Nat) (c : Crew) (n : Nat) (ws : List (Nat × Nat)) : State :=
  let lines := (ws.map (fun e => padLine e.1)).eraseDups
  (s.modCrew cid (fun c =>
    let p := ws.foldl (fun p e => (p.mirrors e.1 n e.2).put e.1 n e.2) c.body.pad
    let p' := (ws.foldl (fun p e => p.soil e.1 n) p).cure (lines.filter (coversLine n ws))
    { (c.modBody (fun b => { b with pad := p' })) with padLog := lines.foldl addOnce c.padLog })).l1Trim c.cl c.core

/-- Bytes that a crew holds uncommitted in its core's L1, which keeps its size (R1, R201). -/
def State.held (s : State) (cid : Nat) (c : Crew) (bs : List (Nat × Byte)) : State :=
  ((s.l1Enter c.cl c.core (bs.map (fun e => lineOf e.1))).modCrew cid (fun x => x.hold bs)).l1Trim c.cl c.core
/-- A core's clean copy of a line goes (R195). -/
def State.unclean (s : State) (cl core line : Nat) : State :=
  s.modL1 cl core (fun x => { x with clean := x.clean.filter (fun e => e.1 != line) })
/-- Dirty lines of stash windows go back into the core's L1, uncommitted, and are clean (R159). -/
def State.flushed (s : State) (cid : Nat) (c : Crew) (lines : List Nat) : State :=
  (s.held cid c (lines.flatMap (fun l => match kvFind c.body.pad.filled l with
      | some g => c.body.pad.lineBytes l g
      | none => []))).modCrew cid (fun x => x.modBody (fun b => { b with pad := b.pad.cleaned lines }))

/-! ### Barriers (R232, R233) -/

/-- The teams of a crew, by its launch record. -/
def State.teamsOf (s : State) (c : Crew) : Nat :=
  match s.cast? c.vf c.key with | some k => k.launch.teams | none => c.body.teams.length

/-- An agent arrives at a named barrier of its crew; threads parked on a barrier that flips pass it. -/
def State.barArrived (s : State) (cid teams : Nat) (ag : Agent) (n : Nat) : State :=
  s.modCrew cid (fun c => c.modBody (fun b =>
    if ((b.bar teams n).arrive (barKey ag)).ph = (b.bar teams n).ph then
      { b with bars := kvSet b.bars n ((b.bar teams n).arrive (barKey ag)) }
    else ({ b with bars := kvSet b.bars n ((b.bar teams n).arrive (barKey ag)) } : Body).passBar n))

/-! ### Engine commands (R284) -/

/-- A command of an unpaired crew as its registers give it, with whether the crew's commit record stands past it. -/
def State.commandOf (s : State) (ag : Agent) (cid : Nat) (th : Thread) (pkr : Word) (kind : CmdKind) (sh co ct : Nat)
    (past : Bool) : Cmd :=
  { op := s.nextOp, cid := cid, win := match kvFind s.crews cid with | some c => c.win | none => 0
    past := past, ag := ag, kind := kind, key := agentKey ag th, count := th.count
    quiet := match kvFind s.crews cid with | some c => (c.doneOp? c.win (agentKey ag th) th.count).isSome | none => false
    sh := (s.readS ag sh).val
    coords := (List.range 4).map (fun k => (s.readS ag (co + k)).val.toNat % 2 ^ 32), ct := (s.readS ag ct).val
    labs := (match kind with
      | .mma _ _ _ => [sh, co, co + 1, co + 2, co + 3]
      | .tcopy => [sh, co, co + 1, co + 2, co + 3]
      | .xfer _ => [sh, co, co + 1, co + 2, co + 3, ct]).map (fun r => (s.readS ag r).lab) ++ [th.pcl]
    pcl := th.pcl, pkr := pkr, spva := (s.apOf ag).1, progress := s.cyc }

/-- A command enters its engine's queue, and its thread has one more outstanding. -/
def State.pushed (s : State) (ag : Agent) (c : Crew) (copy : Bool) (m : Cmd) : State :=
  ({ (s.modCluster c.cl (fun q => if copy then { q with cq := q.cq ++ [m] } else { q with mq := q.mq ++ [m] })) with
     nextOp := s.nextOp + 1 }).modThread ag (fun th => { th with outEng := th.outEng + 1 })

/-- A tile of a crew's grant. -/
def Crew.tile (c : Crew) (n : Nat) : Option Tile := c.body.grant.bind (fun g => g.tiles[n]?)

/-- What MDRAIN makes of an element of a tile: .f32 is exact (R246). -/
def drainLane (ty : Ty) (r : Rnd) (v : BitVec 32) : Lane := if ty = .f32 then v else convert ty .f32 false r v
/-- The tile log of the crew's window has the tile, or the pages to take it (R277). -/
def State.tileLogs (s : State) (cid n : Nat) : Bool := (s.logTile cid n).isSome
/-- A tile takes new contents, once the tile log has the old ones (R277). -/
def State.putTile (s : State) (cid n : Nat) (t : Tile) : State :=
  ((s.logTile cid n).getD s).modCrew cid (fun c => c.modBody (fun b => b.setTile n t))

/-- Values that an agent has obtained enter the replay log of its cast, where it is recorded (R349). -/
def State.recorded (s : State) (cid t kind : Nat) (vs : List Word) : State :=
  vs.foldl (fun s v => s.record cid kind t (leBytes 8 v.toNat)) s

/-! ### Agents of a crew -/

/-- The protection keys and the authority of an agent (R323, R15). -/
def State.pkrOf (s : State) (ag : Agent) : Word :=
  match ag with
  | .frag cid t _ => match s.team? cid t with | some tm => tm.pkr | none => 0
  | .seq cid x => match (kvFind s.crews cid).bind (fun c => kvFind c.body.seqs x) with | some q => q.pkr | none => 0
  | .sup _ => 0
def State.authOf (s : State) (ag : Agent) : BitVec 64 :=
  match ag with
  | .frag cid t _ => match s.team? cid t with | some tm => tm.auth | none => 0
  | .seq cid x => match (kvFind s.crews cid).bind (fun c => kvFind c.body.seqs x) with | some q => q.auth | none => 0
  | .sup _ => 0

/-- A stream's entry: none, or a canonical address of a word (R288). -/
def StreamEntry (v : Word) : Prop := v = 0 ∨ (canonical (v.toNat : Int) = true ∧ v.toNat % 8 = 0)

/-- The state in which an instruction behind a commit point and a release performs its effect. -/
def State.released (s : State) (ag : Agent) : State :=
  match agentCid ag with
  | some cid => (s.commitNow cid).wtCoreOf cid
  | none => s

/-- An append behind its issuer's commit point, with the value that the issuer is told (R301, R303). -/
def Appends (s : State) (ag : Agent) (vf : Nat) (q : Option Nat) (record addr : Word) (k : Lbl) (v : Word) (u : State) : Prop :=
  ∃ t, recordHere 8 [addr, v] t = .ok ⟨⟩ u ∧
    match q with
    | none => v = refused 4 ∧ t = s.released ag
    | some n =>
      (∃ m, (s.released ag).append vf n record (some ((s.released ag).authOf ag, (s.released ag).clearOf ag)) (some k) =
          .done m t ∧ v = BitVec.ofNat 64 m) ∨
      (∃ r, (s.released ag).append vf n record (some ((s.released ag).authOf ag, (s.released ag).clearOf ag)) (some k) =
          .refused r ∧ v = refused r ∧ t = s.released ag) ∨
      ((s.released ag).append vf n record (some ((s.released ag).authOf ag, (s.released ag).clearOf ag)) (some k) = .flow ∧
        v = flowWord ∧ t = s.released ag)

/-! ### System registers and the trap frame -/

/-- The registers of R350 as a fragment reads them, apart from %cyc and %wave. -/
def fragReg (s : State) (c : Crew) (tm : Team) (th : Thread) (n : Nat) : Option Word :=
  match n with
  | 0x002 => some (BitVec.ofNat 64 th.pcl)
  | 0x003 => some (BitVec.ofNat 64 tm.clear)
  | 0x004 => some tm.auth
  | 0x005 => some tm.pkr
  | 0x006 => some (match s.cast? c.vf c.key with
    | some k => if k.launch.paired then BitVec.ofNat 64 k.launch.slack else 0
    | none => 0)
  | 0x010 => some (s.ctx c.vf).tvec
  | 0x011 => some (s.ctx c.vf).ckpt
  | 0x012 => some (s.ctx c.vf).inj
  | 0x013 => some (s.ctx c.vf).rlog
  | 0x014 => some (s.ctx c.vf).lqt
  | 0x015 => some (s.ctx c.vf).spva
  | 0x016 => some (s.ctx c.vf).pgattr
  | 0x017 => some (s.ctx c.vf).carea
  | 0x018 => some (BitVec.ofNat 64 (s.ctx c.vf).pool.length)
  | 0x020 => some (s.ctx c.vf).ptb
  | _ => none

/-- What FAULTR reads into a uniform register, with its labels (R111, R327). -/
def frameField (f : TrapFrame) (x : FaultField) : Option (Nat × List Lbl) :=
  match x with
  | .code => some (f.code, [f.plbl])
  | .sub => some (f.sub, [f.plbl])
  | .pc => some (f.pc, [f.plbl])
  | .slot => some (f.slot, [f.plbl])
  | .plbl => some (f.plbl, [f.plbl])
  | .info => some (f.info.toNat, f.plbl :: f.alab)
  | .mask => none
  | .addr => none

/-- The cover of TLBINV.page at an address in a context: the page, and the 512 MiB page that holds it where a TLB maps that
(R356). -/
def pageCover (vf va : Nat) (big : Bool) : Cover :=
  { entry := fun t => t.vf == vf && t.page == (if t.large then va / 2 ^ 29 else va / 2 ^ 16)
    mid := (· == midKey vf va)
    tag := fun t => ctxTag vf t && (tagPage 16 t == va / 2 ^ 16 || (big && tagPage 29 t == va / 2 ^ 29))
    code := fun k => codeVf k == vf && (k % 2 ^ 64 / 2 ^ 16 == va / 2 ^ 16 ||
      (big && k % 2 ^ 64 / 2 ^ 29 == va / 2 ^ 29)) }
def ctxCover (vf : Nat) : Cover := { entry := fun t => t.vf == vf, mid := ctxTag vf, tag := ctxTag vf, code := fun k => codeVf k == vf }
def allCover : Cover := { entry := fun _ => true, mid := fun _ => true, tag := fun _ => true, code := fun _ => true }

/-- Translations, L1 lines and fetched code under a cover go (R356), once no fill translated under it is under way and no line must
wait. -/
def State.covered (s : State) (cov : Cover) : Option State :=
  if s.filling cov.tag then none
  else match s.evictLines (s.taggedLines cov.tag).contains with
    | (true, s2) => some { s2.tlbDrop cov.entry cov.mid with code := s2.code.filter (fun e => !cov.code e.1) }
    | (false, _) => none

/-- A release of an agent can be performed now: no line of its core, and none that its crew is to commit, must wait, its commit
record has a page, and no commit point that it forces ends its own cast. -/
def State.mayRelease (s : State) (ag : Agent) (th : Thread) : Prop :=
  (∀ w, th.park ≠ .pair w) ∧ match agentCid ag with
    | none => True
    | some cid => ∃ c, kvFind s.crews cid = some c ∧ s.mayCommit cid c = true ∧ s.coreHeld c.cl c.core c.openLines = false ∧
        ((s.commitNow cid).wtCoreOf cid).cur = s.cur

/-! ### Results of the tables -/

/-- Whether a condition holds of two words that are signed or unsigned. -/
def wordCond (i64 : Bool) (c : Cond) (a b : Word) : Bool :=
  match c with
  | .eq => a == b
  | .ne => a != b
  | .lt => if i64 then a.slt b else a.ult b
  | .le => if i64 then a.sle b else a.ule b
  | .gt => if i64 then b.slt a else b.ult a
  | .ge => if i64 then b.sle a else b.ule a
  | .un => false
  | .ord => true

/-- An exact integer that a saturating instruction of TY i64 leaves. -/
def sat64 (v : Int) : Word := if v < -(2 ^ 63) then BitVec.intMin 64 else if 2 ^ 63 - 1 < v then BitVec.intMax 64 else BitVec.ofInt 64 v

/-- The table of R101: destination, sources, and the result from the values of the registers. -/
def uniResult (i : Instr) (r : Nat → Word) : Option (Nat × List Nat × Word) :=
  match i with
  | .smov d a => some (d, [a], r a)
  | .smovi d imm => some (d, [], imm.signExtend 64)
  | .sadd i64 sat d a b => some (d, [a, b], if sat then sat64 (wordInt i64 (r a) + wordInt i64 (r b)) else r a + r b)
  | .ssub i64 sat d a b => some (d, [a, b], if sat then sat64 (wordInt i64 (r a) - wordInt i64 (r b)) else r a - r b)
  | .smul i64 sat d a b => some (d, [a, b], if sat then sat64 (wordInt i64 (r a) * wordInt i64 (r b)) else r a * r b)
  | .smulh i64 d a b => some (d, [a, b],
      if i64 then BitVec.ofInt 64 ((r a).toInt * (r b).toInt / 2 ^ 64) else BitVec.ofNat 64 ((r a).toNat * (r b).toNat / 2 ^ 64))
  | .sand d a b => some (d, [a, b], r a &&& r b)
  | .sor d a b => some (d, [a, b], r a ||| r b)
  | .sxor d a b => some (d, [a, b], r a ^^^ r b)
  | .sshl d a b => some (d, [a, b], r a <<< (r b).toNat)
  | .sshr d a b => some (d, [a, b], r a >>> (r b).toNat)
  | .ssar d a b => some (d, [a, b], (r a).sshiftRight (r b).toNat)
  | .smin i64 d a b => some (d, [a, b], if wordCond i64 .le (r a) (r b) then r a else r b)
  | .smax i64 d a b => some (d, [a, b], if wordCond i64 .le (r a) (r b) then r b else r a)
  | .scmp i64 c d a b => some (d, [a, b], if wordCond i64 c (r a) (r b) then 1 else 0)
  | .ssel d a b c => some (d, [a, b, c], if r a = 0 then r c else r b)
  | .saddi i64 sat d a imm => some (d, [a],
      if sat then sat64 (wordInt i64 (r a) + imm.toInt) else r a + imm.signExtend 64)
  | .sclz d a => some (d, [a], BitVec.ofNat 64 (clz 64 (r a).toNat))
  | .spopc d a => some (d, [a], BitVec.ofNat 64 (popc 64 (r a).toNat))
  | .sbfe d a b c => some (d, [a, b, c], BitVec.ofNat 64 ((r a).toNat / 2 ^ (r b).toNat % 2 ^ (min (r c).toNat 64)))
  | _ => none

/-! ### Masks (R112) -/

/-- A mask instruction whose result is a mask: destination, the registers it names, the labels of its sources, and the
bits of the result (R112, R113). -/
def maskResult (i : Instr) (s : State) (ag : Agent) (tm : Team) (th : Thread) :
    Option (Nat × List RegName × List Lbl × Mask) :=
  let r : Nat → SReg := s.readS ag
  let m : Nat → Mask := maskVal tm th
  let x : Nat → List Lbl := tm.crossLab th.exm
  match i with
  | .mset d a b => some (d, [.s a, .s b], [(r a).lab, (r b).lab],
      lanesBelow (min (r b).val.toNat 1024) &&& ~~~(lanesBelow (min (r a).val.toNat 1024)))
  | .mlog op d a b => some (d, [.m a, .m b], [maskLbl tm th a, maskLbl tm th b], match op with
      | .and => m a &&& m b
      | .or => m a ||| m b
      | .xor => m a ^^^ m b
      | .andn => m a &&& ~~~(m b))
  | .mnot d a => some (d, [.m a], [maskLbl tm th a], ~~~(m a))
  | .mcmp ty c d a b => some (d, [.v a, .v b], x a ++ x b,
      lanesWhere th.exm (fun l => condInt c (laneInt ty (tm.lane a l)) (laneInt ty (tm.lane b l))))
  | .mfcmp ty c d a b => some (d, [.v a, .v b], x a ++ x b,
      lanesWhere th.exm (fun l => condFp c (laneFp ty (tm.lane a l)) (laneFp ty (tm.lane b l))))
  | .mrest d a => some (d, [.v a], x a,
      lanesWhere th.exm (fun l => (tm.lane a (lowestOf th.exm (l / 32))).getLsbD (l % 32)))
  | .melect d a => some (d, [.m a], [maskLbl tm th a], match mlanes (th.exm &&& m a) with
      | l :: _ => laneBit l
      | [] => 0)
  | _ => none

/-- The label of a mask after a write of some lanes, and the label table after the joins: the old label stays in it where an
existing lane of the team is not written (R49, R112). -/
def State.maskLabel (s : State) (ag : Agent) (tm : Team) (d : Nat) (lanes : Mask) (ls : List Lbl) :
    Option (Lbl × List (BitVec 64)) :=
  match s.joined ag ls with
  | none => none
  | some (w, tab) =>
    if d = 0 ∨ tm.live &&& ~~~lanes = 0 then some (w, tab) else joinAllIn tab 0 [w, (kvGet {} tm.m d).lab]

/-- Some lanes of a mask take new bits, within the fragment's lane set or the team's lanes. -/
def State.putMask (s : State) (cid t fn : Nat) (tm : Team) (d : Nat) (lanes bits : Mask) (l : Lbl) : State :=
  if d = 0 then
    s.modThread (.frag cid t fn) (fun th => { th with exm := ((th.exm &&& ~~~lanes) ||| (bits &&& lanes)) &&& th.f })
  else
    s.modTeam cid t (fun x => { x with
      m := kvPut {} x.m d (MReg.mk ((((kvGet {} tm.m d).bits &&& ~~~lanes) ||| (bits &&& lanes)) &&& x.live) l) })

/-! ### Vector registers (R123) -/

/-- A vector instruction whose result is a vector register: destination, the other registers it names, the labels of its
sources in each group, the result of each lane, and the lookahead window that it opens, with its WAIT class. -/
structure VecResult where
  dst : Nat
  names : List RegName
  labs : Nat → List Lbl
  lane : Nat → Lane
  win : Option (Nat × Nat) := none

/-- A lane-wise result of vector sources (R123). -/
def laneResult (tm : Team) (d : Nat) (vs : List Nat) (f : List Lane → Lane) (win : Option (Nat × Nat) := none) : VecResult :=
  { dst := d, names := vs.map .v, labs := fun g => vs.map (fun r => tm.vlab r g)
    lane := fun l => f (vs.map (fun r => tm.lane r l)), win := win }

/-- The n-th of a list of lanes. -/
def arg (xs : List Lane) (n : Nat) : Lane := xs.getD n 0

/-- An exact integer result of lanes, narrowed by type and .sat (R129). -/
def intResult (tm : Team) (ty : Ty) (sat : Bool) (d : Nat) (vs : List Nat) (f : List Int → Int) : VecResult :=
  laneResult tm d vs (fun xs => narrow ty sat (f (xs.map (laneInt ty))))
def argI (xs : List Int) (n : Nat) : Int := xs.getD n 0

/-- The tables of R128 to R145 for the instructions that write a vector register. -/
def vecResult (i : Instr) (s : State) (ag : Agent) (tm : Team) (th : Thread) : Option VecResult :=
  let r : Nat → SReg := s.readS ag
  let one : Nat → Nat → (Lane → Lane) → VecResult := fun d a f => laneResult tm d [a] (fun x => f (arg x 0))
  let two : Nat → Nat → Nat → (Lane → Lane → Lane) → VecResult := fun d a b f =>
    laneResult tm d [a, b] (fun x => f (arg x 0) (arg x 1))
  let three : Nat → Nat → Nat → Nat → (Lane → Lane → Lane → Lane) → VecResult := fun d a b c f =>
    laneResult tm d [a, b, c] (fun x => f (arg x 0) (arg x 1) (arg x 2))
  let fn : Nat → Nat → Nat → (Fp → Nat) → VecResult := fun la d a f =>
    laneResult tm d [a] (fun x => placeFp (f (laneFp .f32 (arg x 0)))) (some (la, classTr))
  match i with
  | .vmov d a => some (one d a id)
  | .vmovi d imm => some (laneResult tm d [] (fun _ => imm))
  | .vadd ty sat d a b => some (intResult tm ty sat d [a, b] (fun x => argI x 0 + argI x 1))
  | .vsub ty sat d a b => some (intResult tm ty sat d [a, b] (fun x => argI x 0 - argI x 1))
  | .vmul ty sat d a b => some (intResult tm ty sat d [a, b] (fun x => argI x 0 * argI x 1))
  | .vmulh ty d a b => some (intResult tm ty false d [a, b] (fun x => argI x 0 * argI x 1 / 2 ^ tyWidth ty))
  | .vmad ty sat d a b c => some (intResult tm ty sat d [a, b, c] (fun x => argI x 0 * argI x 1 + argI x 2))
  | .vand d a b => some (two d a b (· &&& ·))
  | .vor d a b => some (two d a b (· ||| ·))
  | .vxor d a b => some (two d a b (· ^^^ ·))
  | .vnot d a => some (one d a (~~~ ·))
  | .vshl d a b => some (two d a b (fun x y => x <<< y.toNat))
  | .vshr d a b => some (two d a b (fun x y => x >>> y.toNat))
  | .vsar d a b => some (two d a b (fun x y => x.sshiftRight y.toNat))
  | .vmin ty d a b => some (intResult tm ty false d [a, b] (fun x => min (argI x 0) (argI x 1)))
  | .vmax ty d a b => some (intResult tm ty false d [a, b] (fun x => max (argI x 0) (argI x 1)))
  | .vabs ty sat d a => some (intResult tm ty sat d [a] (fun x => |argI x 0|))
  | .vneg ty sat d a => some (intResult tm ty sat d [a] (fun x => -argI x 0))
  | .vsel d a b c => some { dst := d, names := [.v a, .v b, .m c]
                            labs := fun g => [tm.vlab a g, tm.vlab b g, maskLbl tm th c]
                            lane := fun l => if mhas (maskVal tm th c) l then tm.lane a l else tm.lane b l }
  | .vclz d a => some (one d a (fun x => BitVec.ofNat 32 (clz 32 x.toNat)))
  | .vpopc d a => some (one d a (fun x => BitVec.ofNat 32 (popc 32 x.toNat)))
  | .vbfe d a b c => some (three d a b c (fun x y z => BitVec.ofNat 32 (x.toNat / 2 ^ y.toNat % 2 ^ (min z.toNat 32))))
  | .vbfi d a b c => some (three d a b c bfi)
  | .vsat ty d a => some (one d a (fun x => narrow ty true x.toInt))
  | .vaddi ty sat d a imm => some (intResult tm ty sat d [a] (fun x => argI x 0 + imm.toInt))
  | .vlane d a => some { dst := d, names := [.s a], labs := fun _ => [(r a).lab]
                         lane := fun l => BitVec.ofNat 32 (l + (r a).val.toNat) }
  | .vfroms d a => some { dst := d, names := [.s a], labs := fun _ => [(r a).lab], lane := fun _ => (r a).val.truncate 32 }
  | .msave d a => some { dst := d, names := [.m a], labs := fun _ => [maskLbl tm th a]
                         lane := fun l => mword (maskVal tm th a) (l / 32) }
  | .vfadd ty q d a b => some (two d a b (fpOp2 ty q fpAdd))
  | .vfsub ty q d a b => some (two d a b (fpOp2 ty q (fun q x y => fpAdd q x (fpNeg y))))
  | .vfmul ty q d a b => some (two d a b (fpOp2 ty q (fun _ => fpMul)))
  | .vfma ty q d a b c => some (three d a b c (fma ty q))
  | .vfmin ty d a b => some (two d a b (laneMinMax ty false))
  | .vfmax ty d a b => some (two d a b (laneMinMax ty true))
  | .vfrcp la q d a => some (fn la d a (fpRcp q))
  | .vfrsq la q d a => some (fn la d a (fpRsq q))
  | .vfexp2 la q d a => some (fn la d a (fpExp2 q))
  | .vflog2 la q d a => some (fn la d a (fpLog2 q))
  | .vfabs ty d a => some (one d a (fun x => placeFp (fpBits ty x % signOf ty)))
  | .vfneg ty d a => some (one d a (fun x => placeFp (fpBits ty x ^^^ signOf ty)))
  | .vcvt dt st sat q d a => some (one d a (convert dt st sat q))
  | .vpack ty sat q d a b => some (
      if tyWidth ty = 16 then two d a b (fun x y => BitVec.ofNat 32 (packElem ty sat q x + packElem ty sat q y * 2 ^ 16))
      else three d a b d (fun x y z => BitVec.ofNat 32 (z.toNat / 2 ^ (2 * tyWidth ty) +
        packElem ty sat q x * 2 ^ (32 - 2 * tyWidth ty) + packElem ty sat q y * 2 ^ (32 - tyWidth ty))))
  | .vunpk ty hi d a => some (one d a (fun x =>
      let e : Lane := BitVec.ofNat 32 (x.toNat / (if hi then 2 ^ tyWidth ty else 1) % 2 ^ tyWidth ty)
      if isFloatTy ty || ty == .mk8 then convert .f32 ty false .rn e else BitVec.ofInt 32 (laneInt ty e)))
  | .vshuf mode d a b => some { dst := d, names := [.v a, .v b]
                                labs := fun _ => tm.crossLab th.exm a ++ tm.crossLab th.exm b
                                lane := fun l =>
                                  let x := shufSource mode l (tm.lane b l).toNat
                                  if 0 ≤ x ∧ x < 1024 ∧ mhas th.exm x.toNat then tm.lane a x.toNat else tm.lane a l }
  | .vbcast d a b => some { dst := d, names := [.v a, .s b], labs := fun _ => tm.crossLab th.exm a ++ [(r b).lab]
                            lane := fun _ =>
                              if (r b).val.toNat < tm.lanes ∧ mhas th.exm (r b).val.toNat then tm.lane a (r b).val.toNat else 0 }
  | .vscan la ty sat q op excl d a => some { dst := d, names := [.v a], labs := fun _ => tm.crossLab th.exm a
                                             win := some (la, classTr)
                                             lane := fun l =>
                                               let before := (mlanes th.exm).filter (fun k => decide (k < l) || (!excl && k == l))
                                               if before = [] then foldIdentity op ty
                                               else foldLanes op ty sat q (before.map (fun k => tm.lane a k)) }
  | _ => none

/-- The words of a vector register that a write of some lanes needs logged, and that the register log holds them (R333, R334). -/
def Crew.wordsNew (c : Crew) (t d : Nat) (exm : Mask) : List LogKey := c.newWords t ((mgroups exm).map (vkey d))
def Crew.wordsFit (c : Crew) (t d : Nat) (exm : Mask) : Bool := decide (c.regHeld + (c.wordsNew t d exm).length ≤ Config.logWords)

/-- Register words enter the register log of their crew's window (R333). -/
def State.logged (s : State) (cid : Nat) (new : List LogKey) : State :=
  if new = [] then s else s.modCrew cid (fun c => { c with regLog := c.regLog ++ new })

/-- The active lanes of some words of a vector register take new values, and the words their labels. -/
def State.putVec (s : State) (cid t d : Nat) (exm : Mask) (ls : List (Nat × Lbl)) (f : Nat → Lane) : State :=
  s.modTeam cid t (fun tm => ls.foldl (fun tm e =>
    tm.putWord d e.1 (mixWord (tm.word d e.1) (mword exm e.1) (fun j => f (32 * e.1 + j)) e.2)) tm)

/-- A lookahead window opens (R40); a sequencer context has none (R268). -/
def State.opened (s : State) (ag : Agent) (dsts : List RegName) : Option (Nat × Nat) → State
  | none => s
  | some (la, cls) => match ag with
    | .seq _ _ => s
    | _ => s.modThread ag (fun th => { th with pend := th.pend ++ [{ dsts := dsts, left := la + 1, cls := cls }] })

/-! ### Outcomes -/

/-- The machine goes on. -/
def Goes (o : Host.Outcome State Fault Refusal) : Prop := ∃ t, o = .next t

/-- A safe step: it neither stops the machine nor is refused. -/
def State.SafeStep (s : State) : Prop := Goes (step s)

/-! ### What events leave -/

/-- A supervisor core that has done something for a context serves it no longer (R352). -/
def State.escalationEnd (s : State) (vf : Nat) (u : State) : State := if u = s then s else u.endEscalation vf

/-- A crew apart from when its fragments became ready or ceased to be (R189). -/
def Crew.timeless (c : Crew) : Crew :=
  c.modBody (fun b => { b with teams := b.teams.map (fun e => (e.1, { e.2 with
    frags := e.2.frags.map (fun f => (f.1, { f.2 with ready := 0, unready := 0 })) })) })

/-- The cast of a crew has ended: its crews are gone, and the context's abort log ends with it (R391). -/
def Aborted (s u : State) (cid : Nat) (c : Crew) (code : Nat) (detail : Word) : Prop :=
  kvFind u.crews cid = none ∧ u.cast? c.vf c.key = none ∧ ∀ k, s.cast? c.vf c.key = some k →
    (u.ctx c.vf).aborts.getLast? =
      some { record := k.record, seq := k.seq, queue := k.queue, code := code, kind := 0, detail := detail }

/-- A crew is back at its commit point: its window is empty, and its teams' registers and places are those it saved (R339). -/
def Restored (u : State) (cid : Nat) (c : Crew) : Prop :=
  ∃ c', kvFind u.crews cid = some c' ∧ c'.unc = [] ∧ c'.padLog = [] ∧ c'.regLog = [] ∧
    ∀ t tm, kvFind c.saved.teams t = some tm → ∃ tm', kvFind c'.body.teams t = some tm' ∧ tm'.s = tm.s ∧ tm'.m = tm.m ∧
      tm'.v = tm.v ∧ tm'.scopes = tm.scopes ∧ tm'.live = tm.live ∧
      ∀ f th, kvFind tm.frags f = some th → ∃ th', kvFind tm'.frags f = some th' ∧ th'.pc = th.pc ∧ th'.slot = th.slot ∧
        th'.exm = th.exm ∧ th'.pcl = th.pcl

/-- A fragment waits at the join of a split (R29). -/
def parkedAt (sid : Nat) (th : Thread) : Bool :=
  th.park == .join && match th.stack with | q :: _ => q.sid == sid | [] => false
/-- It waits there with no load of its own still held (R41). -/
def atJoinOf (sid : Nat) (th : Thread) : Bool := parkedAt sid th && th.heldFree

/-! ### What stays -/

/-- Memory, granule labels and poison are as they were. -/
def SameMemory (s t : State) : Prop := t.hbm = s.hbm ∧ t.gran = s.gran ∧ t.poison = s.poison

/-- A context keeps every register and table of its own but its label table. -/
def SameContext (s t : State) (vf : Nat) : Prop :=
  { t.ctx vf with labels := [] } = { s.ctx vf with labels := [] }

/-- Everything outside the crews and the contexts' label tables is as it was. -/
def SameMachine (s t : State) : Prop :=
  SameMemory s t ∧ (∀ vf, SameContext s t vf) ∧ t.l2 = s.l2 ∧ t.pins = s.pins ∧ t.ctl = s.ctl ∧ t.parts = s.parts ∧
    t.clusters = s.clusters ∧ t.cyc = s.cyc ∧ t.tick = s.tick ∧ t.hostLog = s.hostLog ∧ t.fabricId = s.fabricId

/-- Every crew but one is as it was. -/
def SameOthers (s t : State) (cid : Nat) : Prop := ∀ k, k ≠ cid → kvFind t.crews k = kvFind s.crews k

/-- Every crew but one keeps its registers, its places, its uncommitted stores and the state it goes back to; clean copies in its
stash windows may have gone. -/
def SameRuns (s t : State) (cid : Nat) : Prop := ∀ k c, k ≠ cid → kvFind s.crews k = some c → ∃ c', kvFind t.crews k = some c' ∧
  c'.body.teams = c.body.teams ∧ c'.body.seqs = c.body.seqs ∧ c'.unc = c.unc ∧ c'.saved.teams = c.saved.teams

/-! ### The invariant -/

/-- The memory of every state is in its canonical form, the bytes on the pages that hold crews' records among it. -/
def State.Inv (s : State) : Prop := memoryWf s.hbm ∧ kvSorted s.areas = true ∧ kvSorted s.areaMem = true

end Sys2Proof.Machine
end

