-- ==== Sys2Proof/WellFormed.lean ====
section
/-! DEFINITION. Which instruction terms the encoding admits: register numbers in range (R78), types and modifiers that
the instruction accepts (R96 to R98), and the limits each description states. An event has no encoding and every
event term is well formed. -/

namespace Sys2Proof

/-- An optional index: a v register, and SC only with an index and not on a one-byte access (R146, R151). -/
def idxWf (sc : Bool) (t : Ty) : Option Nat → Bool
  | some b => isV b && (!sc || !isOneByte t)
  | none => !sc

def laWf (la : Nat) : Bool := decide (la < 16)
def intTys : List Ty := [.i32, .n32, .i16, .n16]
def pairWf (pb : ABase) (a : Nat) : Bool := match pb with | .pair => isV a && isEven a | .uniform => isS a
def cmd (sh co ct : Nat) : Bool := isS sh && decide (co ≤ 60) && isS ct

/-- The terms that stand for an instruction word. -/
def wf : Instr → Bool
  | .nop | .bra _ | .call _ | .ret | .exit | .yield | .trap _ | .tretRetry | .tretSkip | .bkpt _ | .halt => true
  | .brc k a _ _ => match k with | .nz | .z => isS a | .any | .all => isM a
  | .brv m _ j => isM m && j != 0
  | .loop a _ _ => decide (a < 63)
  | .brx a => isS a
  | .smov d a | .sclz d a | .spopc d a => isS d && isS a
  | .smovi d _ | .smovh d _ => isS d
  | .sadd u s d a b | .ssub u s d a b | .smul u s d a b => (!s || u) && isS d && isS a && isS b
  | .smulh _ d a b | .smin _ d a b | .smax _ d a b => isS d && isS a && isS b
  | .sand d a b | .sor d a b | .sxor d a b | .sshl d a b | .sshr d a b | .ssar d a b => isS d && isS a && isS b
  | .scmp _ c d a b => c != .un && c != .ord && isS d && isS a && isS b
  | .ssel d a b c | .sbfe d a b c => isS d && isS a && isS b && isS c
  | .saddi u s d a _ => (!s || u) && isS d && isS a
  | .sld la t _ o d a b _ =>
    laWf la && [Ty.b32, .i32, .i16, .n16, .i64].contains t && [Ord4.rlx, .acq].contains o && isS d && isS a && isS b
  | .sst t _ o d a b _ => [Ty.b32, .i16, .i64].contains t && [Ord4.rlx, .rel].contains o && isS d && isS a && isS b
  | .slane d a b => isS d && isV a && isS b
  | .mset d a b => isM d && isS a && isS b
  | .mlog _ d a b => isM d && isM a && isM b
  | .mnot d a | .melect d a => isM d && isM a
  | .mcmp t c d a b =>
    [Ty.b32, .i32, .n32, .i16, .n16].contains t && c != .un && c != .ord && (t != .b32 || c == .eq || c == .ne) &&
      isM d && isV a && isV b
  | .mfcmp t _ d a b => floatTys.contains t && isM d && isV a && isV b
  | .msave d a => isV d && isM a
  | .mrest d a => isM d && isV a
  | .mpopc d a => isS d && isM a
  | .mtest d a b => isS d && isM a && isS b
  | .exmw a => isM a
  | .exmr d => isM d
  | .vmov d a | .vnot d a | .vclz d a | .vpopc d a => isV d && isV a
  | .vmovi d _ => isV d
  | .vadd t _ d a b | .vsub t _ d a b | .vmul t _ d a b => intTys.contains t && isV d && isV a && isV b
  | .vmulh t d a b | .vmin t d a b | .vmax t d a b => intTys.contains t && isV d && isV a && isV b
  | .vmad t _ d a b c => intTys.contains t && isV d && isV a && isV b && isV c
  | .vand d a b | .vor d a b | .vxor d a b | .vshl d a b | .vshr d a b | .vsar d a b => isV d && isV a && isV b
  | .vabs t _ d a | .vneg t _ d a => [Ty.i32, .i16].contains t && isV d && isV a
  | .vsel d a b c => isV d && isV a && isV b && isM c
  | .vbfe d a b c | .vbfi d a b c => isV d && isV a && isV b && isV c
  | .vsat t d a => [Ty.i16, .n16].contains t && isV d && isV a
  | .vaddi t _ d a _ => intTys.contains t && isV d && isV a
  | .vlane d a | .vfroms d a => isV d && isS a
  | .vfadd t _ d a b | .vfsub t _ d a b | .vfmul t _ d a b => floatTys.contains t && isV d && isV a && isV b
  | .vfma t _ d a b c => floatTys.contains t && isV d && isV a && isV b && isV c
  | .vfmin t d a b | .vfmax t d a b => floatTys.contains t && isV d && isV a && isV b
  | .vfrcp la _ d a | .vfrsq la _ d a | .vfexp2 la _ d a | .vflog2 la _ d a => laWf la && isV d && isV a
  | .vfabs t d a | .vfneg t d a => floatTys.contains t && isV d && isV a
  | .vcvt dt st s r d a => cvtTys.contains dt && cvtTys.contains st && cvtModOk dt st s r && isV d && isV a
  | .vpack t s r d a b => packTys.contains t && cvtModOk t (packSrc t) s r && isV d && isV a && isV b
  | .vunpk t _ d a => packTys.contains t && isV d && isV a
  | .vshuf _ d a b => isV d && isV a && isV b
  | .vbcast d a b => isV d && isV a && isS b
  | .vred la t s r op d a => laWf la && [Ty.i32, .n32, .f32].contains t && redModOk t s r op && isS d && isV a
  | .vscan la t s r op _ d a => laWf la && [Ty.i32, .n32, .f32].contains t && redModOk t s r op && isV d && isV a
  | .vld la t _ o sc d a i _ =>
    laWf la && loadTys.contains t && [Ord4.rlx, .acq].contains o && idxWf sc t i && isV d && isS a
  | .vst t _ o sc d a i _ => storeTys.contains t && [Ord4.rlx, .rel].contains o && idxWf sc t i && isV d && isS a
  | .vldx la t _ o d a _ => laWf la && loadTys.contains t && [Ord4.rlx, .acq].contains o && isV d && isV a && isEven a
  | .vstx t _ o d a _ => storeTys.contains t && [Ord4.rlx, .rel].contains o && isV d && isV a && isEven a
  | .vlds la t sc d a i _ => laWf la && loadTys.contains t && idxWf sc t i && isV d && isS a
  | .vsts t sc d a i _ => storeTys.contains t && idxWf sc t i && isV d && isS a
  | .vpref sc a i _ => idxWf sc .b32 i && isS a
  | .spwait a b _ => isS a && isS b
  | .atom la t _ _ pb op d a b _ =>
    laWf la && [Ty.b32, .i32, .n32, .f32].contains t && aopTyOk op t && isV d && pairWf pb a && isV b
  | .atomc la _ _ pb d a b _ => laWf la && isV d && pairWf pb a && isV b
  | .red t _ o pb op a b _ =>
    [Ty.b32, .i32, .n32, .f32].contains t && aopTyOk op t && [Ord4.rlx, .rel].contains o && op != .exch &&
      pairWf pb a && isV b
  | .satom la u _ _ op d a b _ =>
    laWf la && (!u || op == .add || op == .min || op == .max) && isS d && isS a && isS b
  | .stashMap d a b _ | .stashFlush d a b _ | .stashUnmap d a b _ => isS d && isS a && isS b
  | .fence _ o => o != .rlx
  | .fencex _ o p => o != .rlx && p != 0
  | .bara n | .barw n | .baraw n => isBar n
  | .bari n a => isBar n && isS a
  | .wbara _ a b _ => isS a && isS b
  | .wbarw _ _ d a b _ | .wbari _ d a b _ => isS d && isS a && isS b
  | .ckpt | .clmseal | .clmdone => true
  | .clm sc a i _ => idxWf sc .b32 i && isS a
  | .clmq la d => laWf la && isS d
  | .lget d a => isS d && isV a
  | .lraise d a b _ => isS d && isS a && isS b
  | .decl d a _ _ => isV d && isV a
  | .endorse _ n => n != 0
  | .lchk d a b => isS d && isV a && isS b
  | .lspan d n a => isV d && decide (d + n ≤ 256) && (n != 0 || d == 0) && isS a
  | .scopeo n base => decide (1 ≤ n) && decide (base + n ≤ 256)
  | .scopec => true
  | .rgrow n | .rshrink n => decide (1 ≤ n) && decide (n ≤ 8192)
  | .fork a b c => isS a && isS b && isS c
  | .rdv => true
  | .tcopy sh co ct => cmd sh co ct
  | .xfer _ sh co ct => cmd sh co ct
  | .mma t i32 tile sh co ct =>
    [Ty.mk8, .sm8, .sm4, .bf16, .f16].contains t && (!i32 || t == .sm8 || t == .sm4) && isTile tile && cmd sh co ct
  | .mzero tile => isTile tile
  | .mdrain la t _ d tile b => laWf la && floatTys.contains t && isV d && isTile tile && isS b
  | .mfill t tile a b => floatTys.contains t && isTile tile && isV a && isS b
  | .mrsclVector tile a => isTile tile && isV a
  | .mrsclUniform tile a => isTile tile && isS a
  | .shape d a => isS d && isS a
  | .cast a => isS a
  | .qput a b _ => isS a && isS b
  | .sysr d reg => isS d && sysKnown reg
  | .sysw reg a => sysKnown reg && !sysReadOnly reg && isS a
  | .pkeyw a | .tlbinvPage a | .tlbinvCtx a | .tlbinvAll a | .pgmap a => isS a
  | .frinv a b => isS a && isS b
  | .faultr f d => match f with | .addr => isV d && isEven d | .mask => isM d | _ => isS d
  | _ => true

/-- The instructions that have a word. -/
def hasWord (i : Instr) : Bool := (encode i).isSome

end Sys2Proof
end

