-- ==== Sys2Proof/Certificates/Slice0/Obligations.lean ====
section
/-! DEFINITION. What the model claims of the machine: each obligation formalises rules of the spec, or follows from them. -/

open Sys2Proof Sys2Proof.Machine

/-! ### Uniform instructions -/

/-- The table of R101: every uniform integer instruction completes with its result and the join of its sources' labels. -/
def Obligations.UniformResults : Prop :=
  ∀ (i : Instr) (s : State) (ag : Agent) (th : Thread) (d : Nat) (srcs : List Nat) (v : Word) (l : Lbl)
    (tab : List (BitVec 64)),
    uniResult i (fun r => (s.readS ag r).val) = some (d, srcs, v) → s.Turn ag th →
    s.mayIssue ag th (srcs.map .s) [.s d] = true →
    s.joined ag (srcs.map (fun r => (s.readS ag r).lab) ++ [th.pcl]) = some (l, tab) →
    exec i s = .next (s.finish ((s.setLabels (s.ctxOf ag) tab).writeS ag d { val := v, lab := l }) ag {})

/-- R102: SMOVH writes the high half alone and joins the old label. R103: SLANE reads an active lane, or zero, and joins the
labels of every group that holds an active lane; it is illegal in the sequencers' clauses. R144: VRED folds the active lanes
in ascending order into a uniform register. That VRED opens its window where no lane is active too is the model's choice (log 66). -/
def Obligations.UniformOtherResults : Prop :=
  (∀ (d : Nat) (imm : BitVec 32) (s : State) (ag : Agent) (th : Thread) (l : Lbl) (tab : List (BitVec 64)),
     s.Turn ag th → s.mayIssue ag th [.s d] [.s d] = true →
     s.joined ag [th.pcl, (s.readS ag d).lab] = some (l, tab) →
     exec (.smovh d imm) s = .next (s.finish ((s.setLabels (s.ctxOf ag) tab).writeS ag d
       { val := imm ++ (s.readS ag d).val.extractLsb' 0 32, lab := l }) ag {})) ∧
  ((∀ (d a b : Nat) (s : State) (cid t fn : Nat) (c : Crew) (tm : Team) (th : Thread) (l : Lbl) (tab : List (BitVec 64)),
     s.AtFrag cid t fn c tm th → s.mayIssue (.frag cid t fn) th [.v a, .s b] [.s d] = true →
     s.joined (.frag cid t fn) ((mgroups th.exm).map (fun g => tm.vlab a g) ++
       [(s.readS (.frag cid t fn) b).lab, th.pcl]) = some (l, tab) →
     exec (.slane d a b) s = .next (s.finish ((s.setLabels c.vf tab).writeS (.frag cid t fn) d
       { val := if (s.readS (.frag cid t fn) b).val.toNat < tm.lanes ∧
                   th.exm.getLsbD (s.readS (.frag cid t fn) b).val.toNat = true
                then (tm.lane a (s.readS (.frag cid t fn) b).val.toNat).zeroExtend 64 else 0
         lab := l }) (.frag cid t fn) {})) ∧
   (∀ (d a b : Nat) (w : Word), encode (.slane d a b) = some w → ∀ e : Eng, e = .matrix ∨ e = .copy →
     ∃ x, decode e w = .error x)) ∧
  (∀ (la : Nat) (ty : Ty) (sat : Bool) (r : Rnd) (op : AOp) (d a : Nat) (s : State) (cid t fn : Nat) (c : Crew) (tm : Team)
     (th : Thread), s.AtFrag cid t fn c tm th →
     (th.exm = 0 → s.mayIssue (.frag cid t fn) th [.v a] [] = true →
       exec (.vred la ty sat r op d a) s =
         .next (s.finish (s.opened (.frag cid t fn) [.s d] (some (la, classTr))) (.frag cid t fn) {})) ∧
     (∀ (l : Lbl) (tab : List (BitVec 64)), th.exm ≠ 0 → s.mayIssue (.frag cid t fn) th [.v a] [.s d] = true →
       s.joined (.frag cid t fn) ((mgroups th.exm).map (fun g => tm.vlab a g) ++ [th.pcl]) = some (l, tab) →
       exec (.vred la ty sat r op d a) s = .next (s.finish (((s.setLabels c.vf tab).writeS (.frag cid t fn) d
         { val := if ty = .i32 then (foldLanes op ty sat r ((mlanes th.exm).map (fun k => tm.lane a k))).signExtend 64
                  else (foldLanes op ty sat r ((mlanes th.exm).map (fun k => tm.lane a k))).zeroExtend 64
           lab := l }).opened (.frag cid t fn) [.s d] (some (la, classTr))) (.frag cid t fn) {})))

/-- What a uniform instruction leaves as it was: every other uniform register, the vector and mask registers and every thread
but its own, all of memory, and every register of the machine. -/
def Obligations.UniformFrame : Prop :=
  ∀ (i : Instr) (s : State) (cid t fn : Nat) (c : Crew) (tm : Team) (th : Thread) (d : Nat) (srcs : List Nat) (v : Word)
    (l : Lbl) (tab : List (BitVec 64)),
    uniResult i (fun r => (s.readS (.frag cid t fn) r).val) = some (d, srcs, v) → s.AtFrag cid t fn c tm th →
    th.pend.any (fun p => p.held.isSome) = false →
    s.mayIssue (.frag cid t fn) th (srcs.map .s) [.s d] = true →
    s.joined (.frag cid t fn) (srcs.map (fun r => (s.readS (.frag cid t fn) r).lab) ++ [th.pcl]) = some (l, tab) →
    ∃ u tm' th', exec i s = .next u ∧ u.team? cid t = some tm' ∧ kvFind tm'.frags fn = some th' ∧
      (d ≠ 63 → u.readS (.frag cid t fn) d = { val := v, lab := l }) ∧
      (∀ r, r ≠ d → u.readS (.frag cid t fn) r = s.readS (.frag cid t fn) r) ∧
      u.readS (.frag cid t fn) 63 = {} ∧
      tm'.v = tm.v ∧ tm'.m = tm.m ∧ tm'.pkr = tm.pkr ∧ tm'.frame = tm.frame ∧
      th'.exm = th.exm ∧ th'.f = th.f ∧ th'.pcl = th.pcl ∧ th'.priv = th.priv ∧ th'.stack = th.stack ∧
      (∀ k, k ≠ fn → kvFind tm'.frags k = kvFind tm.frags k) ∧
      (∀ k, k ≠ t → u.team? cid k = s.team? cid k) ∧ SameOthers s u cid ∧ SameMachine s u ∧
      (∀ a, u.homeByte a = s.homeByte a)

/-! ### Masks -/

/-- R112, R113: the instructions whose result is a mask change the bits of the active lanes alone, and none of them where no
lane is active. -/
def Obligations.MaskResults : Prop :=
  ∀ (i : Instr) (s : State) (cid t fn : Nat) (c : Crew) (tm : Team) (th : Thread) (d : Nat) (rs : List RegName)
    (ls : List Lbl) (b : Mask), maskResult i s (.frag cid t fn) tm th = some (d, rs, ls, b) → s.AtFrag cid t fn c tm th →
    (th.exm = 0 → s.mayIssue (.frag cid t fn) th rs [] = true → exec i s = .next (s.finish s (.frag cid t fn) {})) ∧
    (∀ (l : Lbl) (tab : List (BitVec 64)), th.exm ≠ 0 → s.mayIssue (.frag cid t fn) th rs [.m d] = true →
      s.maskLabel (.frag cid t fn) tm d th.exm (ls ++ [th.pcl]) = some (l, tab) →
      (d = 0 → ((s.setLabels c.vf tab).ctx c.vf).dominates th.pcl l = true) →
      exec i s = .next (s.finish ((s.setLabels c.vf tab).putMask cid t fn tm d th.exm b l) (.frag cid t fn) {}))

/-- R112: MPOPC counts the active lanes of a mask, and MTEST looks at one. R50: EXMW takes a mask whose label the PC label
dominates, within the fragment's lane set, and else raises missing write span with exm as it was; EXMR writes exm's bits,
with the PC label. -/
def Obligations.MaskMoves : Prop :=
  (∀ (d a b : Nat) (s : State) (cid t fn : Nat) (c : Crew) (tm : Team) (th : Thread) (l : Lbl) (tab : List (BitVec 64)),
     s.AtFrag cid t fn c tm th →
     (s.mayIssue (.frag cid t fn) th [.m a] [.s d] = true →
       s.joined (.frag cid t fn) [maskLbl tm th a, th.pcl] = some (l, tab) →
       exec (.mpopc d a) s = .next (s.finish ((s.setLabels c.vf tab).writeS (.frag cid t fn) d
         { val := BitVec.ofNat 64 (mcount (th.exm &&& maskVal tm th a)), lab := l }) (.frag cid t fn) {})) ∧
     (s.mayIssue (.frag cid t fn) th [.m a, .s b] [.s d] = true →
       s.joined (.frag cid t fn) [maskLbl tm th a, (s.readS (.frag cid t fn) b).lab, th.pcl] = some (l, tab) →
       exec (.mtest d a b) s = .next (s.finish ((s.setLabels c.vf tab).writeS (.frag cid t fn) d
         { val := if (s.readS (.frag cid t fn) b).val.toNat < 1024 ∧
                     th.exm.getLsbD (s.readS (.frag cid t fn) b).val.toNat = true ∧
                     (maskVal tm th a).getLsbD (s.readS (.frag cid t fn) b).val.toNat = true then 1 else 0
           lab := l }) (.frag cid t fn) {}))) ∧
  (∀ (a : Nat) (s : State) (cid t fn : Nat) (c : Crew) (tm : Team) (th : Thread), s.AtFrag cid t fn c tm th →
     (s.mayIssue (.frag cid t fn) th [.m a] [] = true → a ≠ 0 → (s.ctx c.vf).dominates th.pcl (maskLbl tm th a) = true →
       exec (.exmw a) s = .next (s.finish (s.modThread (.frag cid t fn) (fun x => { x with exm := maskVal tm th a &&& x.f }))
         (.frag cid t fn) {})) ∧
     (s.mayIssue (.frag cid t fn) th [.m a] [] = true → a ≠ 0 → (s.ctx c.vf).dominates th.pcl (maskLbl tm th a) = false →
       exec (.exmw a) s = .next (s.takeTrap (.frag cid t fn) { code := 0x0D, lanes := th.exm })) ∧
     (s.mayIssue (.frag cid t fn) th [.m 0] [] = true →
       exec (.exmw 0) s = .next (s.finish s (.frag cid t fn) {})) ∧
     (s.mayIssue (.frag cid t fn) th [] [.m 0] = true →
       exec (.exmr 0) s = .next (s.finish s (.frag cid t fn) {})) ∧
     (∀ (l : Lbl) (tab : List (BitVec 64)), s.mayIssue (.frag cid t fn) th [] [.m a] = true → a ≠ 0 →
       s.maskLabel (.frag cid t fn) tm a th.f [th.pcl] = some (l, tab) →
       exec (.exmr a) s = .next (s.finish ((s.setLabels c.vf tab).putMask cid t fn tm a th.f th.exm l) (.frag cid t fn) {})))

/-- What a mask instruction leaves as it was: the lanes of the destination that are not active, every other mask, every
uniform and vector register, and all of memory. -/
def Obligations.MaskFrame : Prop :=
  ∀ (i : Instr) (s : State) (cid t fn : Nat) (c : Crew) (tm : Team) (th : Thread) (d : Nat) (rs : List RegName)
    (ls : List Lbl) (b : Mask) (l : Lbl) (tab : List (BitVec 64)),
    maskResult i s (.frag cid t fn) tm th = some (d, rs, ls, b) → s.AtFrag cid t fn c tm th →
    th.pend.any (fun p => p.held.isSome) = false → th.exm ≠ 0 → s.mayIssue (.frag cid t fn) th rs [.m d] = true →
    s.maskLabel (.frag cid t fn) tm d th.exm (ls ++ [th.pcl]) = some (l, tab) →
    (d = 0 → ((s.setLabels c.vf tab).ctx c.vf).dominates th.pcl l = true) →
    ∃ u tm' th', exec i s = .next u ∧ u.team? cid t = some tm' ∧ kvFind tm'.frags fn = some th' ∧
      (d ≠ 0 → ∀ k, (kvGet {} tm'.m d).bits.getLsbD k = (tm.live.getLsbD k &&
        if th.exm.getLsbD k then b.getLsbD k else (kvGet {} tm.m d).bits.getLsbD k)) ∧
      (d ≠ 0 → (kvGet {} tm'.m d).lab = l ∧ th'.exm = th.exm) ∧
      (d = 0 → tm'.m = tm.m ∧ th'.exm = th.exm &&& b &&& th.f) ∧
      (∀ r, r ≠ d → kvGet {} tm'.m r = kvGet {} tm.m r) ∧
      tm'.s = tm.s ∧ tm'.v = tm.v ∧ th'.f = th.f ∧ th'.pcl = th.pcl ∧ th'.stack = th.stack ∧
      (∀ k, k ≠ fn → kvFind tm'.frags k = kvFind tm.frags k) ∧ SameOthers s u cid ∧ SameMachine s u ∧
      (∀ a, u.homeByte a = s.homeByte a)

/-! ### Vector registers -/

/-- R128 to R145: the instructions whose result is a vector register write the active lanes alone, give each written word the join of
its sources' labels, and open the lookahead window of a long-latency instruction. VFEXP2 and VFLOG2 are as log 12 says; that a
long-latency instruction opens its window where no lane is active too is the model's choice (log 66). -/
def Obligations.VectorResults : Prop :=
  ∀ (i : Instr) (s : State) (cid t fn : Nat) (c : Crew) (tm : Team) (th : Thread) (q : VecResult),
    vecResult i s (.frag cid t fn) tm th = some q → s.AtFrag cid t fn c tm th →
    (th.exm = 0 → s.hasName (.frag cid t fn) (.v q.dst) = true → s.mayIssue (.frag cid t fn) th q.names [] = true →
      exec i s = .next (s.finish (s.opened (.frag cid t fn) [.v q.dst] q.win) (.frag cid t fn) {})) ∧
    (∀ (ls : List (Nat × Lbl)) (s1 : State), th.exm ≠ 0 → s.mayIssue (.frag cid t fn) th q.names [.v q.dst] = true →
      wordLabels tm th.exm q.dst (fun g => q.labs g ++ [th.pcl]) (mgroups th.exm) s = .ok ls s1 →
      c.wordsFit t q.dst th.exm = true →
      exec i s = .next (s.finish (((s1.logged cid (c.wordsNew t q.dst th.exm)).putVec cid t q.dst
        th.exm ls q.lane).opened (.frag cid t fn) [.v q.dst] q.win) (.frag cid t fn) {}))

/-- What an instruction with a vector result leaves as it was: the lanes of the destination that are not active, every other
vector register, every uniform and mask register, exm, and all of memory. -/
def Obligations.VectorFrame : Prop :=
  ∀ (i : Instr) (s : State) (cid t fn : Nat) (c : Crew) (tm : Team) (th : Thread) (q : VecResult) (ls : List (Nat × Lbl))
    (s1 : State), vecResult i s (.frag cid t fn) tm th = some q → s.AtFrag cid t fn c tm th →
    th.pend.any (fun p => p.held.isSome) = false → th.exm ≠ 0 → s.mayIssue (.frag cid t fn) th q.names [.v q.dst] = true →
    wordLabels tm th.exm q.dst (fun g => q.labs g ++ [th.pcl]) (mgroups th.exm) s = .ok ls s1 →
    c.wordsFit t q.dst th.exm = true →
    ∃ u tm' th', exec i s = .next u ∧ u.team? cid t = some tm' ∧ kvFind tm'.frags fn = some th' ∧
      (∀ k, k < 1024 → th.exm.getLsbD k = true → tm'.lane q.dst k = q.lane k) ∧
      (∀ k, k < 1024 → th.exm.getLsbD k = false → tm'.lane q.dst k = tm.lane q.dst k) ∧
      (∀ r k, r ≠ q.dst → k < 1024 → tm'.lane r k = tm.lane r k ∧ tm'.vlab r (k / 32) = tm.vlab r (k / 32)) ∧
      tm'.s = tm.s ∧ tm'.m = tm.m ∧ th'.exm = th.exm ∧ th'.f = th.f ∧ th'.pcl = th.pcl ∧ th'.stack = th.stack ∧
      (∀ k, k ≠ fn → kvFind tm'.frags k = kvFind tm.frags k) ∧ SameOthers s u cid ∧ SameMachine s u ∧
      (∀ a, u.homeByte a = s.homeByte a)

/-! ### Control -/

/-- R104, R107: NOP and YIELD change no register, label or memory and go on at the next header; every lookahead window of the
fragment has ended. R104: BRA, CALL and RET move the whole fragment to a clause header; CALL leaves the address of the next
header in lnk, with the PC label. -/
def Obligations.ControlMoves : Prop :=
  (∀ (s : State) (ag : Agent) (th : Thread), s.Turn ag th → s.mayIssue ag th [] [] = true → th.heldFree = true →
     exec .nop s = .next (s.finish (s.closed ag th) ag {}) ∧ exec .yield s = .next (s.finish (s.closed ag th) ag {})) ∧
  ((∀ (tgt : BitVec 17) (s s1 : State) (ag : Agent) (th : Thread), s.Turn ag th → s.mayIssue ag th [] [] = true →
     th.heldFree = true → s.headersAt ag [targetOf th tgt] = some s1 →
     exec (.bra tgt) s = .next (s.finish (s1.closed ag th) ag { ctl := .jump (targetOf th tgt).toNat })) ∧
   (∀ (tgt : BitVec 17) (s s1 : State) (ag : Agent) (th : Thread), s.Turn ag th → s.mayIssue ag th [] [.s 62] = true →
     th.heldFree = true → s.headersAt ag [targetOf th tgt] = some s1 →
     exec (.call tgt) s = .next (s.finish ((s1.closed ag th).writeS ag 62
       { val := BitVec.ofNat 64 (th.pc + 8 * (th.clause.length + 1)), lab := th.pcl }) ag
       { ctl := .jump (targetOf th tgt).toNat })) ∧
   (∀ (s s1 : State) (ag : Agent) (th : Thread), s.Turn ag th → s.mayIssue ag th [.s 62] [] = true →
     th.heldFree = true → s.headersAt ag [((s.readS ag 62).val.toNat : Int)] = some s1 →
     (s.ctx (s.ctxOf ag)).dominates th.pcl (s.readS ag 62).lab = true →
     exec .ret s = .next (s.finish (s1.closed ag th) ag { ctl := .jump (s.readS ag 62).val.toNat })))

/-- R58, R79, R104, R105: a BRC or BRX whose condition label the clearance and the PC label dominate moves the whole fragment, or
lets it go on at the next header, and drops an armed span. LOOP counts its register down, writes it with its label, and branches
while it is not zero. -/
def Obligations.ConditionalBranches : Prop :=
  (∀ (k : BrKind) (a : Nat) (tgt join : BitVec 17) (s s1 : State) (ag : Agent) (th : Thread), (k = .nz ∨ k = .z) →
    s.Turn ag th → s.mayIssue ag th [.s a] [] = true →
    s.unlabelled ag th (s.readS ag a).lab = true →
    (s.regTest ag k a = true → th.heldFree = true) →
    s.headersAt ag ((if s.regTest ag k a then [targetOf th tgt] else []) ++
      (if join = 0 then [] else [targetOf th join])) = some s1 →
    exec (.brc k a tgt join) s = .next (s.finish (s1.moved ag th (s.regTest ag k a)) ag
      { ctl := if s.regTest ag k a then .jump (targetOf th tgt).toNat else .next })) ∧
  (∀ (k : BrKind) (a : Nat) (tgt join : BitVec 17) (s s1 : State) (cid t fn : Nat) (c : Crew) (tm : Team) (th : Thread),
    (k = .any ∨ k = .all) → s.AtFrag cid t fn c tm th → s.mayIssue (.frag cid t fn) th [.m a] [] = true →
    s.unlabelled (.frag cid t fn) th (maskLbl tm th a) = true →
    ((s.brTest (.frag cid t fn) tm th k a).1 = true → th.heldFree = true) →
    s.headersAt (.frag cid t fn) ((if (s.brTest (.frag cid t fn) tm th k a).1 then [targetOf th tgt] else []) ++
      (if join = 0 then [] else [targetOf th join])) = some s1 →
    exec (.brc k a tgt join) s = .next (s.finish (s1.moved (.frag cid t fn) th (s.brTest (.frag cid t fn) tm th k a).1)
      (.frag cid t fn) { ctl := if (s.brTest (.frag cid t fn) tm th k a).1 then .jump (targetOf th tgt).toNat else .next })) ∧
  (∀ (a : Nat) (s s1 : State) (ag : Agent) (th : Thread), s.Turn ag th → s.mayIssue ag th [.s a] [] = true →
    th.heldFree = true → s.headersAt ag [((s.readS ag a).val.toNat : Int)] = some s1 →
    s.unlabelled ag th (s.readS ag a).lab = true →
    exec (.brx a) s = .next (s.finish (s1.moved ag th true) ag { ctl := .jump (s.readS ag a).val.toNat })) ∧
  (∀ (a : Nat) (tgt join : BitVec 17) (s s1 : State) (ag : Agent) (th : Thread) (l : Lbl) (tab : List (BitVec 64)),
    s.Turn ag th → s.mayIssue ag th [.s a] [.s a] = true →
    ((s.readS ag a).val ≠ 1 → th.heldFree = true) →
    s.headersAt ag ((if (s.readS ag a).val ≠ 1 then [targetOf th tgt] else []) ++
      (if join = 0 then [] else [targetOf th join])) = some s1 →
    s1.joined ag [(s1.readS ag a).lab, th.pcl] = some (l, tab) →
    (s1.setLabels (s.ctxOf ag) tab).unlabelled ag th l = true →
    exec (.loop a tgt join) s = .next (s.finish
      (((if (s.readS ag a).val ≠ 1 then (s1.setLabels (s.ctxOf ag) tab).closed ag th
        else s1.setLabels (s.ctxOf ag) tab).writeS ag a { val := (s.readS ag a).val - 1, lab := l }).modThread
        ag (fun x => { x with armed := none })) ag
      { ctl := if (s.readS ag a).val ≠ 1 then .jump (targetOf th tgt).toNat else .next }))

/-- R59 to R62: a BRC or LOOP whose condition label the PC label does not dominate opens the armed span: both sides run under the
join of the two labels, and an entry of the split table holds what the join restores. R58, R59, R105: a conditional branch (BRC,
LOOP, BRX, BRV) whose condition label the clearance does not dominate raises a clearance fault (0x0B), and a labelled one with no
armed span, with no join or with a span that an open one does not enclose raises missing write span (0x0D); neither moves the
fragment or counts a LOOP down. R58: so does a RET whose lnk label the PC label does not dominate (0x0B). -/
def Obligations.LabelledBranches : Prop :=
  (∀ (k : BrKind) (a : Nat) (tgt join : BitVec 17) (s s1 : State) (cid t fn : Nat) (c : Crew) (tm : Team) (th : Thread)
     (sp : Span) (l : Lbl) (tab : List (BitVec 64)), s.AtFrag cid t fn c tm th →
     s.mayIssue (.frag cid t fn) th [brName k a] [] = true → th.heldFree = true → join ≠ 0 →
     s.headersAt (.frag cid t fn) ((if (s.brTest (.frag cid t fn) tm th k a).1 then [targetOf th tgt] else []) ++
       [targetOf th join]) = some s1 →
     (s.ctx c.vf).dominates tm.clear (s.brTest (.frag cid t fn) tm th k a).2 = true →
     (s.ctx c.vf).dominates th.pcl (s.brTest (.frag cid t fn) tm th k a).2 = false →
     th.armed = some sp → th.spanMissing true = false →
     s.joined (.frag cid t fn) [th.pcl, (s.brTest (.frag cid t fn) tm th k a).2] = some (l, tab) →
     exec (.brc k a tgt join) s = .next (s.finish
       ((((if (s.brTest (.frag cid t fn) tm th k a).1 then (s1.setLabels c.vf tab).closed (.frag cid t fn) th
           else s1.setLabels c.vf tab)).modTeam cid t (fun x => { x with nextSid := tm.nextSid + 1 })).spanOpened
         (.frag cid t fn) tm.nextSid (targetOf th join).toNat l
         { span := sp, cond := (s.brTest (.frag cid t fn) tm th k a).2, groups := mgroups th.exm }
         (s.brTest (.frag cid t fn) tm th k a).1) (.frag cid t fn)
       { ctl := if (s.brTest (.frag cid t fn) tm th k a).1 then .jump (targetOf th tgt).toNat else .next })) ∧
  (∀ (k : BrKind) (a : Nat) (tgt join : BitVec 17) (s s1 : State) (cid t fn : Nat) (c : Crew) (tm : Team) (th : Thread),
     s.AtFrag cid t fn c tm th → s.mayIssue (.frag cid t fn) th [brName k a] [] = true →
     s.headersAt (.frag cid t fn) ((if (s.brTest (.frag cid t fn) tm th k a).1 then [targetOf th tgt] else []) ++
       (if join = 0 then [] else [targetOf th join])) = some s1 →
     ((s.ctx c.vf).dominates tm.clear (s.brTest (.frag cid t fn) tm th k a).2 = false →
       exec (.brc k a tgt join) s = .next (s1.takeTrap (.frag cid t fn) { code := 0x0B, lanes := th.exm })) ∧
     ((s.ctx c.vf).dominates tm.clear (s.brTest (.frag cid t fn) tm th k a).2 = true →
       (s.ctx c.vf).dominates th.pcl (s.brTest (.frag cid t fn) tm th k a).2 = false → th.spanMissing (join != 0) = true →
       exec (.brc k a tgt join) s = .next (s1.takeTrap (.frag cid t fn) { code := 0x0D, lanes := th.exm }))) ∧
  (∀ (a : Nat) (tgt join : BitVec 17) (s s1 s2 : State) (ag : Agent) (th : Thread) (l : Lbl) (tab : List (BitVec 64)),
     s.Turn ag th → s.mayIssue ag th [.s a] [.s a] = true →
     s.headersAt ag ((if (s.readS ag a).val ≠ 1 then [targetOf th tgt] else []) ++
       (if join = 0 then [] else [targetOf th join])) = some s1 →
     s1.joined ag [(s1.readS ag a).lab, th.pcl] = some (l, tab) → s2 = s1.setLabels (s.ctxOf ag) tab →
     ((s2.ctx (s.ctxOf ag)).dominates (s.clearOf ag) l = false →
       exec (.loop a tgt join) s = .next (s2.takeTrap ag { code := 0x0B, lanes := th.exm })) ∧
     ((s2.ctx (s.ctxOf ag)).dominates (s.clearOf ag) l = true → (s2.ctx (s.ctxOf ag)).dominates th.pcl l = false →
       th.spanMissing (join != 0) = true →
       exec (.loop a tgt join) s = .next (s2.takeTrap ag { code := 0x0D, lanes := th.exm })) ∧
     (∀ (cid t fn : Nat) (c : Crew) (tm : Team) (sp : Span) (r : Lbl) (tab2 : List (BitVec 64)), ag = .frag cid t fn →
       s.AtFrag cid t fn c tm th → join ≠ 0 → ((s.readS ag a).val ≠ 1 → th.heldFree = true) →
       (s2.ctx c.vf).dominates tm.clear l = true → (s2.ctx c.vf).dominates th.pcl l = false → th.armed = some sp →
       th.spanMissing true = false → s2.joined ag [th.pcl, l] = some (r, tab2) →
       exec (.loop a tgt join) s = .next (s.finish
         (((((if (s.readS ag a).val ≠ 1 then (s2.setLabels c.vf tab2).closed ag th else s2.setLabels c.vf tab2).writeS ag a
           { val := (s.readS ag a).val - 1, lab := l }).modTeam cid t (fun x => { x with nextSid := tm.nextSid + 1 })).spanOpened
           ag tm.nextSid (targetOf th join).toNat r { span := sp, cond := l, groups := mgroups th.exm }
           (decide ((s.readS ag a).val ≠ 1)))) ag
         { ctl := if (s.readS ag a).val ≠ 1 then .jump (targetOf th tgt).toNat else .next }))) ∧
  (∀ (a : Nat) (s s1 : State) (ag : Agent) (th : Thread), s.Turn ag th → s.mayIssue ag th [.s a] [] = true →
     s.headersAt ag [((s.readS ag a).val.toNat : Int)] = some s1 →
     ((s.ctx (s.ctxOf ag)).dominates (s.clearOf ag) (s.readS ag a).lab = false →
       exec (.brx a) s = .next (s1.takeTrap ag { code := 0x0B, lanes := th.exm })) ∧
     ((s.ctx (s.ctxOf ag)).dominates (s.clearOf ag) (s.readS ag a).lab = true →
       (s.ctx (s.ctxOf ag)).dominates th.pcl (s.readS ag a).lab = false →
       exec (.brx a) s = .next (s1.takeTrap ag { code := 0x0D, lanes := th.exm }))) ∧
  (∀ (m : Nat) (tgt join : BitVec 17) (s s1 : State) (cid t fn : Nat) (c : Crew) (tm : Team) (th : Thread),
     s.AtFrag cid t fn c tm th → s.mayIssue (.frag cid t fn) th [.m m] [] = true →
     s.headersAt (.frag cid t fn) ((if th.exm &&& maskVal tm th m ≠ 0 then [targetOf th tgt] else []) ++ [targetOf th join]) =
       some s1 →
     ((s.ctx c.vf).dominates tm.clear (maskLbl tm th m) = false →
       exec (.brv m tgt join) s = .next (s1.takeTrap (.frag cid t fn) { code := 0x0B, lanes := th.exm })) ∧
     ((s.ctx c.vf).dominates tm.clear (maskLbl tm th m) = true → (s.ctx c.vf).dominates th.pcl (maskLbl tm th m) = false →
       th.spanMissing true = true →
       exec (.brv m tgt join) s = .next (s1.takeTrap (.frag cid t fn) { code := 0x0D, lanes := th.exm }))) ∧
  (∀ (s s1 : State) (ag : Agent) (th : Thread), s.Turn ag th → s.mayIssue ag th [.s 62] [] = true →
     s.headersAt ag [((s.readS ag 62).val.toNat : Int)] = some s1 →
     (s.ctx (s.ctxOf ag)).dominates th.pcl (s.readS ag 62).lab = false →
     exec .ret s = .next (s1.takeTrap ag { code := 0x0B, lanes := th.exm }))

/-- R28, R30, R100: BRV moves a fragment whose active lanes agree as a whole, opening the armed span where it is labelled (R59), and
splits one whose lanes disagree; the side that falls through is written to the context area where the split table is full. Which bytes
of the area it takes, and how they are laid out, is the model's choice (log 44). -/
def Obligations.BrvResult : Prop :=
  ∀ (m : Nat) (tgt join : BitVec 17) (s s1 : State) (cid t fn : Nat) (c : Crew) (tm : Team) (th : Thread),
    s.AtFrag cid t fn c tm th → s.mayIssue (.frag cid t fn) th [.m m] [] = true → th.heldFree = true →
    s.headersAt (.frag cid t fn) ((if th.exm &&& maskVal tm th m ≠ 0 then [targetOf th tgt] else []) ++ [targetOf th join]) =
      some s1 →
    (s1.splitsFull c tm = true → (s1.blockAddr c (spillOfs t tm.nextFrag)).isSome = true) →
    (s.unlabelled (.frag cid t fn) th (maskLbl tm th m) = true →
      exec (.brv m tgt join) s = .next (s.finish
        (if th.exm &&& maskVal tm th m = 0 then s1.moved (.frag cid t fn) th false
         else if th.exm &&& maskVal tm th m = th.exm then s1.moved (.frag cid t fn) th true
         else (s1.closed (.frag cid t fn) th).split cid t fn c tm th (targetOf th tgt).toNat (targetOf th join).toNat
           (maskVal tm th m) none th.pcl)
        (.frag cid t fn)
        { ctl := if th.exm &&& maskVal tm th m = 0 then .next
                 else if th.exm &&& maskVal tm th m = th.exm then .jump (targetOf th tgt).toNat else .stay })) ∧
    (∀ (sp : Span) (l : Lbl) (tab : List (BitVec 64)),
      (s.ctx c.vf).dominates tm.clear (maskLbl tm th m) = true →
      (s.ctx c.vf).dominates th.pcl (maskLbl tm th m) = false → th.armed = some sp → th.spanMissing true = false →
      s.joined (.frag cid t fn) [th.pcl, maskLbl tm th m] = some (l, tab) →
      (th.exm &&& maskVal tm th m ≠ 0 → th.exm &&& maskVal tm th m ≠ th.exm →
        exec (.brv m tgt join) s = .next (s.finish
          (((s1.setLabels c.vf tab).closed (.frag cid t fn) th).split cid t fn c tm th (targetOf th tgt).toNat
            (targetOf th join).toNat (maskVal tm th m)
            (some { span := sp, cond := maskLbl tm th m, groups := mgroups th.exm }) l)
          (.frag cid t fn) { ctl := .stay })) ∧
      ((th.exm &&& maskVal tm th m = 0 ∨ th.exm &&& maskVal tm th m = th.exm) →
        exec (.brv m tgt join) s = .next (s.finish
          (((if th.exm &&& maskVal tm th m ≠ 0 then (s1.setLabels c.vf tab).closed (.frag cid t fn) th
             else s1.setLabels c.vf tab).modTeam cid t (fun x => { x with nextSid := tm.nextSid + 1 })).spanOpened
            (.frag cid t fn) tm.nextSid (targetOf th join).toNat l
            { span := sp, cond := maskLbl tm th m, groups := mgroups th.exm } (decide (th.exm &&& maskVal tm th m ≠ 0)))
          (.frag cid t fn)
          { ctl := if th.exm &&& maskVal tm th m ≠ 0 then .jump (targetOf th tgt).toNat else .next })))

/-- R106: EXIT takes the active lanes out of the fragment and out of every mask; a fragment with lanes left goes on with them,
and one without ends. A stream's EXIT ends it, and a supervisor core's only goes on. -/
def Obligations.ExitResults : Prop :=
  (∀ (s : State) (cid t fn : Nat) (c : Crew) (tm : Team) (th : Thread), s.AtFrag cid t fn c tm th →
    s.mayIssue (.frag cid t fn) th [] [] = true → th.heldFree = true →
    (th.f &&& ~~~th.exm ≠ 0 →
      exec .exit s = .next (s.finish (((s.closed (.frag cid t fn) th).lanesGone cid t th.exm).modThread (.frag cid t fn)
        (fun x => { x with f := th.f &&& ~~~th.exm, exm := th.f &&& ~~~th.exm })) (.frag cid t fn) {})) ∧
    (th.f &&& ~~~th.exm = 0 → (tm.frags.length ≠ 1 ∨ tm.phase ≠ .claim ∧ tm.phase ≠ .commit ∧ c.copy = .solo) →
      exec .exit s = .next (s.finish
        (({ ((s.closed (.frag cid t fn) th).lanesGone cid t th.exm).endFrag cid t fn with cur := none }.endGrant cid).retireCrew
          cid) (.frag cid t fn) { ctl := .stay }))) ∧
  (∀ (s : State) (cid x : Nat) (c : Crew) (q : SeqCtx), s.AtSeq cid x c q → s.mayIssue (.seq cid x) q.th [] [] = true →
    q.th.heldFree = true → c.copy = .solo →
    exec .exit s = .next (s.finish
      (({ (s.closed (.seq cid x) q.th).modCrew cid (fun c => c.modBody (fun b =>
          ({ b with seqs := kvModify b.seqs x (fun q => { q with ended := true, rdv := true }) } : Body).arriveRdv (.seq cid x)))
        with cur := none }.endGrant cid).retireCrew cid) (.seq cid x) { ctl := .stay })) ∧
  (∀ (s : State) (k : Nat) (th : Thread), s.Turn (.sup k) th → s.mayIssue (.sup k) th [] [] = true → th.heldFree = true →
    exec .exit s = .next (s.finish (s.closed (.sup k) th) (.sup k) {}))

/-! ### Exceptions -/

/-- R40, R104, R109: TRAP and BKPT take their exceptions, with their number in the fault record; BKPT ends every lookahead window
first, and a breakpoint of a context that the debugger holds stops the fragment instead. R110: HALT stops a supervisor core; at context-supervisor privilege it raises
a privilege fault (0x1C). -/
def Obligations.TrapsAndHalt : Prop :=
  (∀ (n : BitVec 25) (s : State) (cid t fn : Nat) (c : Crew) (tm : Team) (th : Thread), s.AtFrag cid t fn c tm th →
     s.mayIssue (.frag cid t fn) th [] [] = true → th.handler = false → tm.frame = none → th.heldFree = true →
     exec (.trap n) s = .next (s.enterHandler cid t fn
       (s.fullTrap (.frag cid t fn) th { code := 0x21, lanes := th.exm, info := some (n.zeroExtend 64) })) ∧
     ((s.ctx c.vf).breakpoints = false →
       exec (.bkpt n) s = .next ((s.closed (.frag cid t fn) th).enterHandler cid t fn
         ((s.closed (.frag cid t fn) th).fullTrap (.frag cid t fn) { th with pend := [] }
           { code := 0x20, lanes := th.exm, info := some (n.zeroExtend 64) }))) ∧
     ((s.ctx c.vf).breakpoints = true →
       exec (.bkpt n) s = .next ((s.closed (.frag cid t fn) th).parkThread (.frag cid t fn) .debugger))) ∧
  ((∀ (s : State) (k : Nat) (th : Thread), s.Turn (.sup k) th → th.heldFree = true →
     exec .halt s = .next ((s.closed (.sup k) th).parkThread (.sup k) .halted)) ∧
   (∀ (s : State) (ag : Agent) (th : Thread), s.Turn ag th → (∀ k, ag ≠ .sup k) → s.mayIssue ag th [] [] = true →
     exec .halt s = .next (s.takeTrap ag { code := 0x1C, lanes := th.exm })))

/-- R42, R325: entry into a handler saves where the fragment stood in the team's frame, in the machine and in the context
area, and starts the fragment's faulting lanes at the code's vector, at context-supervisor privilege. R325: without a vector
base a fault aborts its cast with the fault's code. -/
def Obligations.HandlerEntries : Prop :=
  (∀ (s : State) (cid t fn : Nat) (c : Crew) (tm : Team) (th : Thread) (x : Trap) (pa : Nat), s.AtFrag cid t fn c tm th →
     c.copy = .solo → (s.ctx c.vf).tvec ≠ 0 → s.poolAddr c.vf (teamArea (s.ctx c.vf) c.block t) = some pa →
     (∀ k, k < 0x2200 → s.refused (lineOf (pa + k)) = false) →
     ∃ tm' th', (s.enterHandler cid t fn x).team? cid t = some tm' ∧ kvFind tm'.frags fn = some th' ∧
       tm'.frame = some (frameOf fn th x) ∧ tm'.s = tm.s ∧ tm'.m = tm.m ∧ tm'.v = tm.v ∧
       th'.pc = (s.ctx c.vf).tvec.toNat + 64 * x.code ∧ th'.slot = 0 ∧ th'.clause = [] ∧
       th'.exm = x.lanes &&& th.f ∧ th'.f = th.f ∧ th'.priv = .ctxSup ∧ th'.handler = true ∧ th'.pcl = th.pcl ∧
       th'.armed = none ∧ th'.stack = th.stack ∧
       (∀ k, k ≠ fn → kvFind tm'.frags k = kvFind tm.frags k) ∧
       (∀ k, k ≠ t → (s.enterHandler cid t fn x).team? cid k = s.team? cid k) ∧
       SameOthers s (s.enterHandler cid t fn x) cid ∧
       (∀ k, k < 8 → (s.enterHandler cid t fn x).homeByte (pa + k) = BitVec.ofNat 8 (th.pc / 256 ^ k)) ∧
       (s.enterHandler cid t fn x).homeByte (pa + 8) = BitVec.ofNat 8 (if x.header then 16 else th.slot) ∧
       (s.enterHandler cid t fn x).homeByte (pa + 9) = BitVec.ofNat 8 x.code ∧
       (s.enterHandler cid t fn x).homeByte (pa + 10) = BitVec.ofNat 8 x.sub ∧
       (s.enterHandler cid t fn x).homeByte (pa + 11) = BitVec.ofNat 8 th.pcl ∧
       (∀ k, k < 128 → (s.enterHandler cid t fn x).homeByte (pa + 0x30 + k) = BitVec.ofNat 8 (th.exm.toNat / 256 ^ k)) ∧
       (∀ k, k < 128 → (s.enterHandler cid t fn x).homeByte (pa + 0x100 + k) = BitVec.ofNat 8 (x.lanes.toNat / 256 ^ k)) ∧
       (∀ a, a < pa ∨ pa + 0x2200 ≤ a → (s.enterHandler cid t fn x).homeByte a = s.homeByte a)) ∧
  (∀ (s : State) (cid t fn : Nat) (c : Crew) (tm : Team) (th : Thread) (x : Trap), s.AtFrag cid t fn c tm th →
     (s.ctx c.vf).tvec = 0 → s.enterHandler cid t fn x = s.abortCrew cid x.code (BitVec.ofNat 64 th.pc))

/-- R40, R108: TRET ends the handler's lookahead windows, restores the saved mask within the fragment's lane set, the PC label, the
armed span and the privilege, and releases the frame; it resumes at the faulting instruction, or after it. After a fault at a header
TRET.skip counts the clause's instructions by the header as it then reads, which is the model's choice (log 13). -/
def Obligations.TrapReturns : Prop :=
  ∀ (s : State) (cid t fn : Nat) (c : Crew) (tm : Team) (th : Thread) (f : TrapFrame), s.AtFrag cid t fn c tm th →
    tm.frame = some f → f.frag = fn → th.handler = true → th.heldFree = true →
    (exec .tretRetry s = .next (s.finish { ((s.closed (.frag cid t fn) th).modTeam cid t (fun x => { x with frame := none })).modThread (.frag cid t fn)
      (fun x => { restoreThread f x with pc := f.pc, slot := if f.slot = 16 then 0 else f.slot, active := false
                                         count := x.count + 1 }) with cur := none } (.frag cid t fn) { ctl := .stay })) ∧
    (f.slot ≠ 16 →
      exec .tretSkip s = .next (s.finish { ((s.closed (.frag cid t fn) th).modTeam cid t (fun x => { x with frame := none })).modThread (.frag cid t fn)
        (fun x => { restoreThread f x with
          pc := if f.slot + 1 < f.len then f.pc else f.pc + 8 * (f.len + 1)
          slot := if f.slot + 1 < f.len then f.slot + 1 else 0, active := false, count := x.count + 1 })
        with cur := none } (.frag cid t fn) { ctl := .stay })) ∧
    (∀ (w : Word) (s1 : State), f.slot = 16 → s.fetchFor (.frag cid t fn) f.pc = .ok (w, s1) →
      exec .tretSkip s = .next (s.finish { ((s1.closed (.frag cid t fn) th).modTeam cid t (fun x => { x with frame := none })).modThread (.frag cid t fn)
        (fun x => { restoreThread f x with pc := f.pc + 8 * (hdrLen w + 1), slot := 0, active := false
                                           count := x.count + 1 }) with cur := none } (.frag cid t fn) { ctl := .stay }))

/-- R75: after an instruction that takes no branch the thread stands at the next slot of its clause, or at the header that
follows it; after a taken one, at its target. -/
def Obligations.ProgramCounter : Prop :=
  ∀ (s u : State) (cid t fn : Nat) (c : Crew) (tm : Team) (th : Thread) (ctl : Ctl), u.AtFrag cid t fn c tm th →
    th.pend.any (fun p => p.held.isSome) = false → s.thread? (.frag cid t fn) = some th → ctl ≠ .stay →
    ∃ th', (s.finish u (.frag cid t fn) { ctl := ctl }).thread? (.frag cid t fn) = some th' ∧
      (ctl = .next → th.slot + 1 < th.clause.length → th'.pc = th.pc ∧ th'.slot = th.slot + 1 ∧ th'.clause = th.clause) ∧
      (ctl = .next → ¬ th.slot + 1 < th.clause.length →
        th'.pc = th.pc + 8 * (th.clause.length + 1) ∧ th'.slot = 0 ∧ th'.clause = []) ∧
      (∀ pc, ctl = .jump pc → th'.pc = pc ∧ th'.slot = 0 ∧ th'.clause = []) ∧
      th'.exm = th.exm ∧ th'.f = th.f ∧ th'.pcl = th.pcl ∧ th'.priv = th.priv ∧ th'.stack = th.stack ∧ th'.armed = th.armed

/-! ### Memory -/

/-- R9, R148, R150: a SLD that passes its checks replaces its destination by the little-endian number it has read, extended by
its type, with the join of the granule's label, the address registers' and the PC label, and opens its lookahead window. -/
def Obligations.UniformLoads : Prop :=
  ∀ (la : Nat) (ty : Ty) (sc : Scope) (o : Ord4) (d a b : Nat) (ofs : BitVec 18) (s s1 s3 : State) (ag : Agent) (th : Thread)
    (locs : List Loc) (l : Lbl) (tab : List (BitVec 64)) (vs : List Nat), s.Turn ag th →
    s.mayIssue ag th [.s a, .s b] [.s d] = true →
    checkAcc .load (s.uniAccess ag (tySize ty) a b ofs.toInt) s = .ok locs s1 →
    s1.joined ag (locs.map (fun x => s1.granLab x.line) ++ (s.uniAccess ag (tySize ty) a b ofs.toInt).alab ++ [th.pcl]) =
      some (l, tab) →
    loadAll sc o (tySize ty) locs (s1.setLabels (s1.ctxOf ag) tab) = .ok vs s3 → s3.cur = some ag →
    exec (.sld la ty sc o d a b ofs) s = .next (s.finish ((s3.writeS ag d { val := loadWord ty (vs.headD 0), lab := l }).opened
      ag [.s d] (some (la, classLd))) ag {})

/-- R201, R203: a relaxed load of an ordinary location reads each byte from the crew's own uncommitted stores, then from what the
core's L1 holds committed, then, under .core, from a clean copy, and else at its home. That a load is performed in the step that
issues it (log 54), which clean copies stay (log 31) and which lines the L1 gives up (log 61) are the model's choice. -/
def Obligations.RelaxedLoadReads : Prop :=
  ∀ (sc : Scope) (n : Nat) (l : Loc) (s : State) (ag : Agent) (th : Thread) (cid : Nat) (c : Crew), s.Turn ag th →
    agentCid ag = some cid → kvFind s.crews cid = some c → s.plainLoc cid c l = true →
    loadLoc sc .rlx n l s = .ok (s.coreNat c (coreScope ag sc) l.pa n) (s.readBy c (coreScope ag sc) l)

/-- R150: a SST that passes its checks stores the low bytes of its data register at its location. -/
def Obligations.UniformStores : Prop :=
  ∀ (ty : Ty) (sc : Scope) (o : Ord4) (d a b : Nat) (ofs : BitVec 18) (s s2 s3 : State) (ag : Agent) (th : Thread)
    (locs : List Loc) (l : Lbl) (e : Done), s.Turn ag th → s.mayIssue ag th [.s a, .s b, .s d] [] = true →
    GrantedU .store (s.uniAccess ag (tySize ty) a b ofs.toInt)
      ([(s.readS ag d).lab] ++ (s.uniAccess ag (tySize ty) a b ofs.toInt).alab ++ [th.pcl]) s locs l s2 →
    storeLocs sc o (tySize ty) (fun _ => (s.readS ag d).lab)
      (locs.map (fun x => (x, (s.readS ag d).val.toNat % 2 ^ (8 * tySize ty)))) s2 = .ok e s3 →
    exec (.sst ty sc o d a b ofs) s = .next (s.finish s3 ag e)

/-- R201, R203, R334: a relaxed store to ordinary locations is held uncommitted by its crew: its bytes enter the crew's window,
the clean copies that other crews of the core keep in stash windows go, and one store is outstanding. A crew reads back what it holds: after it holds some bytes each of them
reads as stored, and every other byte as before. A byte written at home reads back, and no other byte changes. That a store is held
in the step that issues it (log 54), which clean copies go (log 31) and which lines the L1 gives up (log 61) are the model's choice. -/
def Obligations.StoresHeld : Prop :=
  (∀ (sc : Scope) (n : Nat) (labs : Nat → Lbl) (ls : List (Loc × Nat)) (s : State) (cid t fn : Nat) (c : Crew) (tm : Team)
     (th : Thread), s.AtFrag cid t fn c tm th → c.copy = .solo → th.relNext = none → n ≤ 8 →
     (∀ e ∈ ls, e.2 < 2 ^ (8 * n)) → s.plainLocs cid c (ls.map Prod.fst) = true →
     s.linesFit c (ls.map (fun e => e.1.line)) = true →
     storeLocs sc .rlx n labs ls s = .ok {}
       ((((ls.map Prod.fst).foldl (fun s l => s.touched cid c l) s).held cid c (storeBytes n ls)).modThread (.frag cid t fn)
         (fun th => { th with outSt := th.outSt + 1 }))) ∧
  (∀ (s : State) (c : Crew) (clean : Bool) (bs : List (Nat × Byte)) (a : Nat), (bs.map Prod.fst).Nodup →
     (kvKeys c.body.pad.filled).Nodup →
     s.coreByte (c.hold bs) clean a = (match kvFind bs a with | some b => b | none => s.coreByte c clean a)) ∧
  (∀ (s : State) (pa a : Nat) (b : Byte), (s.setHomeByte pa b).homeByte a = if a = pa then b else s.homeByte a)

/-- R150, R203: what a relaxed SST to an ordinary location changes of memory, as its crew reads it, while the L1 has room: the bytes
at the location, and, at home, nothing but the accessed and dirty bits of the page's entry. -/
def Obligations.UniformStoreFrame : Prop :=
  ∀ (ty : Ty) (sc : Scope) (d a b : Nat) (ofs : BitVec 18) (s s2 : State) (cid t fn : Nat) (c : Crew) (tm : Team) (th : Thread)
    (x : Loc) (l : Lbl), s.AtFrag cid t fn c tm th → c.copy = .solo → th.relNext = none →
    th.pend.any (fun p => p.held.isSome) = false →
    s.mayIssue (.frag cid t fn) th [.s a, .s b, .s d] [] = true →
    GrantedU .store (s.uniAccess (.frag cid t fn) (tySize ty) a b ofs.toInt)
      ([(s.readS (.frag cid t fn) d).lab] ++ (s.uniAccess (.frag cid t fn) (tySize ty) a b ofs.toInt).alab ++ [th.pcl])
      s [x] l s2 →
    s2.plainLoc cid c x = true → s2.linesFit c [x.line] = true → (kvKeys c.body.pad.filled).Nodup →
    s2.l1Has c (1 + (c.body.pad.hits x.line).length) = true →
    (∀ e ∈ s2.crews, e.1 ≠ cid → e.2.body.pad.hits x.line = []) →
    ∃ u c' tm' th', exec (.sst ty sc .rlx d a b ofs) s = .next u ∧ kvFind u.crews cid = some c' ∧
      kvFind c'.body.teams t = some tm' ∧ kvFind tm'.frags fn = some th' ∧
      (∀ k, k < tySize ty → u.coreByte c' false (x.pa + k) =
        BitVec.ofNat 8 ((s.readS (.frag cid t fn) d).val.toNat / 256 ^ k)) ∧
      (∀ p, p < x.pa ∨ x.pa + tySize ty ≤ p → u.coreByte c' false p = s2.coreByte c false p) ∧
      (∀ p, p < x.pte ∨ x.pte + 8 ≤ p → u.homeByte p = s.homeByte p) ∧
      u.gran = s.gran ∧ u.poison = s.poison ∧ tm'.s = tm.s ∧ tm'.m = tm.m ∧ tm'.v = tm.v ∧ th'.exm = th.exm ∧
      th'.pcl = th.pcl ∧ th'.outSt = th.outSt + 1 ∧ SameOthers s u cid

/-- R150, R153: VLD and VLDX that pass their checks write each active lane with the number read at its address, extended or
decoded by type, and open their lookahead window. That they open it where no lane is active too is the model's choice (log 66). -/
def Obligations.VectorLoads : Prop :=
  ∀ (la : Nat) (ty : Ty) (scp : Scope) (o : Ord4) (d : Nat) (s : State) (cid t fn : Nat) (c : Crew) (tm : Team) (th : Thread)
    (i : Instr) (names : List RegName) (x : Acc × (Nat → List Lbl)), s.AtFrag cid t fn c tm th →
    ((∃ sc a idx ofs, i = .vld la ty scp o sc d a idx ofs ∧ names = [.s a] ++ idxName idx ∧
        x = s.laneAccess (.frag cid t fn) tm th (tySize ty) a idx sc ofs.toInt) ∨
     (∃ a ofs, i = .vldx la ty scp o d a ofs ∧ names = [.v a, .v (a + 1)] ∧
        x = s.pairAccess (.frag cid t fn) tm th (tySize ty) a ofs.toInt)) →
    (th.exm = 0 → s.hasName (.frag cid t fn) (.v d) = true → s.mayIssue (.frag cid t fn) th names [] = true →
      exec i s = .next (s.finish (s.opened (.frag cid t fn) [.v d] (some (la, classLd))) (.frag cid t fn) {})) ∧
    (∀ (locs : List Loc) (s1 s2 s3 s4 s5 : State) (vs : List Nat) (c4 : Crew) (tm4 : Team) (th4 : Thread)
      (ls : List (Nat × Lbl)) (labs : Nat → List Lbl), th.exm ≠ 0 →
      s.mayIssue (.frag cid t fn) th names [.v d] = true →
      checkAcc .load x.1 s = .ok locs s1 → checkFormat x.1 ty locs s1 = .ok ⟨⟩ s2 →
      (∀ g, labs g = (locs.filter (fun l => l.lane / 32 == g)).map (fun l => s2.granLab l.line) ++ x.2 g) →
      prepareV d labs s2 = .ok ⟨⟩ s3 → loadAll scp o (tySize ty) locs s3 = .ok vs s4 →
      s4.AtFrag cid t fn c4 tm4 th4 → th4.exm = th.exm →
      wordLabels tm4 th4.exm d (fun g => labs g ++ [th4.pcl]) (mgroups th4.exm) s4 = .ok ls s5 →
      c4.wordsFit t d th4.exm = true →
      exec i s = .next (s.finish (((s5.logged cid (c4.wordsNew t d th4.exm)).putVec cid t d th4.exm ls
        (fun k => loadLane ty (laneVal ((locs.zip vs).map (fun e => (e.1.lane, decodeLane s4 ty e.1 e.2))) k))).opened
        (.frag cid t fn) [.v d] (some (la, classLd))) (.frag cid t fn) {}))

/-- R150: VST and VSTX that pass their checks store the low bytes of each active lane at its address; with no active lane they
do nothing. -/
def Obligations.VectorStores : Prop :=
  ∀ (ty : Ty) (scp : Scope) (o : Ord4) (d : Nat) (s : State) (cid t fn : Nat) (c : Crew) (tm : Team) (th : Thread)
    (i : Instr) (names : List RegName) (x : Acc × (Nat → List Lbl)), s.AtFrag cid t fn c tm th →
    ((∃ sc a idx ofs, i = .vst ty scp o sc d a idx ofs ∧ names = [.s a] ++ idxName idx ∧
        x = s.laneAccess (.frag cid t fn) tm th (tySize ty) a idx sc ofs.toInt) ∨
     (∃ a ofs, i = .vstx ty scp o d a ofs ∧ names = [.v a, .v (a + 1)] ∧
        x = s.pairAccess (.frag cid t fn) tm th (tySize ty) a ofs.toInt)) →
    s.mayIssue (.frag cid t fn) th (names ++ [.v d]) [] = true →
    (th.exm = 0 → exec i s = .next (s.finish s (.frag cid t fn) {})) ∧
    (∀ (locs : List Loc) (ls : List (Nat × Lbl)) (s2 s3 : State) (e : Done), th.exm ≠ 0 →
      Granted .store x.1 (mgroups th.exm) (fun g => [tm.vlab d g] ++ x.2 g ++ [th.pcl]) s locs ls s2 →
      storeLocs scp o (tySize ty) (fun l => tm.vlab d (l / 32))
        (locs.map (fun l => (l, (tm.lane d l.lane).toNat % 2 ^ (8 * tySize ty)))) s2 = .ok e s3 →
      exec i s = .next (s.finish s3 (.frag cid t fn) e))

/-- R149, R315, R320: a uniform load or store takes the first fault of the order of R149 that applies to its address: not canonical
(0x05), past its half or in the crew's aperture (0x06), misaligned (0x1B). -/
def Obligations.UniformAccessFaults : Prop :=
  ∀ (i : Instr) (ty : Ty) (s : State) (ag : Agent) (th : Thread) (cid : Nat) (x : Acc) (ea : Int)
    (rd wr : Bool), s.Turn ag th → agentCid ag = some cid → x.eas = [(0, ea)] →
    ((∃ la sc o d a b ofs, i = .sld la ty sc o d a b ofs ∧ rd = true ∧ wr = false ∧ x = s.uniAccess ag (tySize ty) a b ofs.toInt ∧
        s.mayIssue ag th [.s a, .s b] [.s d] = true) ∨
     (∃ sc o d a b ofs, i = .sst ty sc o d a b ofs ∧ rd = false ∧ wr = true ∧ x = s.uniAccess ag (tySize ty) a b ofs.toInt ∧
        s.mayIssue ag th [.s a, .s b, .s d] [] = true)) →
    (canonical ea = false → exec i s = .next (s.takeTrap ag (uniTrap 0x05 0 th x ea))) ∧
    (canonical ea = true → (crosses ea (tySize ty) = true ∨ inAperture (s.apOf ag) ea (tySize ty) = true) →
      exec i s = .next (s.takeTrap ag (uniTrap 0x06 0 th x ea))) ∧
    (canonical ea = true → crosses ea (tySize ty) = false → inAperture (s.apOf ag) ea (tySize ty) = false →
      (∀ p e l, s.translate (s.ctxOf ag) (s.clOf ag) ea.toNat = .leaf p e l → paReserved (pteAddr e l ea.toNat) = false ∧
        s.egressOk (s.ctxOf ag) (s.normPa (pteAddr e l ea.toNat)) (tySize ty) rd wr = true) → ea % (tySize ty : Int) ≠ 0 →
      exec i s = .next (s.takeTrap ag (uniTrap 0x1B 0 th x ea))) ∧
    (∀ sub, canonical ea = true → crosses ea (tySize ty) = false → inAperture (s.apOf ag) ea (tySize ty) = false →
      s.translate (s.ctxOf ag) (s.clOf ag) ea.toNat = .absent sub → ea % (tySize ty : Int) = 0 →
      exec i s = .next (s.takeTrap ag (uniTrap 0x07 sub th x ea)))

/-! ### The scratchpad, stash windows and prefetches -/

/-- R154, R155: VLDS reads the scratchpad at each active lane's address; one that touches an absent line of a stash window is
held until the line arrives. R154, R155: VSTS writes the low bytes of each active lane into the scratchpad at its address,
the highest lane last; a store that touches an absent line waits for it. A stash window over an MS page keeps no copy: its lanes
are read at the base die (R219). A load from a poisoned line consumes poison (R343). That VLDS opens its window where no lane is active
too (log 66), and which accesses wait on an absent line (log 27), are the model's choice. -/
def Obligations.ScratchpadAccesses : Prop :=
  (∀ (la : Nat) (ty : Ty) (sc : Bool) (d a : Nat) (idx : Option Nat) (ofs : BitVec 17) (s : State) (cid t fn : Nat) (c : Crew)
     (tm : Team) (th : Thread) (x : Acc × (Nat → List Lbl)), s.AtFrag cid t fn c tm th →
     x = s.laneAccess (.frag cid t fn) tm th (tySize ty) a idx sc ofs.toInt →
     (th.exm = 0 → s.hasName (.frag cid t fn) (.v d) = true →
       s.mayIssue (.frag cid t fn) th ([.s a] ++ idxName idx) [] = true →
       exec (.vlds la ty sc d a idx ofs) s =
         .next (s.finish (s.opened (.frag cid t fn) [.v d] (some (la, classSp))) (.frag cid t fn) {})) ∧
     (∀ (ws : List (Nat × Loc)) (s1 : State) (labs : Nat → List Lbl) (wait : List Nat), th.exm ≠ 0 →
       s.mayIssue (.frag cid t fn) th ([.s a] ++ idxName idx) [.v d] = true →
       checkPad .load x.1 s = .ok ws s1 → checkPoisons ((ws.filter (fun w => w.2.ms)).map Prod.snd) s1 = .ok ⟨⟩ s1 →
       s1.AtFrag cid t fn c tm th →
       (∀ g, labs g = (x.1.eas.filter (fun e => e.1 / 32 == g)).map (fun e => match farLane ws e.1 with
         | some l => s1.granLab l.line
         | none => c.body.pad.lab (padLine e.2.toNat)) ++ x.2 g) →
       wait = (x.1.eas.filter (fun e => c.body.pad.absent.contains (padLine e.2.toNat) && (farLane ws e.1).isNone)).map
         (fun e => padLine e.2.toNat) →
       (wait = [] → ∀ (s2 : State) (c2 : Crew) (tm2 : Team), prepareV d labs s1 = .ok ⟨⟩ s2 → s2.AtFrag cid t fn c2 tm2 th →
         (∀ e, x.1.eas.find? (fun e => (farLane ws e.1).isNone && c.body.pad.poison.contains (padLine e.2.toNat)) = some e →
           exec (.vlds la ty sc d a idx ofs) s = .next (s2.consumedPad cid e.2.toNat)) ∧
         (∀ (ls : List (Nat × Lbl)) (s3 : State),
           (∀ e ∈ x.1.eas, farLane ws e.1 = none → c.body.pad.poison.contains (padLine e.2.toNat) = false) →
           wordLabels tm2 th.exm d (fun g => labs g ++ [th.pcl]) (mgroups th.exm) s2 = .ok ls s3 →
           c2.wordsFit t d th.exm = true →
           exec (.vlds la ty sc d a idx ofs) s = .next (s.finish
             (((s3.logged cid (c2.wordsNew t d th.exm)).putVec cid t d th.exm ls
               (fun k => loadLane ty (match farLane ws k with
                 | some l => s1.homeNat l.pa (tySize ty)
                 | none => c.body.pad.nat (((x.1.eas.find? (fun e => e.1 == k)).map (fun e => e.2.toNat)).getD 0)
                     (tySize ty)))).opened (.frag cid t fn) [.v d] (some (la, classSp))) (.frag cid t fn) {}))) ∧
       (wait ≠ [] → (∀ w ∈ ws, w.2.ms = false) → c.wordsFit t d th.exm = true →
         ∃ h, h.dst = d ∧ h.ty = ty ∧ h.mask = th.exm ∧ h.pc = th.pc ∧ h.slot = th.slot ∧
           h.offs = x.1.eas.map (fun e => (e.1, e.2.toNat)) ∧ (∀ l, l ∈ h.need ↔ l ∈ wait) ∧
           exec (.vlds la ty sc d a idx ofs) s = .next (s.finish (((s1.logged cid (c.wordsNew t d th.exm)).wanting cid ws).modThread
             (.frag cid t fn) (fun y => { y with
               pend := y.pend ++ [{ dsts := [.v d], left := la + 1, cls := classSp, held := some h }] })) (.frag cid t fn) {})) ∧
       (wait ≠ [] → (∃ w ∈ ws, w.2.ms = true) → th.heldFree = true →
         exec (.vlds la ty sc d a idx ofs) s = .next ((s1.wanting cid (ws.filter (fun w => !w.2.ms))).parkThread (.frag cid t fn)
           (keepPair th.park .line))))) ∧
  (∀ (ty : Ty) (sc : Bool) (d a : Nat) (idx : Option Nat) (ofs : BitVec 17) (s : State) (cid t fn : Nat) (c : Crew) (tm : Team)
     (th : Thread) (x : Acc × (Nat → List Lbl)), s.AtFrag cid t fn c tm th →
     x = s.laneAccess (.frag cid t fn) tm th (tySize ty) a idx sc ofs.toInt →
     s.mayIssue (.frag cid t fn) th ([.s a] ++ idxName idx ++ [.v d]) [] = true →
     (th.exm = 0 → exec (.vsts ty sc d a idx ofs) s = .next (s.finish s (.frag cid t fn) {})) ∧
     (∀ (ls : List (Nat × Lbl)) (s2 : State), th.exm ≠ 0 → c.copy = .solo → th.relNext = none → tySize ty ≤ 4 →
       c.body.pad.holdsAll x.1 →
       checkClaims x.1 (x.1.eas.filterMap (fun e => (c.body.pad.global e.2.toNat).map (fun g => (e.1, g.toNat)))) s = .ok ⟨⟩ s →
       groupLabels (mgroups th.exm) (fun g => [tm.vlab d g] ++ x.2 g ++ [th.pcl]) s = .ok ls s2 →
       s2.AtFrag cid t fn c tm th →
       checkFlow x.1 (x.1.eas.map (fun e => (e.1, c.body.pad.lab (padLine e.2.toNat)))) (fun l => labOf ls (l / 32)) s2 =
         .ok ⟨⟩ s2 →
       s2.padFit c (x.1.eas.map (fun e => padLine e.2.toNat)) = true →
       exec (.vsts ty sc d a idx ofs) s = .next (s.finish ((s2.padStored cid c (tySize ty)
         (x.1.eas.map (fun e => (e.2.toNat, (tm.lane d e.1).toNat % 2 ^ (8 * tySize ty))))).modThread (.frag cid t fn)
         (fun y => { y with outSt := y.outSt + 1 })) (.frag cid t fn) {})) ∧
     (th.exm ≠ 0 → (∀ e ∈ x.1.eas, 0 ≤ e.2 ∧ e.2 + tySize ty ≤ c.body.pad.size ∧ e.2 % (tySize ty : Int) = 0 ∧
         c.body.pad.failed.contains (padLine e.2.toNat) = false ∧ c.body.pad.global e.2.toNat = none) →
       (∃ e ∈ x.1.eas, c.body.pad.absent.contains (padLine e.2.toNat) = true) →
       exec (.vsts ty sc d a idx ofs) s = .next (s.parkThread (.frag cid t fn) (keepPair th.park .line))))

/-- R154: VLDS and VSTS complete on lines that are present: each active lane of the destination is the number at its address, and
each lane's number stands at its address unless a higher lane's does. R246, R271, R291 to R294: MZERO, MDRAIN, MFILL and both forms
of MRSCL complete on a tile that no MMA of the stream is still to change and that is not poisoned, with the tile's new contents and
label. The premises speak of the state and the operands alone. -/
def Obligations.PadAndTileCompletions : Prop :=
  (∀ (la : Nat) (ty : Ty) (sc : Bool) (d a : Nat) (idx : Option Nat) (ofs : BitVec 17) (s : State) (cid t fn : Nat) (c : Crew)
     (tm : Team) (th : Thread) (x : Acc × (Nat → List Lbl)), s.AtFrag cid t fn c tm th → th.heldFree = true → th.exm ≠ 0 →
     x = s.laneAccess (.frag cid t fn) tm th (tySize ty) a idx sc ofs.toInt → c.body.pad.holdsAll x.1 → c.body.pad.sound x.1 →
     s.mayIssue (.frag cid t fn) th ([.s a] ++ idxName idx) [.v d] = true →
     s.wordsJoined (.frag cid t fn) tm th d (fun g => (x.1.eas.filter (fun e => e.1 / 32 == g)).map
       (fun e => c.body.pad.lab (padLine e.2.toNat)) ++ x.2 g) →
     c.wordsFit t d th.exm = true →
     ∃ u tm', exec (.vlds la ty sc d a idx ofs) s = .next u ∧ u.team? cid t = some tm' ∧
       (∀ e ∈ x.1.eas, tm'.lane d e.1 = loadLane ty (c.body.pad.nat e.2.toNat (tySize ty))) ∧
       (∀ k, k < 1024 → th.exm.getLsbD k = false → tm'.lane d k = tm.lane d k)) ∧
  (∀ (ty : Ty) (sc : Bool) (d a : Nat) (idx : Option Nat) (ofs : BitVec 17) (s : State) (cid t fn : Nat) (c : Crew) (tm : Team)
     (th : Thread) (x : Acc × (Nat → List Lbl)) (w : Nat → Lbl), s.AtFrag cid t fn c tm th → c.copy = .solo → th.heldFree = true →
     th.relNext = none → th.exm ≠ 0 → tm.phase ≠ .commit → tySize ty ≤ 4 →
     x = s.laneAccess (.frag cid t fn) tm th (tySize ty) a idx sc ofs.toInt → c.body.pad.holdsAll x.1 →
     s.mayIssue (.frag cid t fn) th ([.s a] ++ idxName idx ++ [.v d]) [] = true →
     (∀ g ∈ mgroups th.exm, s.joined (.frag cid t fn) ([tm.vlab d g] ++ x.2 g ++ [th.pcl]) = some (w g, (s.ctx c.vf).labels)) →
     (∀ e ∈ x.1.eas, (s.ctx c.vf).dominates (c.body.pad.lab (padLine e.2.toNat)) (w (e.1 / 32)) = true) →
     s.padFit c (x.1.eas.map (fun e => padLine e.2.toNat)) = true → s.l1Has c x.1.eas.length = true →
     ∃ u c', exec (.vsts ty sc d a idx ofs) s = .next u ∧ kvFind u.crews cid = some c' ∧
       (∀ e ∈ x.1.eas, kvFind c.body.pad.filled (padLine e.2.toNat) = none →
         (∀ f ∈ x.1.eas, e.1 < f.1 → f.2 + tySize ty ≤ e.2 ∨ e.2 + tySize ty ≤ f.2) →
         c'.body.pad.nat e.2.toNat (tySize ty) = (tm.lane d e.1).toNat % 2 ^ (8 * tySize ty)) ∧
       (∀ o : Nat, kvFind c.body.pad.filled (padLine o) = none →
         (∀ e ∈ x.1.eas, (o : Int) < e.2 ∨ e.2 + tySize ty ≤ (o : Int)) →
         kvGet 0 c'.body.pad.bytes o = kvGet 0 c.body.pad.bytes o)) ∧
  (∀ (tile : Nat) (s : State) (cid x : Nat) (c : Crew) (q : SeqCtx) (g : Grant) (tl : Tile), s.AtSeq cid x c q →
     c.body.grant = some g → g.mseq = some x → g.tiles[tile]? = some tl → s.tileBusy cid tile = false →
     s.tileLogs cid tile = true →
     (s.mayIssue (.seq cid x) q.th [] [] = true → ∃ u c', exec (.mzero tile) s = .next u ∧ kvFind u.crews cid = some c' ∧
       c'.tile tile = some { lab := q.th.pcl }) ∧
     (∀ a l, s.mayIssue (.seq cid x) q.th [.s a] [] = true → tl.poison = false →
       s.joined (.seq cid x) [tl.lab, (s.readS (.seq cid x) a).lab, q.th.pcl] = some (l, (s.ctx c.vf).labels) →
       ∃ u c', exec (.mrsclUniform tile a) s = .next u ∧ kvFind u.crews cid = some c' ∧ c'.tile tile = some
         { (List.range 128).foldl (fun t r => t.scaleRow r ((s.readS (.seq cid x) a).val.extractLsb' 0 32)) tl with lab := l })) ∧
  (∀ (tile : Nat) (s : State) (cid t fn : Nat) (c : Crew) (tm : Team) (th : Thread) (g : Grant) (tl : Tile),
     s.AtFrag cid t fn c tm th → th.heldFree = true → th.exm ≠ 0 → c.body.grant = some g → g.met = false →
     g.tiles[tile]? = some tl → s.tileBusy cid tile = false → tl.poison = false →
     (∀ la ty r d b, s.hasName (.frag cid t fn) (.v d) = true → s.mayIssue (.frag cid t fn) th [.s b] [.v d] = true →
       s.wordsJoined (.frag cid t fn) tm th d (fun _ => [tl.lab, (s.readS (.frag cid t fn) b).lab]) →
       c.wordsFit t d th.exm = true →
       ∃ u tm', exec (.mdrain la ty r d tile b) s = .next u ∧ u.team? cid t = some tm' ∧
         ∀ k, k < 1024 → th.exm.getLsbD k = true → tm'.lane d k =
           drainLane ty r (tl.at (k % 128) ((s.readS (.frag cid t fn) b).val.toNat % 128))) ∧
     (s.tileLogs cid tile = true →
       (∀ ty a b l, s.mayIssue (.frag cid t fn) th [.v a, .s b] [] = true →
         s.joined (.frag cid t fn) ([tl.lab] ++ tm.crossLab th.exm a ++ [(s.readS (.frag cid t fn) b).lab] ++ [th.pcl]) =
           some (l, (s.ctx c.vf).labels) →
         ∃ u c', exec (.mfill ty tile a b) s = .next u ∧ kvFind u.crews cid = some c' ∧ c'.tile tile = some
           { (mlanes th.exm).foldl (fun y k => y.put (k % 128) ((s.readS (.frag cid t fn) b).val.toNat % 128)
               (widen ty (tm.lane a k))) tl with lab := l }) ∧
       (∀ a l, s.mayIssue (.frag cid t fn) th [.v a] [] = true →
         s.joined (.frag cid t fn) ([tl.lab] ++ tm.crossLab th.exm a ++ [th.pcl]) = some (l, (s.ctx c.vf).labels) →
         ∃ u c', exec (.mrsclVector tile a) s = .next u ∧ kvFind u.crews cid = some c' ∧ c'.tile tile = some
           { (mlanes th.exm).foldl (fun y k => y.scaleRow (k % 128) (tm.lane a k)) tl with lab := l })))

/-- R158, R159: the stash instructions open, flush and close a window of the scratchpad on memory, and answer its number or how many
dirty lines have gone back; STASH.MAP without a free window and STASH.UNMAP without one that matches answer all ones. R156, R157:
SPWAIT goes on once its scratchpad line is there, and waits for it before; VPREF prefetches each active lane's line: a prefetch drops
a lane that would fault, and changes no register and no memory. That STASH.MAP clears failed marks is read by inference (log 35); that
the L1 may give up lines for those that a flush or a prefetch brings is log 61, and what a prefetch leaves is stated where it need not. -/
def Obligations.StashAndPrefetch : Prop :=
  (∀ (d a b : Nat) (ofs : BitVec 18) (s : State) (cid t fn : Nat) (c : Crew) (tm : Team) (th : Thread) (x : Int) (off len : Nat) (l : Lbl)
     (tab : List (BitVec 64)), s.AtFrag cid t fn c tm th →
     (th.exm = 0 → s.mayIssue (.frag cid t fn) th [.s a, .s b] [] = true →
       exec (.stashMap d a b ofs) s = .next (s.finish s (.frag cid t fn) {}) ∧
       exec (.stashFlush d a b ofs) s = .next (s.finish s (.frag cid t fn) {}) ∧
       exec (.stashUnmap d a b ofs) s = .next (s.finish s (.frag cid t fn) {})) ∧
     (th.exm ≠ 0 → s.mayIssue (.frag cid t fn) th [.s a, .s b] [.s d] = true →
       ((s.readS (.frag cid t fn) a).val.toNat : Int) + ofs.toInt = x → x % 128 = 0 → len % 128 = 0 → 128 ≤ len → len ≤ 524288 →
       s.joined (.frag cid t fn) [(s.readS (.frag cid t fn) a).lab, (s.readS (.frag cid t fn) b).lab, th.pcl] = some (l, tab) →
       (off % 128 = 0 → off = ((s.readS (.frag cid t fn) b).val.extractLsb' 0 32).toNat →
         len = ((s.readS (.frag cid t fn) b).val.extractLsb' 32 32).toNat →
         (off + len ≤ c.body.pad.size →
           (∀ e ∈ c.body.pad.wins, meets off len e.2.off e.2.len = false ∧ meetsInt x len e.2.va e.2.len = false) →
           (∀ n, lowestFree (kvKeys c.body.pad.wins) 8 = some n →
             exec (.stashMap d a b ofs) s = .next (s.finish (((s.setLabels c.vf tab).modCrew cid (fun c => c.modBody (fun y =>
               { y with pad := { y.pad with
                 wins := kvSet y.pad.wins n { va := x, off := off, len := len }
                 absent := ((List.range (len / 128)).map (fun k => off / 128 + k)).foldl addOnce y.pad.absent
                 failed := y.pad.failed.filter (fun l => !((List.range (len / 128)).map (fun k => off / 128 + k)).contains l) } }))).writeS
               (.frag cid t fn) d { val := BitVec.ofNat 64 n, lab := l }) (.frag cid t fn) {})) ∧
           (lowestFree (kvKeys c.body.pad.wins) 8 = none →
             exec (.stashMap d a b ofs) s = .next (s.finish ((s.setLabels c.vf tab).writeS (.frag cid t fn) d
               { val := allOnes, lab := l }) (.frag cid t fn) {}))) ∧
         (c.body.pad.wins.find? (fun e => e.2 == { va := x, off := off, len := len }) = none →
           exec (.stashUnmap d a b ofs) s = .next (s.finish ((s.setLabels c.vf tab).writeS (.frag cid t fn) d
             { val := allOnes, lab := l }) (.frag cid t fn) {})) ∧
         (∀ n w, c.body.pad.wins.find? (fun e => e.2 == { va := x, off := off, len := len }) = some (n, w) →
           ∀ (inWin : Nat → Bool) (lines : List Nat) (s1 : State),
           (∀ k, inWin k = (decide (off / 128 ≤ k) && decide (k < (off + len) / 128))) → lines = c.body.pad.dirtyLines.filter inWin →
           touchStash c.body.pad lines (s.setLabels c.vf tab) = .ok ⟨⟩ s1 → s1.AtFrag cid t fn c tm th →
           s1.linesFit c (lines.filterMap (kvFind c.body.pad.filled)) = true →
           exec (.stashUnmap d a b ofs) s = .next (s.finish
             (((s1.flushed cid c lines).modCrew cid (fun c => c.modBody (fun y =>
               { y with pad := { y.pad with
                 wins := kvDel y.pad.wins n, filled := y.pad.filled.filter (fun e => !inWin e.1)
                 wanted := y.pad.wanted.filter (fun e => !inWin e.1) } }))).writeS (.frag cid t fn) d
               { val := BitVec.ofNat 64 lines.length, lab := l }) (.frag cid t fn) {}))) ∧
       (len = (s.readS (.frag cid t fn) b).val.toNat → ∀ (lines : List Nat) (s1 : State),
         lines = c.body.pad.dirtyLines.filter (fun k => match c.body.pad.global (128 * k) with
           | some g => decide (x ≤ g) && decide (g < x + len)
           | none => false) →
         touchStash c.body.pad lines (s.setLabels c.vf tab) = .ok ⟨⟩ s1 → s1.AtFrag cid t fn c tm th →
         s1.linesFit c (lines.filterMap (kvFind c.body.pad.filled)) = true →
         exec (.stashFlush d a b ofs) s = .next (s.finish ((s1.flushed cid c lines).writeS
           (.frag cid t fn) d { val := BitVec.ofNat 64 lines.length, lab := l }) (.frag cid t fn) {})))) ∧
  ((∀ (a b : Nat) (ofs : BitVec 18) (s : State) (ag : Agent) (th : Thread) (cid : Nat) (c : Crew) (ea : Int), s.Turn ag th →
     agentCid ag = some cid → kvFind s.crews cid = some c → s.mayIssue ag th [.s a, .s b] [] = true →
     ea = eaUniform (s.readS ag a).val (s.readS ag b).val ofs.toInt → 0 ≤ ea → ea < c.body.pad.size →
     c.body.pad.failed.contains (padLine ea.toNat) = false →
     (c.body.pad.absent.contains (padLine ea.toNat) = false → exec (.spwait a b ofs) s = .next (s.finish s ag {})) ∧
     (c.body.pad.absent.contains (padLine ea.toNat) = true →
       exec (.spwait a b ofs) s = .next (s.parkThread ag (keepPair th.park .line)))) ∧
   (∀ (sc : Bool) (a : Nat) (idx : Option Nat) (ofs : BitVec 17) (s : State) (cid t fn : Nat) (c : Crew) (tm : Team) (th : Thread),
     s.AtFrag cid t fn c tm th → s.mayIssue (.frag cid t fn) th ([.s a] ++ idxName idx) [] = true →
     exec (.vpref sc a idx ofs) s = .next (s.finish (if th.exm = 0 then s else
       (s.laneAccess (.frag cid t fn) tm th 4 a idx sc ofs.toInt).1.eas.foldl
         (fun u e => prefetch c.vf c.cl c.core (s.apOf (.frag cid t fn)) tm.pkr u e.2) s) (.frag cid t fn) {})) ∧
   (∀ (vf cl core : Nat) (ap : Nat × Nat) (pkr : Word) (s : State) (ea : Int),
     ((canonical ea = false ∨ crosses ea 4 = true ∨ inAperture ap ea 4 = true ∨ ea % 4 ≠ 0 ∨
       (∃ b, s.translate vf (some cl) ea.toNat = .absent b) ∨
       (∃ p e l, s.translate vf (some cl) ea.toNat = .leaf p e l ∧
         (paReserved (s.normPa (pteAddr e l ea.toNat)) = true ∨ keyDenied pkr .load e = true))) →
       prefetch vf cl core ap pkr s ea = s) ∧
     (s.l1Size cl core + 1 ≤ Config.l1Lines →
       (prefetch vf cl core ap pkr s ea).crews = s.crews ∧ (prefetch vf cl core ap pkr s ea).sups = s.sups ∧
       ∀ a, (prefetch vf cl core ap pkr s ea).homeByte a = s.homeByte a)))

/-! ### Atomics -/

/-- R225, R227: one lane of an atomic, outside the L1, reads the old value at its home, after what its own core holds of the line,
writes the new one there, if there is one, and answers the old one; in the L1 it reads and holds it like the crew's own load and
store. A failed compare writes nothing. Where no crew holds stores in a stash window, what is performed at home is its bytes. Which
clean copies go (log 31) and which lines the L1 gives up (log 61) are the model's choice. -/
def Obligations.AtomicUpdates : Prop :=
  (∀ (n : Nat) (l : Loc) (f : Nat → Option Nat) (s s1 : State) (cid t fn : Nat) (c : Crew) (tm : Team) (th : Thread)
     (mine : List Nat), s.AtFrag cid t fn c tm th → s.bad l.line = false →
     (s.l1 c.cl c.core).poison.contains l.line = false → (∀ k, s.stashHolders [] k = []) →
     mine = [l.line].filter (s.l1Lines c.cl c.core).contains → s1 = s.wtLines c.cl c.core mine →
     (∀ past, s.storable l.line = true → s.wtReady c.cl c.core mine = true →
       rmwLoc false past n l f s = .ok (s1.homeNat l.pa n) ((match f (s1.homeNat l.pa n) with
         | some v => s1.performBy (some cid) c.vf (numBytes l.pa n v) l.ms
         | none => l.touch c.vf n false s1).unclean c.cl c.core l.line)) ∧
     rmwLoc true false n l f s = .ok (s.coreNat c false l.pa n) ((match f (s.coreNat c false l.pa n) with
       | some v => s.held cid c (numBytes l.pa n v)
       | none => s).unclean c.cl c.core l.line)) ∧
  (∀ (s : State) (vf : Nat) (bs : List (Nat × Byte)) (ms : Bool) (a : Nat), (∀ k, s.stashHolders [] k = []) →
     (s.perform vf bs ms).homeByte a = (s.setHomeBytes bs).homeByte a)

/-- R223 to R228: a vector atomic that passes its checks performs its lanes in ascending order, one after another, each on what the
lanes before it have left; ATOM and ATOMC write each active lane with the old value and open their lookahead window, and RED leaves
one operation outstanding. That ATOM and ATOMC open their window where no lane is active too is the model's choice (log 66). -/
def Obligations.VectorAtomics : Prop :=
  ∀ (scp : Scope) (o : Ord4) (pb : ABase) (a b : Nat) (ofs : BitVec 14) (s : State) (cid t fn : Nat) (c : Crew) (tm : Team)
    (th : Thread) (x : Acc × (Nat → List Lbl)), s.AtFrag cid t fn c tm th →
    x = (match pb with
      | .uniform => s.laneAccess (.frag cid t fn) tm th 4 a none false ofs.toInt
      | .pair => s.pairAccess (.frag cid t fn) tm th 4 a ofs.toInt) →
    (∀ (ty : Ty) (op : AOp), s.mayIssue (.frag cid t fn) th (atomNames pb a ++ [.v b]) [] = true →
      (th.exm = 0 → exec (.red ty scp o pb op a b ofs) s = .next (s.finish s (.frag cid t fn) {})) ∧
      (∀ (locs : List Loc) (ls : List (Nat × Lbl)) (s2 s3 : State) (vs : List Word) (e : Done) (th3 : Thread), th.exm ≠ 0 →
        Granted .atomic x.1 (mgroups th.exm) (fun g => [tm.vlab b g] ++ x.2 g ++ [th.pcl]) s locs ls s2 →
        rmwLocs scp o 4 false (locs.map (fun l => { loc := l, f := fun old => some (combine op ty old (tm.lane b l.lane))
                                                    operand := (tm.lane b l.lane).toNat, lab := tm.vlab b (l.lane / 32) }))
          s2 = .ok (vs, e) s3 → s3.Turn (.frag cid t fn) th3 → th3.exm ≠ 0 →
        exec (.red ty scp o pb op a b ofs) s = .next (s.finish (s3.modThread (.frag cid t fn)
          (fun y => { y with outAt := y.outAt + 1 })) (.frag cid t fn) e))) ∧
    (∀ (la d : Nat) (i : Instr) (regs : List Nat) (f : Nat → Nat → Option Nat),
      ((∃ ty op, i = .atom la ty scp o pb op d a b ofs ∧ regs = [b] ∧ f = fun l old => some (combine op ty old (tm.lane b l))) ∨
       (i = .atomc la scp o pb d a b ofs ∧ regs = [b, d] ∧
        f = fun l old => if old = (tm.lane d l).toNat then some (tm.lane b l).toNat else none)) →
      (th.exm = 0 → s.hasName (.frag cid t fn) (.v d) = true →
        s.mayIssue (.frag cid t fn) th (atomNames pb a ++ regs.map .v) [] = true →
        exec i s = .next (s.finish (s.opened (.frag cid t fn) [.v d] (some (la, classAt))) (.frag cid t fn) {})) ∧
      (∀ (locs : List Loc) (ls ws : List (Nat × Lbl)) (s2 s3 s4 s5 : State) (vs : List Word) (e : Done) (labs : Nat → List Lbl)
        (c4 : Crew) (tm4 : Team) (th4 : Thread), th.exm ≠ 0 →
        s.mayIssue (.frag cid t fn) th (atomNames pb a ++ regs.map .v) [.v d] = true →
        Granted .atomic x.1 (mgroups th.exm) (fun g => regs.map (fun r => tm.vlab r g) ++ x.2 g ++ [th.pcl]) s locs ls s2 →
        (∀ g, labs g = (locs.filter (fun l => l.lane / 32 == g)).map (fun l => s2.granLab l.line) ++ [labOf ls g]) →
        prepareV d labs s2 = .ok ⟨⟩ s3 →
        rmwLocs scp o 4 true (locs.map (fun l => { loc := l, f := f l.lane, operand := (tm.lane b l.lane).toNat
                                                   lab := tm.vlab b (l.lane / 32) })) s3 = .ok (vs, e) s4 →
        s4.AtFrag cid t fn c4 tm4 th4 → th4.exm = th.exm →
        wordLabels tm4 th4.exm d (fun g => labs g ++ [th4.pcl]) (mgroups th4.exm) s4 = .ok ws s5 →
        c4.wordsFit t d th4.exm = true →
        exec i s = .next (s.finish (((s5.logged cid (c4.wordsNew t d th4.exm)).putVec cid t d th4.exm ws
          (fun k => BitVec.ofNat 32 (laneVal ((locs.zip vs).map (fun e => (e.1.lane, e.2.toNat))) k))).opened
          (.frag cid t fn) [.v d] (some (la, classAt))) (.frag cid t fn) e))) ∧
    (∀ (locs : List Loc) (s1 : State), checkAcc .atomic x.1 s = .ok locs s1 →
      locs.map Loc.lane = mlanes th.exm ∧ (locs.map Loc.lane).Pairwise (· < ·)) ∧
    (∀ (rs : List Rmw) (vs : List Word) (s1 s2 : State), c.copy = .solo → th.relNext = none →
      s.plainLocs cid c (rs.map Rmw.loc) = true → (∀ r ∈ rs, r.loc.outside = false) →
      s.linesFit c (rs.map (fun r => r.loc.line)) = true → s1 = (rs.map Rmw.loc).foldl (fun u l => u.touched cid c l) s →
      rmwAll .core false 4 rs s1 = .ok vs s2 → s2.cur = s.cur →
      rmwLocs .core .rlx 4 false rs s = .ok (vs, {}) (s2.modThread (.frag cid t fn) (fun y => { y with relNext := none }))) ∧
    (∀ (sc : Scope) (past : Bool) (n : Nat) (r : Rmw) (rs : List Rmw) (v : Nat) (vs : List Word) (u u1 u2 : State),
      rmwLoc (inL1 sc r.loc) past n r.loc r.f u = .ok v u1 → rmwAll sc past n rs u1 = .ok vs u2 →
      rmwAll sc past n (r :: rs) u = .ok (BitVec.ofNat 64 v :: vs) u2)

/-- R224, R226: SATOM that passes its checks performs one operation on a doubleword and answers the old value, with the join of
the granule's label and the operation's. -/
def Obligations.UniformAtomics : Prop :=
  ∀ (la : Nat) (i64 : Bool) (scp : Scope) (o : Ord4) (op : AOp) (d a b : Nat) (ofs : BitVec 14) (s s2 s3 : State) (ag : Agent)
    (th : Thread) (locs : List Loc) (l r : Lbl) (tab : List (BitVec 64)) (vs : List Word) (e : Done) (x : Acc), s.Turn ag th →
    s.mayIssue ag th [.s a, .s b] [.s d] = true →
    x = { uni := true, size := 8, eas := [(0, eaUniform (s.readS ag a).val 0 ofs.toInt)]
          alab := [(s.readS ag a).lab] ++ s.claimLabs ag } →
    GrantedU .atomic x ([(s.readS ag b).lab] ++ x.alab ++ [th.pcl]) s locs l s2 → s2.Turn ag th →
    s2.joined ag (locs.map (fun y => s2.granLab y.line) ++ [l]) = some (r, tab) →
    rmwLocs scp o 8 true (locs.map (fun y => { loc := y, f := fun old => some (combine64 op i64 old (s.readS ag b).val)
                                               operand := (s.readS ag b).val.toNat, lab := (s.readS ag b).lab }))
      (s2.setLabels (s2.ctxOf ag) tab) = .ok (vs, e) s3 → s3.cur = some ag →
    exec (.satom la i64 scp o op d a b ofs) s = .next (s.finish ((s3.writeS ag d { val := vs.headD 0, lab := r }).opened ag [.s d]
      (some (la, classAt))) ag e)

/-! ### Synchronisation -/

/-- R230, R231: an acquire fence at .clus or wider drops the core's clean lines; a release fence marks the next relaxed
store, and at .clus or wider makes the crew's commit point; FENCE .ar, and every FENCEX, at .clus or wider also writes through what
the core holds committed. R235: CKPT makes the crew's commit point, and its commit record stands past it. That FENCE .ar and every
FENCEX, .acq included, make a commit point and write through what the core holds is the model's choice (log 37). -/
def Obligations.FencesAndCkpt : Prop :=
  (∀ (sc : Scope) (o : Ord4) (paths : BitVec 6) (s : State) (cid t fn : Nat) (c : Crew) (tm : Team) (th : Thread)
     (drop mark : State → State), s.AtFrag cid t fn c tm th → s.mayIssue (.frag cid t fn) th [] [] = true →
     (∀ u, drop u = if isAcq o then u.modL1 c.cl c.core (fun l => { l with clean := [] }) else u) →
     (∀ u, mark u = if isRel o then u.modThread (.frag cid t fn) (fun x => { x with relNext := some (widest x.relNext sc) }) else u) →
     (sc = .core → exec (.fence sc o) s = .next (s.finish (mark s) (.frag cid t fn) {}) ∧
       (paths ≠ 0 → exec (.fencex sc o paths) s = .next (s.finish (mark s) (.frag cid t fn) {}))) ∧
     (sc ≠ .core → isRel o = false → exec (.fence sc o) s = .next (s.finish (drop s) (.frag cid t fn) {})) ∧
     (sc ≠ .core → o = .rel → s.mayCommit cid c = true →
       exec (.fence sc o) s = .next (s.finish (mark (s.commitNow cid)) (.frag cid t fn) { past := true })) ∧
     (sc ≠ .core → s.mayRelease (.frag cid t fn) th →
       (o = .ar → exec (.fence sc o) s = .next (s.finish (mark (drop ((s.commitNow cid).wtCoreOf cid))) (.frag cid t fn)
         { past := true })) ∧
       (paths ≠ 0 → exec (.fencex sc o paths) s = .next (s.finish (mark (drop ((s.commitNow cid).wtCoreOf cid))) (.frag cid t fn)
         { past := true })))) ∧
  (∀ (s : State) (ag : Agent) (th : Thread) (cid : Nat) (c : Crew), s.Turn ag th → agentCid ag = some cid →
     kvFind s.crews cid = some c → s.mayIssue ag th [] [] = true → s.mayCommit cid c = true →
     exec .ckpt s = .next (s.finish (s.commitNow cid) ag { past := true }))

/-- R232, R233: BARA is one arrival and goes on; BARW and BARAW go on once the barrier's phase has flipped since their agent's last
arrival, and wait before; BARI sets the reload count, and the count where no agent has arrived. -/
def Obligations.NamedBarriers : Prop :=
  ∀ (n a : Nat) (s : State) (cid t fn : Nat) (c : Crew) (tm : Team) (th : Thread), s.AtFrag cid t fn c tm th →
    (s.mayIssue (.frag cid t fn) th [] [] = true →
      exec (.bara n) s = .next (s.finish (if th.exm = 0 then s else s.barArrived cid (s.teamsOf c) (.frag cid t fn) n)
        (.frag cid t fn) {}) ∧
      ((∀ k, th.park ≠ .passed k) →
        kvGet (c.body.bar (s.teamsOf c) n).ph (c.body.bar (s.teamsOf c) n).ap (2 * t) ≠ (c.body.bar (s.teamsOf c) n).ph →
        exec (.barw n) s = .next (s.finish s (.frag cid t fn) {})) ∧
      ((∀ k, th.park ≠ .passed k) →
        kvGet (c.body.bar (s.teamsOf c) n).ph (c.body.bar (s.teamsOf c) n).ap (2 * t) = (c.body.bar (s.teamsOf c) n).ph →
        exec (.barw n) s = .next (s.parkThread (.frag cid t fn) (.bar n))) ∧
      (∀ k, th.park = .passed k → exec (.barw n) s = .next (s.finish s (.frag cid t fn) {}) ∧
        exec (.baraw n) s = .next (s.finish s (.frag cid t fn) {})) ∧
      (th.exm = 0 → exec (.baraw n) s = .next (s.finish s (.frag cid t fn) {})) ∧
      (th.exm ≠ 0 → th.park = .run → (c.body.bar (s.teamsOf c) n).cnt ≤ 1 →
        exec (.baraw n) s = .next (s.finish (s.barArrived cid (s.teamsOf c) (.frag cid t fn) n) (.frag cid t fn) {})) ∧
      (th.exm ≠ 0 → th.park = .run → th.heldFree = true → 1 < (c.body.bar (s.teamsOf c) n).cnt →
        exec (.baraw n) s = .next ((s.barArrived cid (s.teamsOf c) (.frag cid t fn) n).parkThread (.frag cid t fn) (.bar n)))) ∧
    (s.mayIssue (.frag cid t fn) th [.s a] [] = true → ∀ r, r = (if (s.readS (.frag cid t fn) a).val.toNat % 4096 = 0 then 4096
        else (s.readS (.frag cid t fn) a).val.toNat % 4096) →
      exec (.bari n a) s = .next (s.finish (if th.exm = 0 then s else s.modCrew cid (fun c => c.modBody (fun b =>
        { b with bars := kvSet b.bars n { b.bar (s.teamsOf c) n with
          rld := r
          cnt := if (b.bar (s.teamsOf c) n).cnt = (b.bar (s.teamsOf c) n).rld then r else (b.bar (s.teamsOf c) n).cnt } })))
        (.frag cid t fn) {}))

/-- R160 to R163: one arrival at a barrier word lowers its count; the last one completes the phase, which flips and reloads
the count; an engine's first error enters ERR and FC and completes the phase. R161, R162: a barrier word is updated in place, in the
scratchpad, in memory as its crew reads it, or, on an MS page, outside the core's scope and for a supervisor core, at its home: its four
bytes take the new value, and no other byte changes. The statement is about words whose core has nothing to write through and room in
its L1, since what it gives up is the model's choice (log 61). -/
def Obligations.BarrierWordUpdates : Prop :=
  (∀ (err ph : Bool) (fc rld cnt : Nat), fc < 64 → rld < 4096 → cnt < 4096 →
     (1 < cnt → bwArrive none (bwMake err ph fc rld cnt) = bwMake err ph fc rld (cnt - 1)) ∧
     (cnt ≤ 1 → bwArrive none (bwMake err ph fc rld cnt) = bwMake err (!ph) fc rld rld) ∧
     (∀ code, code < 64 → bwArrive (some code) (bwMake err ph fc rld cnt) =
       bwMake true (!ph) (if err then fc else code) rld rld) ∧
     bwErr (bwMake err ph fc rld cnt) = err ∧ bwPh (bwMake err ph fc rld cnt) = ph ∧ bwFc (bwMake err ph fc rld cnt) = fc) ∧
  (∀ (k : AccKind) (sc : Scope) (o : Ord4) (x : Acc) (term : Word) (f : Nat → Nat) (off : Nat) (s : State) (ag : Agent) (th : Thread)
     (cid : Nat) (c : Crew), s.Turn ag th → agentCid ag = some cid → kvFind s.crews cid = some c → s.padFit c [padLine off] = true →
     off % 4 = 0 → s.l1Has c 1 = true → (∀ ls, s.noticesFit ls = true) →
     (∀ g, kvFind c.body.pad.filled (padLine off) = some g → c.body.pad.hits g = [padLine off]) →
     ∃ u c', updateWord k sc o x term f (.pad off) s = .ok {} u ∧ kvFind u.crews cid = some c' ∧ u.hbm = s.hbm ∧
       (∀ k, k < 4 → kvGet 0 c'.body.pad.bytes (off + k) = BitVec.ofNat 8 (f (c.body.pad.nat off 4) / 256 ^ k)) ∧
       (∀ p, p < off ∨ off + 4 ≤ p → kvGet 0 c'.body.pad.bytes p = kvGet 0 c.body.pad.bytes p)) ∧
  (∀ (k : AccKind) (o : Ord4) (x : Acc) (term : Word) (f : Nat → Nat) (l : Loc) (s : State) (cid t fn : Nat) (c : Crew) (tm : Team)
     (th : Thread), s.AtFrag cid t fn c tm th → c.copy = .solo → th.relNext = none → s.plainLoc cid c l = true → l.outside = false →
     l.pa % 4 = 0 → s.linesFit c [l.line] = true → s.noticesFit [l.line] = true → (kvKeys c.body.pad.filled).Nodup →
     s.l1Has c (1 + (c.body.pad.hits l.line).length) = true →
     ∃ u c', updateWord k .core o x term f (.mem l) s = .ok {} u ∧ kvFind u.crews cid = some c' ∧
       (∀ j, j < 4 → u.coreByte c' false (l.pa + j) = BitVec.ofNat 8 (f (s.coreNat c false l.pa 4) / 256 ^ j)) ∧
       (∀ p, p < l.pa ∨ l.pa + 4 ≤ p → u.coreByte c' false p = s.coreByte c false p) ∧ (∀ p, u.homeByte p = s.homeByte p)) ∧
  (∀ (k : AccKind) (sc : Scope) (o : Ord4) (x : Acc) (term : Word) (f : Nat → Nat) (l : Loc) (s s0 s1 : State) (ag : Agent)
     (th : Thread) (cid : Nat) (c c1 : Crew), s.Turn ag th → agentCid ag = some cid → kvFind s.crews cid = some c →
     (l.ms = true ∨ s.plainLoc cid c l = true ∧ (l.outside = true ∨ coreScope ag sc = false)) →
     s0 = (if l.ms then s else s.touched cid c l) → s0.mayRelease ag th → s1 = s0.commitNow cid →
     s1.cur = some ag → kvFind s1.crews cid = some c1 → c1.cl = c.cl → c1.core = c.core →
     s.storable l.line = true → s1.storable l.line = true → s1.bad l.line = false → s1.refused l.line = false →
     (s1.l1 c.cl c.core).poison.contains l.line = false → s1.l1Lines c.cl c.core = [] → (∀ j, s1.stashHolders [] j = []) →
     ∃ e u, updateWord k sc o x term f (.mem l) s = .ok e u ∧ e.past = true ∧ ∀ a, u.homeByte a =
       if l.pa ≤ a ∧ a < l.pa + 4 then BitVec.ofNat 8 (f (s1.homeNat l.pa 4) / 256 ^ (a - l.pa)) else s1.homeByte a) ∧
  (∀ (k : AccKind) (sc : Scope) (o : Ord4) (x : Acc) (term : Word) (f : Nat → Nat) (l : Loc) (s : State) (n : Nat) (th : Thread),
     s.Turn (.sup n) th → s.storable l.line = true → s.bad l.line = false → s.refused l.line = false →
     (∀ j, s.stashHolders [] j = []) →
     ∃ e u, updateWord k sc o x term f (.mem l) s = .ok e u ∧ ∀ a, u.homeByte a =
       if l.pa ≤ a ∧ a < l.pa + 4 then BitVec.ofNat 8 (f (s.homeNat l.pa 4) / 256 ^ (a - l.pa)) else s.homeByte a)

/-- R56, R161 to R163: WBARA arrives at a barrier word in the crew's scratchpad or in memory, WBARI stores the low half of a
register there, and a fragment with no active lane does neither; WBARW answers ERR and FC once the word's phase differs from its
own, and waits before. -/
def Obligations.BarrierWords : Prop :=
  ∀ (scp : Scope) (p : Bool) (d a b : Nat) (ofs : BitVec 18) (s s2 : State) (ag : Agent) (th : Thread) (w : WordAt) (l : Lbl)
    (tab : List (BitVec 64)), s.Turn ag th →
    (s.mayIssue ag th [.s a, .s b] [] = true → ¬ Acts ag th → exec (.wbara scp a b ofs) s = .next (s.finish s ag {})) ∧
    (s.mayIssue ag th [.s a, .s b, .s d] [] = true → ¬ Acts ag th →
      exec (.wbari scp d a b ofs) s = .next (s.finish s ag {})) ∧
    (∀ e s3, Acts ag th → s.mayIssue ag th [.s a, .s b] [] = true →
      checkWord .atomic (s.uniAccess ag 4 a b ofs.toInt) (some (joinAll ((s.uniAccess ag 4 a b ofs.toInt).alab ++ [th.pcl]))) s =
        .ok w s2 →
      updateWord .atomic scp .rel (s.uniAccess ag 4 a b ofs.toInt) 0 (bwArrive none) w s2 = .ok e s3 →
      exec (.wbara scp a b ofs) s = .next (s.finish s3 ag e)) ∧
    (∀ e s3, Acts ag th → s.mayIssue ag th [.s a, .s b, .s d] [] = true →
      checkWord .store (s.uniAccess ag 4 a b ofs.toInt)
        (some (joinAll ([(s.readS ag d).lab] ++ (s.uniAccess ag 4 a b ofs.toInt).alab ++ [th.pcl]))) s = .ok w s2 →
      updateWord .store scp .rlx (s.uniAccess ag 4 a b ofs.toInt) (BitVec.ofNat 64 ((s.readS ag d).val.toNat % 2 ^ 32))
        (fun _ => (s.readS ag d).val.toNat % 2 ^ 32) w s2 = .ok e s3 →
      exec (.wbari scp d a b ofs) s = .next (s.finish s3 ag e)) ∧
    (∀ (cid : Nat) (c : Crew) (off : Nat), agentCid ag = some cid → kvFind s.crews cid = some c →
      s.mayIssue ag th [.s a, .s b] [.s d] = true →
      checkWord .load (s.uniAccess ag 4 a b ofs.toInt) none s = .ok (.pad off) s →
      s.joined ag [c.body.pad.lab (padLine off), th.pcl] = some (l, tab) →
      (bwPh (c.body.pad.nat off 4) ≠ p →
        exec (.wbarw scp p d a b ofs) s = .next (s.finish ((s.setLabels (s.ctxOf ag) tab).writeS ag d
          { val := BitVec.ofNat 64 ((if bwErr (c.body.pad.nat off 4) then 64 else 0) + bwFc (c.body.pad.nat off 4)), lab := l })
          ag {})) ∧
      (bwPh (c.body.pad.nat off 4) = p → th.heldFree = true →
        exec (.wbarw scp p d a b ofs) s =
          .next ((s.setLabels (s.ctxOf ag) tab).parkThread ag (keepPair th.park .word)))) ∧
    (∀ (x : Loc) (v : Nat) (s3 s4 s5 : State) (out : List Bool), s.mayIssue ag th [.s a, .s b] [.s d] = true →
      checkWord .load (s.uniAccess ag 4 a b ofs.toInt) none s = .ok (.mem x) s2 → s2.Turn ag th →
      s2.joined ag [s2.granLab x.line, th.pcl] = some (l, tab) → s3 = s2.setLabels (s2.ctxOf ag) tab →
      (∀ cid, agentCid ag = some cid → ∃ c, kvFind s2.crews cid = some c ∧ c.copy = .solo) →
      fromOutside 4 [x] s3 = .ok out s3 → loadLoc scp .acq 4 x s3 = .ok v s4 → v < 2 ^ 32 →
      (bwPh v ≠ p → recordHere 2 ((([BitVec.ofNat 64 v].zip out).filter Prod.snd).map Prod.fst) s4 = .ok ⟨⟩ s5 → s5.cur = some ag →
        (∀ cid, agentCid ag = some cid → ∃ c, kvFind s5.crews cid = some c ∧ c.copy = .solo) →
        exec (.wbarw scp p d a b ofs) s = .next (s.finish (s5.writeS ag d
          { val := BitVec.ofNat 64 ((if bwErr v then 64 else 0) + bwFc v), lab := l }) ag {})) ∧
      (bwPh v = p → th.heldFree = true →
        exec (.wbarw scp p d a b ofs) s = .next (s4.parkThread ag (keepPair (s4.parkOf ag) .word))))

/-- R236 to R239: the claim instructions of a reserving cast: CLM posts every active lane's claim in the item's signature, CLMSEAL
makes a commit point and waits for admission, CLMDONE makes one, releases at .dev and ends the team's part of the item, and CLMQ
reads the item's wave. -/
def Obligations.ClaimInstructions : Prop :=
  ∀ (s : State) (cid t fn : Nat) (c : Crew) (tm : Team) (th : Thread), s.AtFrag cid t fn c tm th → c.copy = .solo →
    (∀ sc a idx ofs, tm.phase = .claim → s.mayIssue (.frag cid t fn) th ([.s a] ++ idxName idx) [] = true →
      (th.exm = 0 → exec (.clm sc a idx ofs) s = .next (s.finish s (.frag cid t fn) {})) ∧
      (∀ (x : Acc × (Nat → List Lbl)) (ls : List (Nat × Lbl)) (s1 : State) (l : Lbl) (tab : List (BitVec 64)), th.exm ≠ 0 →
        x = s.laneAccess (.frag cid t fn) tm th 4 a idx sc ofs.toInt →
        (∀ e ∈ x.1.eas, canonical e.2 = true ∧ crosses e.2 4 = false) → c.body.claims + x.1.eas.length ≤ 64 →
        groupLabels (mgroups th.exm) x.2 s = .ok ls s1 → s1.AtFrag cid t fn c tm th →
        s1.joined (.frag cid t fn) ([c.body.clab] ++ x.1.alab) = some (l, tab) →
        exec (.clm sc a idx ofs) s = .next (s.finish ((s1.setLabels c.vf tab).modCrew cid (fun c => c.modBody (fun b => { b with
          sig := x.1.eas.foldl (fun m e => m ||| claimBits (e.2.toNat / 16)) b.sig
          claims := b.claims + x.1.eas.length, clab := l }))) (.frag cid t fn) {}))) ∧
    (tm.phase = .claim → tm.frags.length = 1 → th.park ≠ .admission → s.mayIssue (.frag cid t fn) th [] [] = true →
      th.pend = [] → s.mayCommit cid c = true → ∀ f : Body → Body,
      (∀ b, f b = b.modTeam t (fun tm => { tm with
        phase := .sealed, frags := kvModify tm.frags fn (fun th => { th with park := .admission, pend := [] }) })) →
      exec .clmseal s = .next ((((s.commitNow cid).modCrew cid (fun c => { c with
          body := f c.body, saved := f c.saved, closed := c.closed.map (fun w => { w with body := f w.body }) })).sealItem cid).parkThread (.frag cid t fn) .admission)) ∧
    (tm.phase = .commit → tm.frags.length = 1 → s.mayIssue (.frag cid t fn) th [] [] = true → s.mayRelease (.frag cid t fn) th →
      exec .clmdone s = .next (s.finish (((((s.commitNow cid).wtCoreOf cid).modTeam cid t (fun x => { x with phase := .done })).finishItem
        cid)) (.frag cid t fn) { past := true })) ∧
    (∀ la d l tab k, tm.phase ≠ .none → s.mayIssue (.frag cid t fn) th [] [.s d] = true →
      s.joined (.frag cid t fn) [th.pcl, c.body.clab] = some (l, tab) →
      (s.setLabels c.vf tab).cast? c.vf c.key = some k →
      exec (.clmq la d) s = .next (s.finish (((s.setLabels c.vf tab).writeS (.frag cid t fn) d
        { val := BitVec.ofNat 64 (k.waves % 2 ^ 32 + (kvGet ({} : Item) k.items c.index).wave % 2 ^ 32 * 2 ^ 32), lab := l }).opened
        (.frag cid t fn) [.s d] (some (la, 6))) (.frag cid t fn) {}))

/-! ### Labels -/

/-- R118: LGET answers the join of a register's labels as a number, and LCHK whether a label dominates it; both with the PC
label. R119: LRAISE raises the labels of the granules of a range, behind the crew's commit point; a range of no bytes does
nothing. R59, R122: LSPAN arms a span for the fragment's next conditional branch, where the PC label dominates its register's
label, and else raises missing write span (0x0D). -/
def Obligations.LabelInstructions : Prop :=
  (∀ (d a b : Nat) (s : State) (cid t fn : Nat) (c : Crew) (tm : Team) (th : Thread) (l : Lbl) (tab : List (BitVec 64)),
     s.AtFrag cid t fn c tm th →
     (s.mayIssue (.frag cid t fn) th [.v a] [.s d] = true →
       s.joined (.frag cid t fn) ((mgroups th.exm).map (fun g => tm.vlab a g)) = some (l, tab) →
       exec (.lget d a) s = .next (s.finish ((s.setLabels c.vf tab).writeS (.frag cid t fn) d
         { val := BitVec.ofNat 64 l, lab := th.pcl }) (.frag cid t fn) {})) ∧
     (s.mayIssue (.frag cid t fn) th [.v a, .s b] [.s d] = true →
       s.joined (.frag cid t fn) [(s.readS (.frag cid t fn) b).lab, th.pcl] = some (l, tab) →
       exec (.lchk d a b) s = .next (s.finish ((s.setLabels c.vf tab).writeS (.frag cid t fn) d
         { val := if (s.readS (.frag cid t fn) b).val.toNat < 256 ∧
                     (s.readS (.frag cid t fn) b).val.toNat < (s.ctx c.vf).labels.length ∧
                     (∀ x, x ∈ (mgroups th.exm).map (fun g => tm.vlab a g) ++ [th.pcl] →
                       (s.ctx c.vf).dominates (s.readS (.frag cid t fn) b).val.toNat x = true) then 1 else 0
           lab := l }) (.frag cid t fn) {}))) ∧
  (∀ (d a b : Nat) (ofs : BitVec 18) (s : State) (ag : Agent) (th : Thread) (x n : Nat), s.Turn ag th →
     s.mayIssue ag th [.s a, .s b, .s d] [] = true → ((s.readS ag a).val.toNat : Int) + ofs.toInt = x → x % 128 = 0 →
     n = (s.readS ag b).val.toNat → n % 128 = 0 →
     (n = 0 → exec (.lraise d a b ofs) s = .next (s.finish s ag {})) ∧
     (∀ (cid : Nat) (c : Crew) (locs : List Loc) (s1 s2 : State) (k : Lbl) (tab : List (BitVec 64)) (y : Acc), n ≠ 0 →
       agentCid ag = some cid → kvFind s.crews cid = some c →
       y = { uni := true, size := 128, eas := granules x n, alab := [(s.readS ag a).lab] } →
       checkAcc .store y s = .ok locs s1 →
       checkClaims y (locs.flatMap (fun l => (List.range 8).map (fun k => (l.lane, l.va + 16 * k)))) s1 = .ok ⟨⟩ s1 →
       (∀ l ∈ locs, s1.storable l.line = true) →
       s1.joined ag [(s.readS ag a).lab, (s.readS ag b).lab, (s.readS ag d).lab, th.pcl] = some (k, tab) →
       s2 = s1.setLabels (s1.ctxOf ag) tab →
       (s.readS ag d).val.toNat ≤ 255 → (s.readS ag d).val.toNat < (s2.ctx c.vf).labels.length →
       (s2.ctx c.vf).dominates (s.readS ag d).val.toNat k = true →
       (∀ l ∈ locs, (s2.ctx c.vf).dominates (s.readS ag d).val.toNat (s2.granLab l.line) = true) →
       s2.mayCommit cid c = true →
       exec (.lraise d a b ofs) s =
         .next (s.finish (setLabels (s.readS ag d).val.toNat locs (s2.commitNow cid)) ag { past := true }))) ∧
  (∀ (d n a : Nat) (s : State) (cid t fn : Nat) (c : Crew) (tm : Team) (th : Thread), s.AtFrag cid t fn c tm th →
     (List.range n).all (fun k => s.hasName (.frag cid t fn) (.v (d + k))) = true →
     s.mayIssue (.frag cid t fn) th [.s a] [] = true →
     ((s.ctx c.vf).dominates th.pcl (s.readS (.frag cid t fn) a).lab = true →
       exec (.lspan d n a) s = .next (s.finish (s.modThread (.frag cid t fn) (fun x => { x with
         armed := some { vlo := d, vn := n, smask := (s.readS (.frag cid t fn) a).val } })) (.frag cid t fn) {})) ∧
     ((s.ctx c.vf).dominates th.pcl (s.readS (.frag cid t fn) a).lab = false →
       exec (.lspan d n a) s = .next (s.takeTrap (.frag cid t fn) { code := 0x0D, lanes := th.exm })))

/-- R64 to R66: ENDORSE adds its count for every owner of its authority, behind the crew's commit point; with no authority, or
under a PC label beyond it, it raises endorse-without-authority (0x0F). DECL lowers a label and takes a count of every owner that it
removes; with a count missing it raises declassification denied (0x0E). That ENDORSE finishes in its own step, its commit record
included, is the model's choice (logs 54 and 64), and so is the 0 that .info names for an owner under sub-codes 1 and 2 (log 79). -/
def Obligations.Declassification : Prop :=
  ∀ (s : State) (cid t fn : Nat) (c : Crew) (tm : Team) (th : Thread), s.AtFrag cid t fn c tm th → c.copy = .solo →
    (∀ site count, s.mayIssue (.frag cid t fn) th [] [] = true →
      (th.exm = 0 → exec (.endorse site count) s = .next (s.finish s (.frag cid t fn) {})) ∧
      (th.exm ≠ 0 → (tm.auth = 0 ∨ (s.ctx c.vf).owners th.pcl &&& ~~~tm.auth ≠ 0) →
        exec (.endorse site count) s = .next (s.takeTrap (.frag cid t fn) { code := 0x0F, lanes := th.exm })) ∧
      (∀ tabl, th.exm ≠ 0 → tm.auth ≠ 0 → (s.ctx c.vf).owners th.pcl &&& ~~~tm.auth = 0 → s.mayCommit cid c = true →
        addCounts site.toNat count.toNat (bitsOf tm.auth) (s.ctx c.vf).endorse = some tabl →
        ((s.commitNow cid).ctx c.vf).endorse = (s.ctx c.vf).endorse → (s.commitNow cid).cur = s.cur →
        exec (.endorse site count) s = .next (s.finish ((s.commitNow cid).modCtx c.vf (fun x => { x with endorse := tabl }))
          (.frag cid t fn) { past := true }))) ∧
    (∀ d a site (target : BitVec 8), s.hasName (.frag cid t fn) (.v d) = true →
      s.mayIssue (.frag cid t fn) th [.v a] (if th.exm = 0 then [] else [.v d]) = true →
      ((s.ctx c.vf).labels.length ≤ target.toNat →
        exec (.decl d a site target) s = .next (s.takeTrap (.frag cid t fn)
          { code := 0x0E, sub := 1, lanes := th.exm, info := some (declInfo site 0) })) ∧
      (target.toNat < (s.ctx c.vf).labels.length → (s.ctx c.vf).dominates target.toNat th.pcl = false →
        exec (.decl d a site target) s = .next (s.takeTrap (.frag cid t fn)
          { code := 0x0E, sub := 2, lanes := th.exm, info := some (declInfo site 0) })) ∧
      (target.toNat < (s.ctx c.vf).labels.length → (s.ctx c.vf).dominates target.toNat th.pcl = true →
        (th.exm = 0 → exec (.decl d a site target) s = .next (s.finish s (.frag cid t fn) {})) ∧
        (∀ (src : Lbl) (tab : List (BitVec 64)) (gone : List Nat) (s1 : State), th.exm ≠ 0 →
          s.joined (.frag cid t fn) ((mgroups th.exm).map (fun g => tm.vlab a g) ++ [th.pcl]) = some (src, tab) →
          s1 = s.setLabels c.vf tab →
          gone = bitsOf ((s1.ctx c.vf).owners src &&& ~~~((s1.ctx c.vf).owners target.toNat)) →
          (∀ s3, gone = [] → writeV d (fun _ => [target.toNat]) (tm.lane a) s1 = .ok ⟨⟩ s3 →
            exec (.decl d a site target) s = .next (s.finish s3 (.frag cid t fn) {})) ∧
          (∀ (s2 : State) (c2 : Crew) (tm2 : Team), gone ≠ [] → logWords ((mgroups th.exm).map (vkey d)) s1 = .ok ⟨⟩ s2 →
            s2.AtFrag cid t fn c2 tm2 th → c2.copy = .solo → c2.vf = c.vf →
            (∀ k, gone.find? (fun k => endorseCount (s2.ctx c.vf).endorse site.toNat k == 0) = some k → k < 64 →
              exec (.decl d a site target) s = .next (s2.takeTrap (.frag cid t fn)
                { code := 0x0E, lanes := th.exm, info := some (declInfo site k) })) ∧
            ((∀ k ∈ gone, endorseCount (s2.ctx c.vf).endorse site.toNat k ≠ 0) → ∀ s3,
              (declLabels tm th d target.toNat s2 = .ok 65 s3 →
                exec (.decl d a site target) s = .next ((s.restoreLabels s3 (.frag cid t fn)).takeTrap (.frag cid t fn)
                  { code := 0x10, lanes := th.exm })) ∧
              (∀ s4, declLabels tm th d target.toNat s2 = .ok 0 s3 → s3.mayCommit cid c2 = true →
                ((s3.commitNow cid).ctx c.vf).endorse = (s3.ctx c.vf).endorse →
                writeV d (fun _ => [target.toNat]) (tm.lane a) ((s3.commitNow cid).modCtx c.vf (fun x => { x with
                  endorse := gone.foldl (fun e k => takeCount e site.toNat k) (s3.ctx c.vf).endorse })) = .ok ⟨⟩ s4 →
                exec (.decl d a site target) s = .next (s.finish s4 (.frag cid t fn) { past := true })))))))

/-! ### Register scopes -/

/-- R35, R36, R114, R115: SCOPEO opens registers out of the team's reserve and of granted words, SCOPEC closes the innermost scope,
RGROW adds granted words to the reserve and RSHRINK gives some back; a team of several fragments may not execute one. What a reopened
word holds is a free value (log 6); that a request waits behind an older one (log 65), takes its words at its grant (log 23) and waits
while a load is held (log 27) is the model's choice. -/
def Obligations.ScopeInstructions : Prop :=
  ∀ (s : State) (cid t fn : Nat) (c : Crew) (tm : Team) (th : Thread), s.AtFrag cid t fn c tm th →
    (∀ i n base, tm.frags.length ≠ 1 → (i = .scopeo n base ∨ i = .scopec ∨ i = .rgrow n ∨ i = .rshrink n) →
      exec i s = .next (s.takeTrap (.frag cid t fn) { code := 0x01, sub := 9, lanes := th.exm })) ∧
    (tm.frags.length = 1 → s.mayIssue (.frag cid t fn) th [] [] = true → th.openSpan = none →
      (∀ n base, n ≠ 0 → base + n ≤ 256 → tm.scopes.length < 8 → (∀ e ∈ tm.scopes, meets base n e.1 e.2 = false) →
        (n * tm.groups ≤ tm.reserve ∨ th.heldFree = true ∧ s.grantable cid t (n * tm.groups - tm.reserve) = true) →
        (¬ n * tm.groups ≤ tm.reserve → (s.giveWords cid t (n * tm.groups - tm.reserve)).cur = s.cur) →
        ∃ u, (n * tm.groups ≤ tm.reserve → u = s) ∧
          (¬ n * tm.groups ≤ tm.reserve → u = s.giveWords cid t (n * tm.groups - tm.reserve)) ∧
          exec (.scopeo n base) s = .next (s.finish (u.modTeam cid t (fun x => { x with
            reserve := x.reserve - n * tm.groups, scopes := (base, n) :: x.scopes
            v := reopened u.tick x (scopeKeys x base n)
            old := (scopeKeys x base n).foldl kvDel x.old })) (.frag cid t fn) {})) ∧
      (∀ base n rest, tm.scopes = (base, n) :: rest → rest ≠ [] →
        exec .scopec s = .next (s.finish ((s.modTeam cid t (fun x => { x with
          scopes := rest, v := (scopeKeys tm base n).foldl kvDel x.v
          old := (scopeKeys tm base n).foldl (fun o k => kvPut {} o k (kvGet {} x.v k)) x.old })).modCrew cid (fun c =>
          { c with held := kvPut 0 c.held t (kvGet 0 c.held t + n * tm.groups) })) (.frag cid t fn) {})) ∧
      (∀ n, n ≠ 0 → th.park ≠ .granted → th.heldFree = true → s.grantable cid t n = true →
        exec (.rgrow n) s = .next (s.finish (s.giveWords cid t n) (.frag cid t fn) {})) ∧
      (∀ n, n ≠ 0 → th.park ≠ .granted → th.heldFree = true → s.grantable cid t n = false →
        exec (.rgrow n) s = .next ((s.askHeld c.cl c.core).parkThread (.frag cid t fn)
          (keepPair ((s.askHeld c.cl c.core).parkOf (.frag cid t fn)) (.grow n)))) ∧
      (∀ n, th.park = .granted → exec (.rgrow n) s = .next (s.finish s (.frag cid t fn) {})) ∧
      (∀ n, n ≤ tm.reserve →
        exec (.rshrink n) s = .next (s.finish ((s.modTeam cid t (fun x => { x with reserve := x.reserve - n })).modCrew cid
          (fun c => { c with held := kvPut 0 c.held t (kvGet 0 c.held t + n) })) (.frag cid t fn) {})))

/-! ### Encoding, and the step -/

/-- R77 to R84: what the encoder writes for a well-formed instruction the decoder reads back, with every field at every value
that the encoding admits, from its word and from the bytes of its word. -/
def Obligations.EncodeDecode : Prop :=
  ∀ (i : Instr) (w : Word), wf i = true → encode i = some w →
    decode (homeClass i) w = .ok i ∧
    ∀ bs, decodeBytes (homeClass i) (leBytes 8 w.toNat ++ bs) = some (.ok (i, bs))

/-- R83, R84: a word that the decoder reads in some class is the word of one well-formed instruction, every bit of it: reserved
encodings are refused, and no bit is dropped. -/
def Obligations.DecodeExact : Prop :=
  ∀ (e : Eng) (w : Word) (i : Instr), decode e w = .ok i → wf i = true ∧ encode i = some w

/-- Words of the spec's own tables decode to the instructions that they stand for, and words that it refuses raise their
sub-codes. -/
def Obligations.DecodedWords : Prop :=
  decode .team 0x1100006000000001 = .ok (.smovi 24 1) ∧
  decode .team 0x1F05006844600000 = .ok (.scmp true .eq 26 17 24) ∧
  decode .team 0x02010068002E0000 = .ok (.brc .nz 26 23 0) ∧
  decode .supervisor 0xD6000000A0000000 = .ok (.pgmap 40) ∧
  decode .supervisor 0xD3000800FC000000 = .ok (.tlbinvAll 63) ∧
  decode .team 0x3000000CFC640000 = .ok (.mset 3 63 25) ∧
  decode .team 0xD000005000000007 = .error .badField ∧
  decode .supervisor 0xD3000C0060000000 = .error .badModifier

/-- R71, R75, R84: the agent that has the turn executes the instruction to which the word at its place in its clause decodes, and an
illegal one takes the illegal-instruction exception with its sub-code; an event of the agenda is taken before any instruction; then a
cycle count passes, and, where no cast waits for a word, no memory or cluster changes with it, and of the crews only when a fragment
became ready. That a step takes one agent or one event is the form of the model
(log 1). -/
def Obligations.StepRunsDecoded : Prop :=
  (∀ (s s1 : State) (ag : Agent) (th : Thread), (s.agenda = [] ∨ ∃ r, s.agenda = none :: r) → s.Turn ag th → th.clause ≠ [] →
    s.mayGo ag th = true → s1 = { s with agenda := s.agenda.tail } →
    (∀ i, decode th.eng (hereWord th) = .ok i →
      (∀ t, exec i s1 = .next t → step s = .next (s.after t)) ∧
      (∀ f, exec i s1 = .fault f → step s = .fault f) ∧ (∀ r, exec i s1 = .refused r → step s = .refused r)) ∧
    (∀ e, decode th.eng (hereWord th) = .error e →
      step s = .next (s.after (s1.takeTrap ag
        { code := 0x01, sub := if 4 ≤ illegalCode e ∧ s1.lacks ag (hereWord th) = true then 3 else illegalCode e
          lanes := th.exm })))) ∧
  (∀ (s : State) (i : Instr) (rest : List (Option Instr)), s.agenda = some i :: rest → encode i = none →
    (∀ t, exec i { s with agenda := rest } = .next t → step s = .next (s.after t)) ∧
    (∀ f, exec i { s with agenda := rest } = .fault f → step s = .fault f) ∧
    (∀ r, exec i { s with agenda := rest } = .refused r → step s = .refused r)) ∧
  (∀ s t : State, (∀ x ∈ (s.noteAllLabels t).ctxs, ∀ k ∈ x.2.casts, k.2.st ≠ .waiting) →
    (s.after t).crews.map (fun e => (e.1, e.2.timeless)) = t.crews.map (fun e => (e.1, e.2.timeless)) ∧ (s.after t).hbm = t.hbm ∧ (s.after t).gran = t.gran ∧
    (s.after t).clusters = t.clusters ∧ (s.after t).sups = t.sups ∧ (s.after t).cur = t.cur ∧ (s.after t).agenda = t.agenda ∧
    t.cyc ≤ (s.after t).cyc)

/-! ### Reset and the invariant -/

/-- R350, R351, R359: after reset %cyc is 0, every context register has its value of the tables, %ckpt that of R336, and the
supervisor cores' registers are zero and public. No crew, cast or translation is there, every label table holds the public label
alone, and no partition entry is in use. Memory reads zero where nothing has written it: that is the model's choice (log 3), and
so are the values of registers whose reset the spec does not give. -/
def Obligations.ResetValues : Prop :=
  State.reset.cyc = 0 ∧ State.reset.crews = [] ∧ State.reset.clusters = [] ∧ State.reset.parts = [] ∧
  (∀ vf, ctxReg (State.reset.ctx vf) 0x010 = 0 ∧ ctxReg (State.reset.ctx vf) 0x011 = 65536 ∧
    ctxReg (State.reset.ctx vf) 0x012 = 0 ∧ ctxReg (State.reset.ctx vf) 0x013 = 0 ∧ ctxReg (State.reset.ctx vf) 0x014 = 0 ∧
    ctxReg (State.reset.ctx vf) 0x015 = 0 ∧ ctxReg (State.reset.ctx vf) 0x016 = 4 ∧ ctxReg (State.reset.ctx vf) 0x017 = 0 ∧
    ctxReg (State.reset.ctx vf) 0x018 = 0 ∧ ctxReg (State.reset.ctx vf) 0x020 = 0 ∧ (State.reset.ctx vf).labels = [0] ∧
    (State.reset.ctx vf).casts = [] ∧ (State.reset.ctx vf).endorse = []) ∧
  (∀ k n, State.reset.readS (.sup k) n = {} ∧ (State.reset.sup k).ctxsel = 0 ∧ (State.reset.sup k).mcsel = 0 ∧
    (State.reset.sup k).th.priv = .devSup) ∧
  (∀ a, State.reset.homeByte a = 0 ∧ State.reset.granLab (a / 128) = 0)

/-- The memory of the state after reset is in its canonical form. -/
def Obligations.ResetInvariant : Prop := State.reset.Inv

/-- Every step keeps memory in its canonical form: addresses rise strictly, and no listed byte is the one that an unlisted address
reads as. That an unlisted byte reads zero is the model's choice (log 3). -/
def Obligations.MemoryCanonical : Prop := ∀ s s' : State, s.Inv → step s = .next s' → s'.Inv

/-! ### Engines -/

/-- R245, R288, R289: FORK takes its tiles, each zero, public and not poisoned, and a context for each entry that is not zero, with
the team's registers below s32, PC label, keys, clearance and authority; it waits while they are not free, and is illegal under a
grant. An arrival at the rendezvous is noted once; RDV goes on once the team and every stream have arrived, waits before, and is
nothing for an agent that takes no part. -/
def Obligations.GrantInstructions : Prop :=
  (∀ (a b n : Nat) (s : State) (cid t fn : Nat) (c : Crew) (tm : Team) (th : Thread) (va vb : Word) (k : Nat),
    s.AtFrag cid t fn c tm th → s.mayIssue (.frag cid t fn) th [.s a, .s b, .s n] [] = true →
    va = (s.readS (.frag cid t fn) a).val → vb = (s.readS (.frag cid t fn) b).val →
    k = (s.readS (.frag cid t fn) n).val.toNat →
    ((th.park = .granted ∨ th.exm = 0 ∧ c.body.grant = none ∧ 1 ≤ k ∧ k ≤ 8 ∧ tm.frags.length = 1) →
      exec (.fork a b n) s = .next (s.finish s (.frag cid t fn) {})) ∧
    (th.park ≠ .granted → c.body.grant ≠ none →
      exec (.fork a b n) s = .next (s.takeTrap (.frag cid t fn) { code := 0x01, sub := 3, lanes := th.exm })) ∧
    (th.park ≠ .granted → th.exm ≠ 0 → c.body.grant = none → 1 ≤ k → k ≤ 8 → tm.frags.length = 1 → StreamEntry va →
      StreamEntry vb → th.heldFree = true →
      (s.forkFits c.cl k va vb = false → exec (.fork a b n) s = .next (s.parkThread (.frag cid t fn) .fork)) ∧
      (s.forkFits c.cl k va vb = true → ∃ x, exec (.fork a b n) s =
          .next (s.finish (s.setCrew cid { c with body := x }) (.frag cid t fn) {}) ∧
        x.grant = some { team := t, tiles := List.replicate k {}
                         mseq := if va = 0 then none else some c.body.nextSeq
                         cseq := if vb = 0 then none else some (c.body.nextSeq + if va = 0 then 0 else 1) } ∧
        (va ≠ 0 → ∃ q, kvFind x.seqs c.body.nextSeq = some q ∧ q.kind = .matrix ∧ q.th.pc = va.toNat ∧ q.th.pcl = th.pcl ∧
          q.pkr = tm.pkr ∧ q.clear = tm.clear ∧ q.auth = tm.auth ∧ q.s = tm.s.filter (fun e => decide (e.1 < 32))) ∧
        (vb ≠ 0 → ∃ q, kvFind x.seqs (c.body.nextSeq + if va = 0 then 0 else 1) = some q ∧ q.kind = .copy ∧
          q.th.pc = vb.toNat ∧ q.th.pcl = th.pcl ∧ q.pkr = tm.pkr ∧ q.clear = tm.clear ∧ q.auth = tm.auth ∧
          q.s = tm.s.filter (fun e => decide (e.1 < 32))) ∧
        (∀ y, y < c.body.nextSeq → kvFind x.seqs y = kvFind c.body.seqs y) ∧ x.teams = c.body.teams ∧ x.pad = c.body.pad))) ∧
  (∀ (s u : State) (cid t fn : Nat) (c : Crew) (tm : Team) (th : Thread), s.AtFrag cid t fn c tm th → tm.frags.length = 1 →
    s.mayIssue (.frag cid t fn) th [] [] = true → u = s.setCrew cid { c with body := c.body.arriveRdv (.frag cid t fn) } →
    ((∀ g, c.body.grant = some g → g.team ≠ t) → exec .rdv s = .next (s.finish s (.frag cid t fn) {})) ∧
    (∀ g g', c.body.grant = some g → g.team = t → (c.body.arriveRdv (.frag cid t fn)).grant = some g' →
      (g'.met = true → exec .rdv s = .next (s.finish (u.endGrant cid) (.frag cid t fn) {})) ∧
      (g'.met = false → th.heldFree = true → exec .rdv s = .next (u.parkThread (.frag cid t fn) .rdv)))) ∧
  (∀ (s u : State) (cid x : Nat) (c : Crew) (q : SeqCtx), s.AtSeq cid x c q → s.mayIssue (.seq cid x) q.th [] [] = true →
    u = s.setCrew cid { c with body := c.body.arriveRdv (.seq cid x) } →
    ((c.body.grant = none ∨ q.rdv = true) → exec .rdv s = .next (s.finish s (.seq cid x) {})) ∧
    (∀ g', q.rdv = false → (c.body.arriveRdv (.seq cid x)).grant = some g' →
      (g'.met = true → exec .rdv s = .next (s.finish ((u.modCrew cid (fun c => c.modBody (fun b => b.rdvDone x))).endGrant cid)
        (.seq cid x) {})) ∧
      (g'.met = false → q.th.heldFree = true → exec .rdv s = .next (u.parkThread (.seq cid x) .rdv)))) ∧
  (∀ (b : Body) (g : Grant) (ag : Agent), b.grant = some g → ∃ g', (b.arriveRdv ag).grant = some g' ∧ ag ∈ g'.arrived ∧
    (∀ a, a ∈ g'.arrived → a = ag ∨ a ∈ g.arrived) ∧ (∀ a ∈ g.arrived, a ∈ g'.arrived) ∧ g'.tiles = g.tiles ∧
    (g'.met = true ↔ g.met = true ∨ ((∃ k f, Agent.frag k g.team f ∈ g'.arrived) ∧
      (∀ x, g.mseq = some x → ∃ k, Agent.seq k x ∈ g'.arrived) ∧ (∀ x, g.cseq = some x → ∃ k, Agent.seq k x ∈ g'.arrived))))

/-- R244, R279, R284, R295, R299: TCOPY, XFER and MMA, once their completion word passes its checks, put a command with their
registers' values and labels into their engine's queue, and their thread has one more outstanding; TCOPY clears the presence of its
destination's lines in the scratchpad, whatever ends the copy later, XFER stands behind a commit point, a full copy queue makes both wait, and a fragment with no
active lane issues neither. Which lines TCOPY makes absent is read by inference (log 39). -/
def Obligations.EngineCommands : Prop :=
  (∀ (sh co ct : Nat) (s : State) (ag : Agent) (th : Thread) (cid : Nat) (c : Crew), s.Turn ag th → agentCid ag = some cid →
    kvFind s.crews cid = some c → c.copy = .solo → s.mayIssue ag th ((cmdRegs sh co ct).map .s) [] = true →
    (¬ Acts ag th → exec (.tcopy sh co ct) s = .next (s.finish s ag {}) ∧
      ∀ red, exec (.xfer red sh co ct) s = .next (s.finish s ag {})) ∧
    (∀ (s1 : State), Acts ag th → checkCt (s.readS ag ct) s = .ok ⟨⟩ s1 → s1.Turn ag th → kvFind s1.crews cid = some c →
      (64 ≤ (s1.cluster c.cl).cq.length → th.heldFree = true → exec (.tcopy sh co ct) s = .next (s1.parkThread ag (keepPair th.park .engine)) ∧
        ∀ red, exec (.xfer red sh co ct) s = .next (s1.parkThread ag (keepPair th.park .engine))) ∧
      ((s1.cluster c.cl).cq.length < 64 →
        (∀ (lines : List Nat),
          lines = (match (s1.engRecord c.vf c.cl (s1.apOf ag) (s1.pkrOf ag) (fun _ => true)
              ((s1.readS ag sh).val.toNat + 128)).1 with
            | .ok d => if inAperture (s1.apOf ag) (d.base : Int) 1 then destLines (s1.apOf ag) d else []
            | .error _ => []) →
          exec (.tcopy sh co ct) s = .next (s.finish
            ((s1.modCrew cid (fun c => c.modPads (s1.commandOf ag cid th (s1.pkrOf ag) .tcopy sh co ct false)
              (fun p => p.clearLines lines))).pushed ag c true
              { s1.commandOf ag cid th (s1.pkrOf ag) .tcopy sh co ct false with todo := lines }) ag {})) ∧
        (∀ red, (∀ w, th.park ≠ .pair w) → s1.mayCommit cid c = true → (s1.commitNow cid).cur = s1.cur →
          exec (.xfer red sh co ct) s = .next (s.finish ((s1.commitNow cid).pushed ag c true
            { (s1.commitNow cid).commandOf ag cid th (s1.pkrOf ag) (.xfer red) sh co ct true with alone := true }) ag
            { past := true }))))) ∧
  (∀ (ty : Ty) (i32 : Bool) (tile sh co ct : Nat) (s s1 : State) (cid x : Nat) (c : Crew) (q : SeqCtx) (g : Grant),
    s.AtSeq cid x c q → c.copy = .solo → c.body.grant = some g → g.mseq = some x → tile < g.tiles.length →
    s.mayIssue (.seq cid x) q.th ((cmdRegs sh co ct).map .s) [] = true →
    checkCt (s.readS (.seq cid x) ct) s = .ok ⟨⟩ s1 → s1.AtSeq cid x c q →
    exec (.mma ty i32 tile sh co ct) s = .next (s.finish (s1.pushed (.seq cid x) c false
      (s1.commandOf (.seq cid x) cid q.th (s1.pkrOf (.seq cid x)) (.mma ty i32 tile) sh co ct false)) (.seq cid x) {}))

/-- R246, R271, R291 to R294: MZERO zeroes a tile and gives it the PC label, MRSCL multiplies rows of it, MDRAIN moves one column of
it into a vector register and MFILL a vector register into one column, each with the join of its sources' labels; they wait for the
MMAs issued before them to the tile, and a poisoned tile raises 0x15. That a team names no tile after its rendezvous is read by
inference (log 22); that MDRAIN with no active lane opens its window (log 66), and where a tile's page of the tile log lies (log 44),
are the model's choices. -/
def Obligations.TileInstructions : Prop :=
  (∀ (t : Tile) (r x y : Nat) (v : BitVec 32), y < 128 →
    (t.scaleRow r v).at x y = if x = r then scale32 v (t.at x y) else t.at x y) ∧
  (∀ (t : Tile) (r k x y : Nat) (v : BitVec 32), k < 128 → y < 128 →
    (t.put r k v).at x y = if x = r ∧ y = k then v else t.at x y) ∧
  (∀ (tile a : Nat) (s : State) (cid x : Nat) (c : Crew) (q : SeqCtx) (g : Grant) (tl : Tile), s.AtSeq cid x c q →
    c.body.grant = some g → g.mseq = some x → g.tiles[tile]? = some tl →
    (s.mayIssue (.seq cid x) q.th [] [] = true → s.tileBusy cid tile = false → s.tileLogs cid tile = true →
      exec (.mzero tile) s = .next (s.finish (s.putTile cid tile { lab := q.th.pcl }) (.seq cid x) {})) ∧
    (s.mayIssue (.seq cid x) q.th [] [] = true → s.tileBusy cid tile = true →
      exec (.mzero tile) s = .next (s.parkThread (.seq cid x) (keepPair q.th.park .engine))) ∧
    (∀ l tab, s.mayIssue (.seq cid x) q.th [.s a] [] = true → s.tileBusy cid tile = false → tl.poison = false →
      s.joined (.seq cid x) [tl.lab, (s.readS (.seq cid x) a).lab, q.th.pcl] = some (l, tab) →
      (s.setLabels c.vf tab).tileLogs cid tile = true →
      exec (.mrsclUniform tile a) s = .next (s.finish ((s.setLabels c.vf tab).putTile cid tile
        { (List.range 128).foldl (fun t r => t.scaleRow r ((s.readS (.seq cid x) a).val.extractLsb' 0 32)) tl with lab := l })
        (.seq cid x) {}))) ∧
  (∀ (tile : Nat) (s : State) (cid t fn : Nat) (c : Crew) (tm : Team) (th : Thread) (g : Grant) (tl : Tile),
    s.AtFrag cid t fn c tm th → c.body.grant = some g → g.met = false → g.tiles[tile]? = some tl →
    (∀ la ty r d b, s.hasName (.frag cid t fn) (.v d) = true →
      (th.exm = 0 → s.mayIssue (.frag cid t fn) th [.s b] [] = true →
        exec (.mdrain la ty r d tile b) s =
          .next (s.finish (s.opened (.frag cid t fn) [.v d] (some (la, classMd))) (.frag cid t fn) {})) ∧
      (th.exm ≠ 0 → s.mayIssue (.frag cid t fn) th [.s b] [.v d] = true →
        (s.tileBusy cid tile = true →
          exec (.mdrain la ty r d tile b) s = .next (s.parkThread (.frag cid t fn) (keepPair th.park .engine))) ∧
        (s.tileBusy cid tile = false → tl.poison = true →
          exec (.mdrain la ty r d tile b) s = .next (s.takeTrap (.frag cid t fn) { code := 0x15, lanes := th.exm })) ∧
        (∀ ls s1, s.tileBusy cid tile = false → tl.poison = false →
          wordLabels tm th.exm d (fun _ => [tl.lab, (s.readS (.frag cid t fn) b).lab] ++ [th.pcl]) (mgroups th.exm) s =
            .ok ls s1 →
          c.wordsFit t d th.exm = true →
          exec (.mdrain la ty r d tile b) s = .next (s.finish
            (((s1.logged cid (c.wordsNew t d th.exm)).putVec cid t d th.exm ls (fun l =>
              drainLane ty r (tl.at (l % 128) ((s.readS (.frag cid t fn) b).val.toNat % 128)))).opened
              (.frag cid t fn) [.v d] (some (la, classMd))) (.frag cid t fn) {})))) ∧
    (∀ ty a b, s.mayIssue (.frag cid t fn) th [.v a, .s b] [] = true →
      (th.exm = 0 → exec (.mfill ty tile a b) s = .next (s.finish s (.frag cid t fn) {})) ∧
      (∀ l tab, th.exm ≠ 0 → s.tileBusy cid tile = false → tl.poison = false →
        s.joined (.frag cid t fn) ([tl.lab] ++ tm.crossLab th.exm a ++ [(s.readS (.frag cid t fn) b).lab] ++ [th.pcl]) =
          some (l, tab) → (s.setLabels c.vf tab).tileLogs cid tile = true →
        exec (.mfill ty tile a b) s = .next (s.finish ((s.setLabels c.vf tab).putTile cid tile
          { (mlanes th.exm).foldl (fun y k => y.put (k % 128) ((s.readS (.frag cid t fn) b).val.toNat % 128)
              (widen ty (tm.lane a k))) tl with lab := l }) (.frag cid t fn) {}))) ∧
    (∀ a, s.mayIssue (.frag cid t fn) th [.v a] [] = true →
      (th.exm = 0 → exec (.mrsclVector tile a) s = .next (s.finish s (.frag cid t fn) {})) ∧
      (∀ l tab, th.exm ≠ 0 → s.tileBusy cid tile = false → tl.poison = false →
        s.joined (.frag cid t fn) ([tl.lab] ++ tm.crossLab th.exm a ++ [th.pcl]) = some (l, tab) →
        (s.setLabels c.vf tab).tileLogs cid tile = true →
        exec (.mrsclVector tile a) s = .next (s.finish ((s.setLabels c.vf tab).putTile cid tile
          { (mlanes th.exm).foldl (fun y k => y.scaleRow (k % 128) (tm.lane a k)) tl with lab := l })
          (.frag cid t fn) {}))))

/-- R286, R300: SHAPE reads a shape record and answers the first of its checks that fails, or its box's element count in the high
half, with the labels of the record, its address and the PC label. A count that does not fit there is a free value (log 74). -/
def Obligations.ShapeResult : Prop :=
  ∀ (d a : Nat) (s s1 s3 : State) (ag : Agent) (th : Thread) (x : Loc) (l : Lbl) (tab : List (BitVec 64)) (v : Nat),
    s.Turn ag th → s.mayIssue ag th [.s a] [.s d] = true →
    checkAcc .load { uni := true, size := 128, eas := [(0, ((s.readS ag a).val.toNat : Int))]
                     alab := [(s.readS ag a).lab] ++ s.claimLabs ag } s = .ok [x] s1 →
    s1.joined ag ([s1.granLab x.line] ++ [(s.readS ag a).lab, th.pcl]) = some (l, tab) →
    loadLoc .core .rlx 128 x (s1.setLabels (s1.ctxOf ag) tab) = .ok v s3 → s3.cur = some ag →
    (∀ k, shapeCheck (fun _ => true) (shapeOf v) = some k →
      exec (.shape d a) s = .next (s.finish (s3.writeS ag d { val := BitVec.ofNat 64 k, lab := l }) ag {})) ∧
    (shapeCheck (fun _ => true) (shapeOf v) = none →
      exec (.shape d a) s = .next (s.finish (s3.writeS ag d
        { val := BitVec.ofNat 64 (shapeCount (shapeOf v) * 2 ^ 32), lab := l }) ag {}) ∧
      (boxCount (shapeOf v) < 2 ^ 32 → shapeCount (shapeOf v) = boxCount (shapeOf v)))

/-- R173, R174, R301, R303: CAST and QPUT append a record to a launch queue, indivisibly, behind their commit point and a release, and
answer the sequence number or the refusal in the register that named the record, with the labels that the append carries; where those
do not pass the flow check they raise 0x0C with nothing written. An append writes the record and its sequence number into the slot of
the descriptor's tail, and advances the tail. What a peer answers to a QPUT is a free value (log 17). -/
def Obligations.QueueAppends : Prop :=
  (∀ (s : State) (ag : Agent) (th : Thread) (cid : Nat) (c : Crew), s.Turn ag th → agentCid ag = some cid →
    kvFind s.crews cid = some c → c.copy = .solo →
    (∀ a, s.mayIssue ag th [.s a] [] = true → ¬ Acts ag th → exec (.cast a) s = .next (s.finish s ag {})) ∧
    (∀ (a b : Nat) (ofs : BitVec 18), s.mayIssue ag th [.s a, .s b] [] = true → ¬ Acts ag th →
      exec (.qput a b ofs) s = .next (s.finish s ag {})) ∧
    (∀ a, s.mayIssue ag th [.s a] [.s a] = true →
      (∀ (k : Lbl) (tab : List (BitVec 64)) (v : Word) (s1 u : State), Acts ag th →
        s.joined ag [(s.readS ag a).lab, th.pcl] = some (k, tab) → s1 = s.setLabels (s.ctxOf ag) tab → s1.mayRelease ag th →
        Appends s1 ag c.vf (some 0) (s.readS ag a).val (s.readS ag a).val k v u → u.Turn ag th →
        (v ≠ flowWord → exec (.cast a) s = .next (s.finish (u.writeS ag a { val := v, lab := k }) ag { past := true })) ∧
        (v = flowWord → exec (.cast a) s = .next (u.takeTrap ag { code := 0x0C, lanes := th.exm })))) ∧
    (∀ (a b : Nat) (ofs : BitVec 18), s.mayIssue ag th [.s a, .s b] [.s b] = true →
      (∀ (x : Int) (loc : Loc) (k : Lbl) (tab : List (BitVec 64)) (s1 s2 : State) (q : Option Nat), Acts ag th →
        x = ((s.readS ag a).val.toNat : Int) + ofs.toInt →
        checkAcc .load { uni := true, size := 64, eas := [(0, x)], alab := [(s.readS ag a).lab] ++ s.claimLabs ag } s =
          .ok [loc] s1 →
        s1.joined ag [(s.readS ag b).lab, (s.readS ag a).lab, th.pcl] = some (k, tab) →
        s2 = s1.setLabels (s1.ctxOf ag) tab → s2.mayRelease ag th →
        ((∃ n, 1 ≤ n ∧ n ≤ 15 ∧ q = some n ∧ (s2.ctx c.vf).lqt ≠ 0 ∧ x = ((s2.ctx c.vf).lqt.toNat : Int) + 64 * n ∧
            loc.ms = true) ∨
         (q = none ∧ ((s2.ctx c.vf).lqt = 0 ∨ loc.ms = false ∨
            ∀ n : Nat, 1 ≤ n → n ≤ 15 → x ≠ ((s2.ctx c.vf).lqt.toNat : Int) + 64 * n))) →
        (∀ (v : Word) (u : State), paLocal loc.pa = true ∨ 0x800 ≤ paWindow loc.pa →
          Appends s2 ag c.vf q (s.readS ag b).val (BitVec.ofInt 64 x) k v u → u.Turn ag th →
          (v ≠ flowWord → exec (.qput a b ofs) s =
            .next (s.finish (u.writeS ag b { val := v, lab := k }) ag { past := true })) ∧
          (v = flowWord → exec (.qput a b ofs) s = .next (u.takeTrap ag { code := 0x0C, lanes := th.exm }))) ∧
        (∀ u : State, paLocal loc.pa = false → paWindow loc.pa < 0x800 →
          recordHere 8 [BitVec.ofInt 64 x, peerAnswer s2.tick] (s2.released ag) = .ok ⟨⟩ u → u.Turn ag th →
          (peerAnswer s2.tick ≠ flowWord → exec (.qput a b ofs) s =
            .next (s.finish (u.writeS ag b { val := peerAnswer s2.tick, lab := k }) ag { past := true })) ∧
          (peerAnswer s2.tick = flowWord →
            exec (.qput a b ofs) s = .next (u.takeTrap ag { code := 0x0C, lanes := th.exm })))))) ∧
  (∀ n, peerAnswer n = flowWord ∨ (peerAnswer n).toNat < 2 ^ 63 ∨ ∃ k, 1 ≤ k ∧ k ≤ 4 ∧ peerAnswer n = refused k) ∧
  (∀ (s u : State) (vf q n : Nat) (r : Word) (who : Option (BitVec 64 × Lbl)) (lab : Option Lbl),
    (∀ k, s.stashHolders [] k = []) → s.append vf q r who lab = .done n u →
    ∃ dpa spa, s.msAddr vf false ((s.ctx vf).lqt.toNat + 64 * q) = some dpa ∧ (s.qdesc dpa).ok = true ∧
      s.msAddr vf true ((s.qdesc dpa).slot (s.qdesc dpa).tail) = some spa ∧ n = (s.qdesc dpa).tail ∧
      (s.qdesc dpa).tail - (s.qdesc dpa).head < 2 ^ (s.qdesc dpa).log2n ∧
      u.hbm = ((s.setHomeBytes (numBytes spa 8 r.toNat ++ numBytes (spa + 8) 8 n)).setHomeBytes
        (numBytes (dpa + 0x10) 8 (n + 1))).hbm)

/-! ### System registers, translations and handlers -/

/-- R12, R351 to R355: SYSR reads a system register at the least privilege of R350 or above and raises 0x1C below it; SYSW likewise
writes the bits that R351 lets software write, and is ignored by a register that is read-only at its privilege (log 63), and PKEYW the team's keys, with no write span open and a public operand, else 0x0D. A supervisor core
reaches its selected context, its two selectors and the controller register that %mcsel names. -/
def Obligations.SystemRegisters : Prop :=
  (∀ (d reg : Nat) (s : State) (cid t fn : Nat) (c : Crew) (tm : Team) (th : Thread), s.AtFrag cid t fn c tm th →
    s.mayIssue (.frag cid t fn) th [] [.s d] = true →
    (privOk (sysReadPriv reg) th.priv = false →
      exec (.sysr d reg) s = .next (s.takeTrap (.frag cid t fn) { code := 0x1C, lanes := th.exm })) ∧
    (reg = 0x000 → c.copy = .solo →
      exec (.sysr d reg) s = .next (s.finish ((s.recorded cid t 4 [BitVec.ofNat 64 s.cyc]).writeS (.frag cid t fn) d
        { val := BitVec.ofNat 64 s.cyc, lab := th.pcl }) (.frag cid t fn) {})) ∧
    (reg = 0x001 → tm.phase = .none →
      exec (.sysr d reg) s = .next (s.finish (s.writeS (.frag cid t fn) d { val := 0, lab := th.pcl }) (.frag cid t fn) {})) ∧
    (∀ v, privOk (sysReadPriv reg) th.priv = true → fragReg s c tm th reg = some v →
      exec (.sysr d reg) s = .next (s.finish (s.writeS (.frag cid t fn) d { val := v, lab := th.pcl }) (.frag cid t fn) {}))) ∧
  (∀ (reg a : Nat) (s : State) (cid t fn : Nat) (c : Crew) (tm : Team) (th : Thread), s.AtFrag cid t fn c tm th →
    s.mayIssue (.frag cid t fn) th [.s a] [] = true →
    (privOk (sysReadPriv reg) th.priv = false →
      exec (.sysw reg a) s = .next (s.takeTrap (.frag cid t fn) { code := 0x1C, lanes := th.exm })) ∧
    ((th.openSpan ≠ none ∨ (s.readS (.frag cid t fn) a).lab ≠ 0) →
      (privOk (sysReadPriv reg) th.priv = true →
        exec (.sysw reg a) s = .next (s.takeTrap (.frag cid t fn) { code := 0x0D, lanes := th.exm })) ∧
      exec (.pkeyw a) s = .next (s.takeTrap (.frag cid t fn) { code := 0x0D, lanes := th.exm })) ∧
    (th.openSpan = none → (s.readS (.frag cid t fn) a).lab = 0 →
      exec (.pkeyw a) s = .next (s.finish (s.modTeam cid t (fun x => { x with pkr := (s.readS (.frag cid t fn) a).val }))
        (.frag cid t fn) {}) ∧
      (privOk (sysReadPriv reg) th.priv = true → privOk (sysWritePriv reg) th.priv = false →
        exec (.sysw reg a) s = .next (s.finish s (.frag cid t fn) {})) ∧
      (privOk (sysWritePriv reg) th.priv = true →
        (reg = 0x005 → exec (.sysw reg a) s = .next (s.finish
          (s.modTeam cid t (fun x => { x with pkr := (s.readS (.frag cid t fn) a).val })) (.frag cid t fn) {})) ∧
        (reg ∈ [0x010, 0x011, 0x012, 0x013, 0x014, 0x015, 0x016, 0x020] → exec (.sysw reg a) s = .next (s.finish
          (s.modCtx c.vf (fun x => setCtxReg x reg (s.readS (.frag cid t fn) a).val)) (.frag cid t fn) {})) ∧
        (reg = 0x017 → exec (.sysw reg a) s = .next (s.finish s (.frag cid t fn) {}))))) ∧
  (∀ (x : Context) (n : Nat) (v : Word), n ∈ [0x010, 0x011, 0x012, 0x014, 0x015, 0x016, 0x017, 0x020] →
    ctxReg (setCtxReg x n v) n = v &&& sysMask n ∧ (∀ m, m ≠ n → ctxReg (setCtxReg x n v) m = ctxReg x m)) ∧
  (∀ (x : Context) (v : Word), (ctxReg (setCtxReg x 0x013 v) 0x013).getLsbD 62 = (x.rlog.getLsbD 62 && !v.getLsbD 62) ∧
    (∀ k, k < 57 → (ctxReg (setCtxReg x 0x013 v) 0x013).getLsbD k = v.getLsbD k) ∧
    (∀ m, m ≠ 0x013 → ctxReg (setCtxReg x 0x013 v) m = ctxReg x m)) ∧
  (∀ (k a d : Nat) (s : State) (th : Thread) (v : Word), s.Turn (.sup k) th → th.priv = .devSup →
    v = (s.readS (.sup k) a).val →
    (s.mayIssue (.sup k) th [.s a] [] = true → th.openSpan = none → (s.readS (.sup k) a).lab = 0 →
      exec (.sysw 0x030 a) s = .next (s.finish (s.setSup k { s.sup k with ctxsel := v &&& 0x1FF }) (.sup k) {}) ∧
      exec (.sysw 0x031 a) s = .next (s.finish (s.setSup k { s.sup k with mcsel := v &&& 0xFFFF8 }) (.sup k) {}) ∧
      exec (.sysw 0x032 a) s = .next (s.finish (s.ctlWrite (mcOf (s.sup k).mcsel) (ofsOf (s.sup k).mcsel) v) (.sup k) {}) ∧
      (∀ reg, reg ∈ [0x010, 0x011, 0x012, 0x013, 0x014, 0x015, 0x016, 0x017, 0x020] →
        (supVf (s.sup k) = none → exec (.sysw reg a) s = .next (s.finish s (.sup k) {})) ∧
        (∀ vf, supVf (s.sup k) = some vf → (reg ≠ 0x017 ∨ s.poolHeld vf = false) →
          exec (.sysw reg a) s = .next (s.finish (s.modCtx vf (fun x => setCtxReg x reg v)) (.sup k) {})))) ∧
    (s.mayIssue (.sup k) th [] [.s d] = true →
      exec (.sysr d 0x000) s =
        .next (s.finish (s.writeS (.sup k) d { val := BitVec.ofNat 64 s.cyc, lab := th.pcl }) (.sup k) {}) ∧
      exec (.sysr d 0x030) s = .next (s.finish (s.writeS (.sup k) d { val := (s.sup k).ctxsel, lab := th.pcl }) (.sup k) {}) ∧
      exec (.sysr d 0x031) s = .next (s.finish (s.writeS (.sup k) d { val := (s.sup k).mcsel, lab := th.pcl }) (.sup k) {}) ∧
      exec (.sysr d 0x032) s = .next (s.finish (s.writeS (.sup k) d
        { val := s.ctlRead (mcOf (s.sup k).mcsel) (ofsOf (s.sup k).mcsel), lab := th.pcl }) (.sup k) {}) ∧
      (∀ reg, reg ∈ [0x001, 0x002, 0x003, 0x004, 0x005, 0x006] →
        exec (.sysr d reg) s = .next (s.finish (s.writeS (.sup k) d { val := 0, lab := th.pcl }) (.sup k) {})) ∧
      (∀ reg, reg ∈ [0x010, 0x011, 0x012, 0x013, 0x014, 0x015, 0x016, 0x017, 0x018, 0x020] →
        exec (.sysr d reg) s = .next (s.finish (s.writeS (.sup k) d
          { val := match supVf (s.sup k) with | some vf => ctxReg (s.ctx vf) reg | none => 0, lab := th.pcl }) (.sup k) {}))))

/-- R259, R356, R357: TLBINV commits its crew, writes through, and drops the translations, L1 lines and fetched code that it covers, at
context-supervisor privilege for a page or its own context and at device-supervisor privilege for any context or all; FRINV drops a
range of physical lines, those it writes back charged to who dirtied them, at device-supervisor privilege, once the MMAs that had
begun before it have let go of their pins. Each raises 0x1C below its privilege. That TLBINV drops every unit's fetched
code is read by inference (log 14). -/
def Obligations.TranslationMaintenance : Prop :=
  (∀ (a : Nat) (s : State) (ag : Agent) (th : Thread) (va : Nat), s.Turn ag th → s.mayIssue ag th [.s a] [] = true →
    va = (s.readS ag a).val.toNat →
    (th.priv = .user →
      exec (.tlbinvPage a) s = .next (s.takeTrap ag { code := 0x1C, lanes := th.exm }) ∧
      exec (.tlbinvCtx a) s = .next (s.takeTrap ag { code := 0x1C, lanes := th.exm })) ∧
    (th.priv ≠ .devSup → exec (.tlbinvAll a) s = .next (s.takeTrap ag { code := 0x1C, lanes := th.exm })) ∧
    (th.priv ≠ .user → canonical (va : Int) = false →
      exec (.tlbinvPage a) s = .next (s.takeTrap ag
        { code := 0x05, lanes := th.exm, uaddr := some (s.readS ag a).val, alab := [(s.readS ag a).lab] })) ∧
    (∀ (cid : Nat) (c : Crew) (u : State), agentCid ag = some cid → kvFind s.crews cid = some c → s.mayRelease ag th →
      (th.priv ≠ .user → canonical (va : Int) = true →
        (s.released ag).covered (pageCover c.vf va (s.clusters.any (fun e => e.2.tlb.any (fun t =>
          t.vf == c.vf && t.large && t.page == va / 2 ^ 29)))) = some u →
        exec (.tlbinvPage a) s = .next (s.finish u ag { past := true })) ∧
      ((th.priv = .devSup ∨ (th.priv = .ctxSup ∧ c.vf = va % 256)) → (s.released ag).covered (ctxCover (va % 256)) = some u →
        exec (.tlbinvCtx a) s = .next (s.finish u ag { past := true })) ∧
      (th.priv = .devSup → (s.released ag).covered allCover = some u →
        exec (.tlbinvAll a) s = .next (s.finish u ag { past := true })))) ∧
  (∀ (s : State) (p : TlbEntry → Bool) (q : Nat → Bool), (∀ e ∈ (s.tlbDrop p q).clusters,
      (∀ x ∈ e.2.tlb, p x = false) ∧ ∀ m ∈ e.2.mids, q m.1 = false) ∧
    (∀ n x, x ∈ (s.cluster n).tlb → p x = false → x ∈ ((s.tlbDrop p q).cluster n).tlb) ∧ (s.tlbDrop p q).hbm = s.hbm) ∧
  (∀ (a b : Nat) (s : State) (ag : Agent) (th : Thread) (x n : Nat), s.Turn ag th → s.mayIssue ag th [.s a, .s b] [] = true →
    x = (s.readS ag a).val.toNat → n = (s.readS ag b).val.toNat →
    (th.priv ≠ .devSup → exec (.frinv a b) s = .next (s.takeTrap ag { code := 0x1C, lanes := th.exm })) ∧
    (th.priv = .devSup → (x % 4096 ≠ 0 ∨ n % 4096 ≠ 0) → exec (.frinv a b) s = .next (s.takeTrap ag
      { code := 0x1B, lanes := th.exm, uaddr := some (s.readS ag a).val, alab := [(s.readS ag a).lab] })) ∧
    (th.priv = .devSup → x % 4096 = 0 → n % 4096 = 0 → (2 ^ 40 ≤ x ∨ (n ≠ 0 ∧ (x + n - 1) / 2 ^ 36 ≠ x / 2 ^ 36)) →
      exec (.frinv a b) s = .next (s.takeTrap ag
        { code := 0x06, lanes := th.exm, uaddr := some (s.readS ag a).val, alab := [(s.readS ag a).lab] })) ∧
    (th.priv = .devSup → x % 4096 = 0 → n = 0 → x < 2 ^ 40 → exec (.frinv a b) s = .next (s.finish s ag {})) ∧
    (∀ (j : Nat) (p : Nat → Bool) (s1 : State), ag = .sup j → th.priv = .devSup → x % 4096 = 0 → n % 4096 = 0 → n ≠ 0 →
      x < 2 ^ 40 → (x + n - 1) / 2 ^ 36 = x / 2 ^ 36 →
      (∀ k, p k = (decide (x / 128 ≤ k) && decide (k ≤ (x + n) / 128 - 1))) →
      s1 = (if (kvFind s.frinvs j).isNone then
        { s with frinvs := kvSet s.frinvs j (x / 128, (x + n) / 128 - 1, s.openMmas) } else s) →
      (((∃ e ∈ kvFind s1.frinvs j, ∃ m ∈ e.2.2, m ∈ s1.openMmas) ∨ ∃ k ∈ s1.pins, p k = true) →
        exec (.frinv a b) s = .next (s1.parkThread ag (keepPair th.park .pinned))) ∧
      (∀ u v, (∀ e ∈ kvFind s1.frinvs j, ∀ m ∈ e.2.2, m ∉ s1.openMmas) → (∀ k ∈ s1.pins, p k = false) →
        s1.evictLines p = (true, u) →
        v = ((u.evictStash p).l2.filter (fun e => p e.1)).foldl State.writeBack (u.evictStash p) →
        exec (.frinv a b) s = .next (s.finish { v with
          l2 := v.l2.filter (fun e => !p e.1), frinvs := kvDel v.frinvs j } ag {}))))

/-- R111, R327, R330, R358: in its handler FAULTR reads each field of the team's trap frame, with the label that the frame keeps, and
at user privilege it raises 0x1C. PGMAP, at context-supervisor privilege, goes on past a page that is mapped or swapped, maps a
missing one behind a commit point, with the attributes that %pgattr held as it began, and faults on a malformed walk. One that must
first have frames freed takes its turn among those that wait for frames (R376; their order is read as log 56 says). -/
def Obligations.HandlerInstructions : Prop :=
  (∀ (s : State) (cid t fn : Nat) (c : Crew) (tm : Team) (th : Thread), s.AtFrag cid t fn c tm th →
    (∀ x d, th.priv = .user → (x = .addr → s.hasName (.frag cid t fn) (.v d) = true ∧
      s.hasName (.frag cid t fn) (.v (d + 1)) = true) → exec (.faultr x d) s = .next (s.takeTrap (.frag cid t fn) { code := 0x1C, lanes := th.exm })) ∧
    (∀ f d, th.priv ≠ .user → th.handler = true → tm.frame = some f → f.frag = fn →
      (∀ x v ls l tab, frameField f x = some (v, ls) → s.mayIssue (.frag cid t fn) th [] [.s d] = true →
        s.joined (.frag cid t fn) ls = some (l, tab) →
        exec (.faultr x d) s = .next (s.finish ((s.setLabels c.vf tab).writeS (.frag cid t fn) d
          { val := BitVec.ofNat 64 v, lab := l }) (.frag cid t fn) {})) ∧
      (th.exm = 0 → s.mayIssue (.frag cid t fn) th [] [] = true →
        exec (.faultr .mask d) s = .next (s.finish s (.frag cid t fn) {})) ∧
      (∀ l tab, th.exm ≠ 0 → s.mayIssue (.frag cid t fn) th [] [.m d] = true →
        s.maskLabel (.frag cid t fn) tm d th.exm (f.plbl :: f.alab ++ [th.pcl]) = some (l, tab) →
        (d = 0 → ((s.setLabels c.vf tab).ctx c.vf).dominates th.pcl l = true) →
        exec (.faultr .mask d) s =
          .next (s.finish ((s.setLabels c.vf tab).putMask cid t fn tm d th.exm f.lanes l) (.frag cid t fn) {})) ∧
      (∀ s1 s2 s3 s4, s.hasName (.frag cid t fn) (.v d) = true → s.hasName (.frag cid t fn) (.v (d + 1)) = true →
        s.mayIssue (.frag cid t fn) th [] (if th.exm = 0 then [] else [.v d, .v (d + 1)]) = true →
        prepareV d (fun _ => f.plbl :: f.alab) s = .ok ⟨⟩ s1 → prepareV (d + 1) (fun _ => f.plbl :: f.alab) s1 = .ok ⟨⟩ s2 →
        writeV d (fun _ => f.plbl :: f.alab) (fun l => (frameAddr f l).extractLsb' 0 32) s2 = .ok ⟨⟩ s3 →
        writeV (d + 1) (fun _ => f.plbl :: f.alab) (fun l => (frameAddr f l).extractLsb' 32 32) s3 = .ok ⟨⟩ s4 →
        exec (.faultr .addr d) s = .next (s.finish s4 (.frag cid t fn) {})))) ∧
  (∀ (a : Nat) (s : State) (ag : Agent) (th : Thread) (cid : Nat) (c : Crew) (va : Nat), s.Turn ag th → agentCid ag = some cid →
    kvFind s.crews cid = some c → s.mayIssue ag th [.s a] [] = true → va = (s.readS ag a).val.toNat →
    (th.priv = .user → exec (.pgmap a) s = .next (s.takeTrap ag { code := 0x1C, lanes := th.exm })) ∧
    (th.priv ≠ .user → canonical (va : Int) = false → exec (.pgmap a) s = .next (s.takeTrap ag
      { code := 0x05, lanes := th.exm, uaddr := some (s.readS ag a).val, alab := [(s.readS ag a).lab] })) ∧
    (th.priv ≠ .user → canonical (va : Int) = true →
      (s.mapAt (s.ctx c.vf).root va = .malformed → exec (.pgmap a) s = .next (s.takeTrap ag
        { code := 0x07, sub := 2, lanes := th.exm, uaddr := some (s.readS ag a).val, alab := [(s.readS ag a).lab] })) ∧
      (s.mapAt (s.ctx c.vf).root va = .swapped → exec (.pgmap a) s = .next (s.finish s ag {})) ∧
      (s.mapAt (s.ctx c.vf).root va = .valid → s.mayCommit cid c = true →
        (∀ n, (s.commitNow cid).mapAt ((s.commitNow cid).ctx c.vf).root va ≠ .missing n) →
        exec (.pgmap a) s = .next (s.finish (s.commitNow cid) ag { past := true })) ∧
      (∀ k n keep u, s.mapAt (s.ctx c.vf).root va = .missing k → s.mayCommit cid c = true →
        (s.commitNow cid).mapAt ((s.commitNow cid).ctx c.vf).root va = .missing n → faultPages (s.commitNow cid) =
          .ok keep (s.commitNow cid) → (s.commitNow cid).makeRoom c.vf (n + 1) keep (n + 1) = .room u →
        u.cur = s.cur → (s.commitNow cid).cur = s.cur →
        (n + 1 ≤ ((s.commitNow cid).ctx c.vf).pool.length ∨
          (s.commitNow cid).firstAsked (th.asked.getD (s.commitNow cid).cyc) = true) →
        exec (.pgmap a) s = .next (s.finish ((u.mapNow c.vf va n
          ((th.began.map Prod.snd).getD ((s.commitNow cid).ctx c.vf).pgattr)).endEscalation c.vf) ag { past := true }))))

/-! ### Events of the cores -/

/-- R28 to R30, R35, R37, R40 to R42, R71 to R73, R152, R155, R159, R187 to R190, R228, R269: the events of the cores. A wanted stash
line is filled from its global address with its granule's label; a clause starts once it is well formed and its WAIT classes are
empty; a slot chooses a ready fragment; a held load completes when its lines have come, or faults; siblings at their join fuse; a
spilled side runs once the other waits or has ended; a waiting fault enters its handler; a stopped stream resumes or ends its cast; a
request for register words that fits is granted, and a deadlocked core evicts its youngest crew. The model's choices are: when a
fragment counts as ready (log 32); what is fetched and how 0x1C ranks where a clause faults (log 71); how held loads wait and what
goes back when one faults (log 27); the address under which a scratchpad's poison is reported (log 60); which request for words is
granted first and how a deadlock is seen (logs 23, 65). A word of code stored to since its fetch is a free value (log 14). -/
def Obligations.CoreEvents : Prop :=
  (∀ (cid line g : Nat) (s : State) (c : Crew), kvFind s.crews cid = some c → c.resident = true →
    kvFind c.body.pad.wanted line = some g →
    ((s.l1Bad c.cl c.core g = true ∨ (s.bad g = true ∧ s.storedWhole c g = false)) →
      exec (.stashFill cid line) s = .next (s.consumed cid (128 * g))) ∧
    (s.l1Bad c.cl c.core g = false → s.bad g = false → s.holders c.cl c.core g (some cid) = [] →
      s.padRoom cid line = (true, s) → s.l1Has c 1 = true → ∃ u c', exec (.stashFill cid line) s = .next u ∧ u.hbm = s.hbm ∧ SameOthers s u cid ∧
      kvFind u.crews cid = some c' ∧ c'.unc = c.unc ∧ line ∈ c'.padLog ∧
      (∀ t tm, kvFind c.body.teams t = some tm → ∃ tm', kvFind c'.body.teams t = some tm' ∧ tm'.s = tm.s ∧ tm'.m = tm.m ∧
        tm'.v = tm.v) ∧
      (∀ k, k < 128 → kvGet 0 c'.body.pad.bytes (128 * line + k) = s.coreByte c false (128 * g + k)) ∧
      (∀ a, a / 128 ≠ line → kvGet 0 c'.body.pad.bytes a = kvGet 0 c.body.pad.bytes a) ∧
      c'.body.pad.lab line = s.granLab g ∧ (∀ l, l ≠ line → c'.body.pad.lab l = c.body.pad.lab l) ∧
      line ∉ c'.body.pad.absent ∧ line ∉ c'.body.pad.failed ∧ kvFind c'.body.pad.filled line = some g ∧
      kvFind c'.body.pad.wanted line = none)) ∧
  (∀ (ag : Agent) (s : State) (th : Thread), s.thread? ag = some th → s.issuable ag th = true → s.seqTurn ag = true →
    th.park = .run →
    (th.clause ≠ [] → (th.running = true ∨ s.chosen ag = true) →
      exec (.clauseStart ag) s = .next { s.takesTurn ag with cur := some ag }) ∧
    (∀ r rest cid t fn tm, ag = .frag cid t fn → s.team? cid t = some tm → th.clause = [] → th.stack = r :: rest →
      r.join = th.pc → th.slot = 0 →
      (r.split = true → tm.others fn r.sid = true →
        exec (.clauseStart ag) s = .next ((s.unchoose ag).parkThread ag .join)) ∧
      ((r.split = false ∨ tm.others fn r.sid = false) → r.span = none → ∃ u th', exec (.clauseStart ag) s = .next u ∧
        u.thread? ag = some th' ∧ th'.stack = rest ∧ th'.pcl = r.pcl ∧ th'.pc = th.pc ∧ th'.exm = th.exm ∧ u.hbm = s.hbm)) ∧
    (∀ h s1, th.clause = [] → th.stack = [] → s.chosen ag = true → (s.takesTurn ag).fetchFor ag th.pc = .ok (h, s1) →
      (hdrOk h = false → exec (.clauseStart ag) s = .next (s1.takeTrap ag (headerTrap th 0x02 1 none))) ∧
      (∀ ws s2, hdrOk h = true →
        s1.fetchWords (s1.fetchUnit ag) (s1.vfOf ag) (s1.clOf ag) (s1.apOf ag) (th.pc + 8) (hdrLen h) = .ok (ws, s2) →
        (∀ code sub, clauseFault ag th ((s.takesTurn ag).ownEng ag) h ws = some (code, sub) →
          exec (.clauseStart ag) s = .next (s2.takeTrap ag (headerTrap th code sub none))) ∧
        (clauseFault ag th ((s.takesTurn ag).ownEng ag) h ws = none →
          (s.waitOver ag th h = false → exec (.clauseStart ag) s = .next (s.takesTurn ag)) ∧
          (s.waitOver ag th h = true → exec (.clauseStart ag) s =
            .next { s2.modThread ag (startThread h ws s.cyc) with cur := some ag }))))) ∧
  (∀ (cl core slot : Nat) (s : State),
    ((s.slotBusy cl core slot (s.slotFrags cl core slot) = true ∨ (s.slotFrags cl core slot).any Cand.ready = false) →
      exec (.issueChoice cl core slot) s = .next s) ∧
    (s.slotBusy cl core slot (s.slotFrags cl core slot) = false → ∃ u, exec (.issueChoice cl core slot) s = .next u ∧
      u.hbm = s.hbm ∧ (∀ ag, kvFind (u.cluster cl).running (4 * core + slot) = some ag →
        ∃ c ∈ s.slotFrags cl core slot, c.ag = ag ∧ c.ready = true) ∧
      (∀ c, s.slotFrags cl core slot = [c] → c.ready = true →
        kvFind (u.cluster cl).running (4 * core + slot) = some c.ag))) ∧
  (∀ (ag : Agent) (k : Nat) (s : State) (th : Thread) (p : Pending), s.thread? ag = some th → th.pend[k]? = some p →
    (p.held = none → exec (.longLatencyComplete ag k) s =
      .next (s.modThread ag (fun x => { x with pend := x.pend.eraseIdx k }))) ∧
    (∀ cid t fn c h, ag = .frag cid t fn → kvFind s.crews cid = some c → c.resident = true → p.held = some h →
      (h.lostLanes ≠ [] → exec (.longLatencyComplete ag k) s = .next (s.failHeld ag cid t k h
        { code := 0x14, lanes := maskOf (kvKeys h.lostLanes)
          addrs := h.lostLanes.map (fun (e : Nat × Nat) => (e.1, BitVec.ofNat 64 e.2)), alab := h.flab })) ∧
      (h.lostLanes = [] → h.here = true → ∀ off, h.bad? = some off →
        exec (.longLatencyComplete ag k) s = .next (s.consumedPad cid off)) ∧
      (h.lostLanes = [] → h.here = true → h.bad? = none → ∀ s1, deliver k h { s with cur := some ag } = .ok ⟨⟩ s1 →
        exec (.longLatencyComplete ag k) s = .next { s.noteUndo s1 ag k with cur := s.cur }) ∧
      (h.lostLanes = [] → h.here = false → exec (.longLatencyComplete ag k) s = .next s))) ∧
  (∀ (ag : Agent) (s : State) (th : Thread), s.thread? ag = some th →
    (∃ u, exec (.storePerformed ag) s = .next u ∧ u.thread? ag = some { th with outSt := th.outSt - 1 } ∧ u.hbm = s.hbm) ∧
    (∃ u, exec (.redAcknowledged ag) s = .next u ∧ u.thread? ag = some { th with outAt := th.outAt - 1 } ∧ u.hbm = s.hbm)) ∧
  (∀ (cid t sid : Nat) (s : State) (tm : Team), s.team? cid t = some tm →
    (∀ a b x y r q rest ys, a ≠ b → (tm.frags.filter (fun e => atJoinOf sid e.2) = [(a, x), (b, y)] ∨
        tm.frags.filter (fun e => atJoinOf sid e.2) = [(b, y), (a, x)]) →
      x.stack = r :: rest → y.stack = q :: ys → r.split = true → r.taken = true → q.split = true → q.taken = false →
      r.span = none → s.mayGo (.frag cid t a) x = true → s.mayGo (.frag cid t b) y = true →
      ∃ u tm' z, exec (.fragmentFusion cid t sid) s = .next u ∧ u.team? cid t = some tm' ∧ kvFind tm'.frags b = none ∧
        kvFind tm'.frags a = some z ∧ z.exm = x.exm ||| y.exm ∧ z.f = x.f ||| y.f ∧ z.stack = rest ∧ z.pcl = r.pcl ∧
        z.park = .run ∧ z.pc = x.pc ∧ (∀ n, n ≠ a → n ≠ b → kvFind tm'.frags n = kvFind tm.frags n) ∧ tm'.s = tm.s ∧
        tm'.m = tm.m ∧ tm'.v = tm.v ∧ u.hbm = s.hbm) ∧
    (∀ a x r rest, tm.frags.filter (fun e => atJoinOf sid e.2) = [(a, x)] → kvFind tm.frags a = some x → x.stack = r :: rest →
      r.span = none → tm.others a sid = false → s.mayGo (.frag cid t a) x = true →
      ∃ u z, exec (.fragmentFusion cid t sid) s = .next u ∧ u.thread? (.frag cid t a) = some z ∧ z.exm = x.exm ∧ z.f = x.f ∧
        z.stack = rest ∧ z.pcl = r.pcl ∧ z.park = .run ∧ z.pc = x.pc ∧ u.hbm = s.hbm)) ∧
  (∀ (cid t fn : Nat) (s : State) (c : Crew) (tm : Team) (th : Thread) (r : SplitRef) (rest : List SplitRef),
    kvFind s.crews cid = some c → s.team? cid t = some tm →
    kvFind tm.frags fn = some th → th.spilled = true → th.stack = r :: rest →
    ((tm.others fn r.sid = false ∨ tm.frags.any (fun e => e.1 != fn && parkedAt r.sid e.2) = true) →
      (s.savedBad c = false → exec (.spillRestore cid t fn) s =
        .next (s.modThread (.frag cid t fn) (fun th => { th with spilled := false, ready := s.cyc, unready := 0 }))) ∧
      (s.savedBad c = true → ∃ u, exec (.spillRestore cid t fn) s = .next u ∧ Aborted s u cid c 0x18 0)) ∧
    (tm.others fn r.sid = true → tm.frags.any (fun e => e.1 != fn && parkedAt r.sid e.2) = false →
      exec (.spillRestore cid t fn) s = .next s)) ∧
  (∀ (cid t fn : Nat) (s : State) (tm : Team) (th : Thread) (tr : Trap), s.team? cid t = some tm →
    kvFind tm.frags fn = some th → th.park = .fault tr → th.pend.any (fun p => p.held.isSome) = false →
    s.issuable (.frag cid t fn) th = true →
    (tm.frame = none → exec (.trapEntry (.frag cid t fn)) s = .next (s.enterHandler cid t fn tr)) ∧
    (tm.frame ≠ none → exec (.trapEntry (.frag cid t fn)) s = .next s)) ∧
  (∀ (cid x : Nat) (s : State) (c : Crew) (q : SeqCtx) (code sub va : Nat), kvFind s.crews cid = some c →
    kvFind c.body.seqs x = some q → q.th.park = .stopped code sub va →
    (s.sups.any (fun u => u.2.serving == some c.vf) = false → s.sups.any (fun u => u.2.serving.isNone) = true →
      exec (.sequencerFault cid x) s = .next (s.takeEscalation c.vf) ∧
      (s.takeEscalation c.vf).sups.any (fun u => u.2.serving == some c.vf) = true) ∧
    (s.sups.any (fun u => u.2.serving == some c.vf) = true →
     ((stoppedOn q.th = none ∨ ∃ a n, stoppedOn q.th = some (a, n) ∧ 2 ≤ n) →
      ∃ u, exec (.sequencerFault cid x) s = .next u ∧ Aborted s u cid c code (BitVec.ofNat 64 q.th.pc) ∧
        u.sups.any (fun u => u.2.serving == some c.vf) = false) ∧
     (∀ a n, stoppedOn q.th = some (a, n) → n < 2 → s.pageHere c.vf (a / 65536) = true →
      ∃ u c' q', exec (.sequencerFault cid x) s = .next u ∧ kvFind u.crews cid = some c' ∧ kvFind c'.body.seqs x = some q' ∧
        q'.th.park = .run ∧ q'.th.pc = q.th.pc ∧ q'.th.slot = q.th.slot ∧ u.hbm = s.hbm))) ∧
  (∀ (cid t n fn : Nat) (s : State) (c : Crew) (tm : Team) (th : Thread), kvFind s.crews cid = some c →
    s.team? cid t = some tm → tm.frags = [(fn, th)] → th.park = .grow n → c.resident = true →
    (s.grantable cid t n = true → exec (.registerGrant cid t) s = .next ((s.giveWords cid t n).modThread (.frag cid t fn)
      (fun th => { th with park := .granted, unready := 0, ready := s.cyc }))) ∧
    (s.grantable cid t n = false → exec (.registerGrant cid t) s = .next (s.askHeld c.cl c.core)) ∧
    (n ≤ kvGet 0 c.held t + s.freeWords c.cl c.core →
      (s.giveWords cid t n).team? cid t = some { tm with reserve := tm.reserve + n })) ∧
  (∀ (cl core : Nat) (s : State),
    (s.growStuck cl core = false → exec (.growDeadlock cl core) s = .next s) ∧
    (s.growStuck cl core = true →
      (∀ cid c, s.crews.filter (fun e => onCore cl core e.2) = [(cid, c)] → kvFind s.crews cid = some c →
        ∃ u, exec (.growDeadlock cl core) s = .next u ∧ Aborted s u cid c 0x22 0) ∧
      (2 ≤ (s.crews.filter (fun e => onCore cl core e.2)).length →
        ∃ e ∈ s.crews, onCore cl core e.2 = true ∧ (∀ d ∈ s.crews, onCore cl core d.2 = true → d.2.order ≤ e.2.order) ∧
          exec (.growDeadlock cl core) s = .next (s.relaunch e.1 0x22 false))))

/-! ### Commit points, errors -/

/-- R206, R208, R309, R326, R333 to R347: a commit point makes a window's stores committed in the core's L1 and its state the one
that a rollback restores, and writes its commit record into the first page of the crew's block; without that page the cast ends under
0x07; a timed one comes when its interval is over. A rollback restores the saved state and leaves memory as it was. A
line is written through, whole, unless it is pinned. A promotion commits the crew of its notice and writes through. A pair's windows
match or both copies go back. A checker's error rolls back, and the third relaunches; an error in a handler is a double fault; a
register that the log does not hold ends the cast; poison relaunches on another cluster, and the second ends the cast; an engine that
is reset drops the commands that it has not applied; lost dirty lines end the casts of the contexts that dirtied lines of the slice, and are reported. What
lost lines hold and the code of a repeated engine reset are free values (logs 18, 19), and so are the bytes of a commit record; where
it lies and what else a block holds (log 44), the places at which the copies of a pair close their windows (log 20), that COMMIT_POINT
may come at any time (log 49), and that poison consumed in a handler is contained and no double fault (log 67) are the model's
choices. -/
def Obligations.CommitEvents : Prop :=
  (∀ (cid : Nat) (s : State) (c : Crew), kvFind s.crews cid = some c → c.resident = true → c.copy = .solo →
    (s.commitWaits cid = true → exec (.commitPoint cid) s = .next s) ∧
    (s.commitWaits cid = false → s.areaGone cid = true →
      ∃ u, exec (.commitPoint cid) s = .next u ∧ Aborted s u cid c 0x07 0) ∧
    (s.commitWaits cid = false → s.areaGone cid = false → exec (.commitPoint cid) s = .next (s.commitNow cid)) ∧
    (s.dirtyLines c.cl c.core cid = [] → ∀ bs, bs = c.unc.map (fun u => (u.pa, u.val)) ++ c.body.pad.dirtyBytes →
      ∃ c', kvFind (s.commitNow cid).crews cid = some c' ∧ c'.unc = [] ∧ c'.padLog = [] ∧
      c'.regLog = [] ∧ c'.saved = c'.body ∧ c'.body.teams = c.body.teams ∧ c'.body.pad.dirty = [] ∧
      c'.body.pad.bytes = c.body.pad.bytes ∧ c'.lastCommit = s.cyc ∧
      (∀ a, (s.blockAddr c 0).map (· / 65536) ≠ some (a / 65536) → (s.commitNow cid).homeByte a = s.homeByte a) ∧
      (∀ a, s.blockAddr c 0 = some a → kvFind (s.commitNow cid).areas (a / 65536) = some s.tick) ∧
      SameRuns s (s.commitNow cid) cid ∧ (c.body.pad.dirty = [] → SameOthers s (s.commitNow cid) cid) ∧
      (∀ pa x, bs.reverse.find? (fun y => y.1 == pa) = some x →
        kvFind ((s.commitNow cid).l1 c.cl c.core).dirty pa = some x.2) ∧
      (∀ pa, bs.reverse.find? (fun y => y.1 == pa) = none →
        kvFind ((s.commitNow cid).l1 c.cl c.core).dirty pa = kvFind (s.l1 c.cl c.core).dirty pa)) ∧
    (∀ n, n = ckptInterval (s.ctx c.vf).ckpt →
      ((n = 0 ∨ c.sinceCommit s.cyc < n) → exec (.timedCommitPoint cid) s = .next s) ∧
      (n ≠ 0 → n ≤ c.sinceCommit s.cyc → exec (.timedCommitPoint cid) s = exec (.commitPoint cid) s)) ∧
    (s.savedBad c = true → ∃ u, exec (.rollback cid) s = .next u ∧ Aborted s u cid c 0x18 0) ∧
    (s.savedBad c = false →
     ∃ u c', exec (.rollback cid) s = .next u ∧ Restored u cid c ∧ u.hbm = s.hbm ∧ kvFind u.crews cid = some c' ∧
      c'.body.pad = { c.saved.pad with wanted := [] } ∧ c'.body.grant = c.saved.grant ∧ c'.body.claims = c.saved.claims ∧ SameOthers s u cid)) ∧
  (∀ (cl core line : Nat) (s : State),
    (s.pins.contains line = true →
      exec (.writeThrough cl core line) s = .next (s.askHolders (s.wtWith cl core [line]))) ∧
    (s.wtReady cl core [line] = false →
      exec (.writeThrough cl core line) s = .next (s.askHolders (s.wtWith cl core [line]))) ∧
    ((∀ k, s.stashHolders [] k = []) →
      (s.pins.contains line = false → (∀ n ∈ s.notices, n.line ≠ line ∨ n.cl ≠ cl ∨ n.core ≠ core) →
        s.l1Dirty cl core line ≠ [] → ∃ u, exec (.writeThrough cl core line) s = .next u ∧
        u.hbm = (s.setHomeBytes (s.l1Dirty cl core line)).hbm ∧ u.l1Dirty cl core line = [] ∧
        kvFind (u.l1 cl core).writers line = none) ∧
      (s.wtReady cl core [line] = true → (∃ n ∈ s.notices, n.line = line ∧ n.cl = cl ∧ n.core = core) →
        ∃ u, exec (.writeThrough cl core line) s = .next u ∧ ∀ l ∈ s.l1Lines cl core, u.l1Dirty cl core l = []))) ∧
  (∀ (line cl core : Nat) (s : State) (n : Notice),
    s.notices.filter (fun n => n.line == line && n.cl == cl && n.core == core) = [n] →
    (kvFind s.crews n.cid = none → s.coreHeld cl core [] = false → exec (.promotionRequest line cl core) s =
      .next { (s.wtCoreAt cl core) with
        notices := (s.wtCoreAt cl core).notices.filter (fun n => !(n.line == line && n.cl == cl && n.core == core)) }) ∧
    (∀ c, kvFind s.crews n.cid = some c → c.resident = true → c.copy = .solo → s.commitWaits n.cid = false →
      s.areaGone n.cid = false → (s.commitNow n.cid).coreHeld cl core [] = false → exec (.promotionRequest line cl core) s =
        .next { ((s.commitNow n.cid).wtCoreAt cl core) with
          notices := ((s.commitNow n.cid).wtCoreAt cl core).notices.filter
            (fun n => !(n.line == line && n.cl == cl && n.core == core)) })) ∧
  (∀ (lead trail : Nat) (s : State) (c t : Crew) (w v : Closed) (ws vs : List Closed), lead ≠ trail →
    kvFind s.crews lead = some c → kvFind s.crews trail = some t → c.copy = .lead → c.partner = trail → t.copy = .trail →
    t.partner = lead → c.closed = w :: ws → t.closed = v :: vs →
    exec (.windowCompare trail) s = exec (.windowCompare lead) s ∧
    (w.sig = v.sig → ∀ u, s.matchWindow lead trail c t w v = some u → exec (.windowCompare lead) s = .next u) ∧
    (w.sig = v.sig → s.matchWindow lead trail c t w v = none →
      exec (.windowCompare lead) s = .next (s.askHolders (s.l1Lines c.cl c.core ++ c.openLines))) ∧
    (w.sig ≠ v.sig → exec (.windowCompare lead) s = .next (s.pairMismatch lead (w.sig, v.sig)) ∧
      (c.mismatches < 2 → s.savedBad c = false → s.savedBad t = false → Restored (s.pairMismatch lead (w.sig, v.sig)) lead c ∧
        Restored (s.pairMismatch lead (w.sig, v.sig)) trail t ∧
        (s.pairMismatch lead (w.sig, v.sig)).hbm = s.hbm))) ∧
  (∀ (cid : Nat) (s : State) (c : Crew), kvFind s.crews cid = some c → c.resident = true → c.copy = .solo →
    (∃ u, exec (.pipelineError cid .record) s = .next u ∧ Aborted s u cid c 0x18 0) ∧
    (∃ u, exec (.uncorrectableRegister cid .corrected) s = .next u ∧ u = { s with regErrs := u.regErrs } ∧
      ∀ k, kvGet 0 u.regErrs k = kvGet 0 s.regErrs k + if k = 4 * c.cl + c.core then 1 else 0) ∧
    (∀ x q r, kvFind c.body.seqs x = some q → exec (.uncorrectableRegister cid (.context x r)) s = .next (s.rollback cid)) ∧
    (c.perrs < 2 → s.savedBad c = false → ∃ u, exec (.pipelineError cid .array) s = .next u ∧ Restored u cid c ∧
      (kvFind u.crews cid).map Crew.perrs = some (c.perrs + 1)) ∧
    (2 ≤ c.perrs → exec (.pipelineError cid .array) s = .next ((s.countArray c.cl 0).contain cid 0x18 0)) ∧
    (∀ t tm, s.team? cid t = some tm →
      (s.handlerPc cid t = none → c.perrs < 2 → s.savedBad c = false → ∃ u, exec (.pipelineError cid (.team t)) s = .next u ∧ Restored u cid c) ∧
      (∀ pc, s.handlerPc cid t = some pc →
        exec (.pipelineError cid (.team t)) s =
          .next ((s.countSlot c.cl c.core tm.slot).doubleFault cid (BitVec.ofNat 64 pc))) ∧
      (∀ r, s.handlerPc cid t = none → exec (.uncorrectableRegister cid (.uniform t r)) s = .next (s.rollback cid) ∧
        exec (.uncorrectableRegister cid (.mask t r)) s = .next (s.rollback cid)) ∧
      (∀ v g, s.handlerPc cid t = none →
        (c.regLog.contains (t, vkey v g) = true →
          exec (.uncorrectableRegister cid (.vector t v g)) s = .next (s.rollback cid)) ∧
        (c.regLog.contains (t, vkey v g) = false →
          ∃ u, exec (.uncorrectableRegister cid (.vector t v g)) s = .next u ∧ Aborted s u cid c 0x19 0)) ∧
      (∀ pc r, s.handlerPc cid t = some pc →
        exec (.uncorrectableRegister cid (.uniform t r)) s = .next (s.doubleFault cid (BitVec.ofNat 64 pc)))) ∧
    (∀ pc, 1 ≤ c.dfaults → Aborted s (s.doubleFault cid pc) cid c 0x1F pc) ∧
    (∀ pa, (c.relaunched = none → s.savedBad c = false → s.dirtyLines c.cl c.core cid = [] → ∃ u, exec (.poisonedDataConsumed cid pa) s = .next u ∧
        (kvFind u.crews cid = none → u.cast? c.vf c.key = none) ∧
        (∀ c', kvFind u.crews cid = some c' → Restored u cid c ∧ c'.resident = false ∧ c'.requeued = true ∧ c'.skip = [c.cl] ∧
          c'.relaunched = some 0x1A) ∧
        (c.saved.pad.size = 0 → (∀ e ∈ c.saved.teams, e.2.v = []) → c.saved.grant = none →
          (∀ e ∈ c.saved.seqs, e.2.ended = true) → kvFind u.crews cid ≠ none)) ∧
      (∀ code, c.relaunched = some code → ∃ u, exec (.poisonedDataConsumed cid pa) s = .next u ∧
        Aborted s u cid c code (if code = 0x1A then BitVec.ofNat 64 pa else 0)))) ∧
  (∀ (cl : Nat) (s : State), ∃ u, exec (.engineReset cl) s = .next u ∧
    (∀ m ∈ (u.cluster cl).mq, m.applied = true) ∧
    (s.engineCrews cl = [] → u.pins = unpin s.pins
        (((s.cluster cl).mq.filter (fun m => !m.applied)).flatMap Cmd.pinned) ∧
      (u.cluster cl).mq = (s.cluster cl).mq.filter Cmd.applied ∧ u.crews = s.crews)) ∧
  (∀ (die slice : Nat) (lines : List Nat) (s : State),
    ((Config.dies ≤ die ∨ Config.slicesPerDie ≤ slice) → exec (.l2TagParity die slice lines) s = .next s) ∧
    (die < Config.dies → slice < Config.slicesPerDie → ∃ u, exec (.l2TagParity die slice lines) s = .next u ∧
      (∀ e ∈ u.l2, s.homeSlice e.1 = Config.slicesPerDie * die + slice → e.1 ∉ lines) ∧
      (∀ e ∈ s.l2, s.homeSlice e.1 = Config.slicesPerDie * die + slice → ∀ vf ∈ e.2.dirty,
        Report.uncontained die slice vf ∈ u.hostLog ∧ (u.ctx vf).casts = []) ∧
      (∀ r ∈ s.hostLog, r ∈ u.hostLog)))

/-! ### Dispatcher and wave former -/

/-- R24, R165 to R170, R174 to R188, R302: the dispatcher takes the packet at the head of a queue, advances HEAD, and enters its cast
or refuses it with a cause; a waiting cast starts once all its wait words have reached their targets; a cast passed over for a period
rises by one; a cast whose residency condition holds places its crews where they fit; the completion word of a cast rises by one after
its last crew; a wave admits sealed items, no two of which conflict. That a crew's placement is an acquire is read by inference (log
24). -/
def Obligations.DispatcherEvents : Prop :=
  (∀ (vf q dpa p va seq : Nat) (d : QDesc) (s u : State), s.nextQueue vf = some q → (s.ctx vf).casts.length < 64 →
    s.served vf q = some (dpa, d) → s.notices = [] → s.storable (lineOf dpa) = true → (∀ k, s.stashHolders [] k = []) →
    s.devNat vf (d.slot d.head) 16 = some p → va = p % 2 ^ 64 → seq = p / 2 ^ 64 →
    u = ((s.devTouch vf (s.devLines vf (d.slot d.head) 16 ++
        (List.range 4).flatMap (fun k => s.devLines vf (va + 128 * k) 128))).perform vf
        (numBytes (dpa + 0x18) 8 (d.head + 1)) true).modCtx vf (fun c =>
      { c with rr := q, pktAuth := kvDel c.pktAuth (2 ^ 40 * q + d.head) }) →
    u.hbm = (s.setHomeBytes (numBytes (dpa + 0x18) 8 (d.head + 1))).hbm ∧
    (∀ cause, u.refusal vf va (s.devNat vf va 512) (kvFind (s.ctx vf).pktAuth (2 ^ 40 * q + d.head)) = some cause →
      exec (.dispatchPacket vf q) s = .next (u.perform vf (numBytes (dpa + 0x20) 8 seq ++ numBytes (dpa + 0x28) 4 cause ++
        numBytes (dpa + 0x2C) 4 (min (2 ^ 32 - 1) (d.rcount + 1))) true)) ∧
    (u.refusal vf va (s.devNat vf va 512) (kvFind (s.ctx vf).pktAuth (2 ^ 40 * q + d.head)) = none →
      ∃ v t k, s.devNat vf va 512 = some v ∧ t = u.enterCast vf q seq va v ∧
        exec (.dispatchPacket vf q) s = .next (t.readWaits vf (u.ctx vf).nextKey) ∧
        t.cast? vf (u.ctx vf).nextKey = some k ∧ k.st = .waiting ∧ k.queue = q ∧ k.seq = seq ∧
        k.record = BitVec.ofNat 64 va ∧ k.launch = launchOf v ∧ k.next = 0 ∧ k.retired = 0 ∧ t.hbm = u.hbm)) ∧
  (∀ (vf key : Nat) (s : State) (k : Cast), s.cast? vf key = some k → k.st = .waiting → k.reached.length = 4 →
    ((∀ i, i < 4 → k.reached.getD i false = true ∨ (k.launch.waits.getD i (0, 0)).1 = 0) →
      ∃ u k', exec (.waitWordRead vf key) s = .next u ∧ u.cast? vf key = some k' ∧ k'.st = .gated ∧ k'.started = s.cyc ∧
        k'.launch = k.launch) ∧
    (∀ va tgt pa p e, s.notices = [] → k.reached.getD 0 false = false → k.launch.waits.getD 0 (0, 0) = (va, tgt) → va ≠ 0 →
      (∀ i, 0 < i → i < 4 → k.reached.getD i false = true) → s.devAddr vf (0, 0) va 8 = .ok (pa, p, e) →
      ∃ u k', exec (.waitWordRead vf key) s = .next u ∧ u.cast? vf key = some k' ∧
        k'.st = (if tgt.toNat ≤ (s.home64 pa).toNat then .gated else .waiting))) ∧
  (∀ (vf key : Nat) (s : State) (k : Cast), s.cast? vf key = some k →
    (k.st = .dispatching ∨ k.st = .draining) → s.running vf = true →
    (k.period + 2 ^ 20 ≤ s.cyc → ∃ u, exec (.priorityPeriodEnd vf key) s = .next u ∧ u.cast? vf key =
      some { k with raise := if k.others && k.held then k.raise + 1 else k.raise, others := false, period := k.period + 2 ^ 20
                    held := s.unplaced vf key k }) ∧
    (s.cyc < k.period + 2 ^ 20 → exec (.priorityPeriodEnd vf key) s = .next s)) ∧
  (∀ (vf key n : Nat) (s : State) (p : Part) (k : Cast), s.partOf vf = some (n, p) → s.cast? vf key = some k →
    s.running vf = true → k.st ≠ .waiting →
    ((s.sliceOver n p vf = true ∨ s.periodsDue vf = true) → exec (.crewPlace vf key) s = .next s) ∧
    (s.sliceOver n p vf = false → s.periodsDue vf = false →
    (k.gate = false → s.residencyMet vf k.launch.resid = false → exec (.crewPlace vf key) s = .next s) ∧
    (k.gate = false → s.residencyMet vf k.launch.resid = true → ∃ u, exec (.crewPlace vf key) s = .next u ∧
      u.cast? vf key = some (k.open s.cyc)) ∧
    (∀ x, k.gate = true → (s.offers vf).find? (fun e => (s.placeFor vf e.1 e.2 (s.liveClusters p)).isSome ||
        (s.spillFor vf e.1 e.2 (s.liveClusters p)).isSome) = some (key, x) →
      (∀ w, s.placeFor vf key k (s.liveClusters p) = some w → exec (.crewPlace vf key) s = .next (s.place vf key k w) ∧
        (∀ b bs, s.nextCrew vf key k = .new → s.freeBlocks vf = b :: bs → w.2 = none →
          ((s.newCrew vf key k .solo 0 b w.1).notePlaced vf key true).areaGone s.nextCid = false →
          ∃ c, kvFind (s.place vf key k w).crews s.nextCid = some c ∧ c.vf = vf ∧ c.key = key ∧ c.index = k.next ∧
            c.cl = w.1.1 ∧ c.core = w.1.2 ∧ c.block = b ∧ c.copy = .solo ∧ c.resident = true ∧ c.saved = c.body ∧
            c.body.teams.length = k.launch.teams)) ∧
      (∀ u w, s.placeFor vf key k (s.liveClusters p) = none → s.spillFor vf key k (s.liveClusters p) = some u →
        u.placeFor vf key k (s.liveClusters p) = some w → exec (.crewPlace vf key) s = .next (u.place vf key k w))))) ∧
  (∀ (vf key : Nat) (s : State) (k : Cast), s.cast? vf key = some k → k.st = .draining → k.launch.crews ≤ k.retired →
    s.castCrews vf key = [] →
    (k.launch.done = 0 → ∃ u, exec (.castCompletionRelease vf key) s = .next u ∧ u.cast? vf key = none ∧
      (u.ctx vf).aborts = (s.ctx vf).aborts ∧ u.hbm = s.hbm) ∧
    (∀ pa p e, k.launch.done ≠ 0 →
      s.devLoc vf ((s.ctx vf).spva.toNat, k.launch.spad) k.launch.done 8 true = .ok (pa, p, e) →
      (s.badSpan pa 8 = false → s.storable (lineOf pa) = true → (∀ x, s.stashHolders [] x = []) →
        ∃ u, exec (.castCompletionRelease vf key) s = .next u ∧
        u.cast? vf key = none ∧ (u.ctx vf).aborts = (s.ctx vf).aborts ∧
        u.hbm = ((s.setAD vf p true).setHomeBytes (numBytes pa 8 (((s.setAD vf p true).home64 pa).toNat + 1))).hbm) ∧
      (s.badSpan pa 8 = true → ∃ u, exec (.castCompletionRelease vf key) s = .next u ∧ u.cast? vf key = none ∧
        u.hbm = (s.setAD vf p true).hbm ∧
        (u.ctx vf).aborts.getLast? = some { record := k.record, seq := k.seq, queue := k.queue, code := 0x1A, kind := 1
                                            detail := BitVec.ofNat 64 k.launch.done })) ∧
    (∀ code sub, k.launch.done ≠ 0 →
      s.devLoc vf ((s.ctx vf).spva.toNat, k.launch.spad) k.launch.done 8 true = .error (code, sub) → (code, sub) ≠ (0x07, 1) →
      ∃ u, exec (.castCompletionRelease vf key) s = .next u ∧ u.cast? vf key = none ∧ u.hbm = s.hbm ∧
        (u.ctx vf).aborts.getLast? = some { record := k.record, seq := k.seq, queue := k.queue, code := code, kind := 1
                                            detail := BitVec.ofNat 64 k.launch.done })) ∧
  (∀ (vf key : Nat) (s : State) (k : Cast), s.cast? vf key = some k →
    (k.wave = [] → exec (.waveForm vf key) s = .next s) ∧
    (k.wave ≠ [] → s.castCrews vf key = [] → ∃ u k', exec (.waveForm vf key) s = .next u ∧ u.cast? vf key = some k' ∧
      k'.waves = k.waves + 1 ∧ (∀ i ∈ k.wave, (k'.item i).wave = k.waves + 1) ∧
      ∀ i, i ∉ k.wave → k'.item i = k.item i) ∧
    (∀ cs, k.wave ≠ [] → cs = (s.castCrews vf key).filter (fun cid => (kvFind s.crews cid).any (fun c => k.wave.contains c.index)) →
      cs.all s.admittable = true → exec (.waveForm vf key) s = .next
        ((cs.foldl State.admitCrew (s.modCast vf key (fun x => { x with
          waves := x.waves + 1
          items := k.wave.foldl (fun m i => kvSet m i { kvGet ({} : Item) m i with wave := x.waves + 1 }) x.items }))).recordCast
          vf key 3 (k.wave.flatMap (leBytes 4))))) ∧
  (∀ (k : Cast) (i j : Nat), kvSorted k.items = true → i ∈ k.wave → j ∈ k.wave →
    (k.item i).isSealed = true ∧ (k.item i).finished = false ∧ (k.item i).wave = 0 ∧
    (i ≠ j → conflict (k.item i) (k.item j) = false))

/-! ### Events of the engines -/

/-- R244, R245, R260 to R262, R264, R271, R273 to R275, R280 to R286, R290, R295 to R299, R380, R384 to R386: an engine takes a
command and checks its records; a FORK that fits is granted; tile fetch pins a line; the array adds a block to each element exactly
and rounds or saturates once; a copied line arrives with the join of its sources; a command ends with one arrival; an XFER takes its
place among those of its group, the first exchange of a step compares them, and the step gathers its ranks' parts and writes them under
the handle's label, or fails at each rank of this module with the first code. The model's choices are that a copy into memory writes
its lines in one step (log 38), how ranks of a group are matched and a failed one is told (log 41), where a slot lies in the handle's
blocks (log 44), that an arrival in memory is a commit point (log 29), and the order of a sequencer's contexts (log 72); bytes of an
overlapping copy and of a failed step are free values (logs 16, 9). -/
def Obligations.EngineEvents : Prop :=
  (∀ (cl : Nat) (copy : Bool) (s : State) (m : Cmd) (c : Crew),
    (s.nextCmd cl copy = none → exec (.commandAccept cl copy) s = .next s) ∧
    (s.nextCmd cl copy = some m → kvFind s.crews m.cid = some c →
      (∀ ty i32 n t, m.kind = .mma ty i32 n → c.body.grant.bind (fun g => g.tiles[n]?) = some t →
        (t.poison = true → exec (.commandAccept cl copy) s = .next ((s.accepted m).failMma cl m n 0x15)) ∧
        (∀ fc s1, t.poison = false →
          (s.accepted m).engRecords c.vf cl (m.ap c) m.pkr m.sh (· == mmaFmt ty) = (.error fc, s1) →
          exec (.commandAccept cl copy) s = .next (s1.failMma cl m n fc)) ∧
        (∀ a b s1, t.poison = false →
          (s.accepted m).engRecords c.vf cl (m.ap c) m.pkr m.sh (· == mmaFmt ty) = (.ok (a, b), s1) →
          exec (.commandAccept cl copy) s = .next (if mmaRecsOk ty a b then
            s1.modCmd cl m.op (fun m => { m with st := .accepted, recs := some (a, b) }) else s1.failMma cl m n 0x01))) ∧
      (∀ s0, m.kind = .tcopy →
       s0 = (if m.alone then (s.accepted m).modCrew m.cid (fun c => c.markDone m) else s.accepted m) → (∀ fc s1,
        s0.engRecords c.vf cl (m.ap c) m.pkr m.sh (fun _ => true) = (.error fc, s1) →
        exec (.commandAccept cl copy) s = .next (s1.modCmd cl m.op (fun x => { x with st := .accepted, fc := some fc }))) ∧
       (∀ a b s1 lines,
        s0.engRecords c.vf cl (m.ap c) m.pkr m.sh (fun _ => true) = (.ok (a, b), s1) →
        lines = (if inAperture (m.ap c) (b.base : Int) 1 then destLines (m.ap c) b else []) →
        ((a.ty ≠ b.ty ∨ a.box ≠ b.box ∨ a.rank ≠ b.rank) → exec (.commandAccept cl copy) s =
          .next (s1.modCmd cl m.op (fun x => { x with st := .accepted, fc := some 0x01, todo := lines.foldl addOnce x.todo }))) ∧
        (a.ty = b.ty → a.box = b.box → a.rank = b.rank → c.body.pad.stashed lines = true → exec (.commandAccept cl copy) s =
          .next (s1.modCmd cl m.op (fun x => { x with st := .accepted, fc := some 0x06, todo := lines.foldl addOnce x.todo }))) ∧
        (a.ty = b.ty → a.box = b.box → a.rank = b.rank → inAperture (m.ap c) (b.base : Int) 1 = false →
          inAperture (m.ap c) (a.base : Int) 1 = false → m.todo = [] →
          ∃ u m', exec (.commandAccept cl copy) s = .next u ∧ (s1.cmd? cl m.op = some m → u.cmd? cl m.op = some m') ∧
            m'.st = .accepted ∧ m'.recs = some (a, b) ∧ m'.fc = m.fc ∧ m'.todo = []))) ∧
      (∀ red a b s1, m.kind = .xfer red →
        (s.accepted m).engRecords c.vf cl (m.ap c) m.pkr m.sh (fun _ => true) = (.ok (a, b), s1) →
        ((extOk red b = false ∨ a.ty ≠ b.ty ∨ a.box ≠ b.box ∨ a.rank ≠ b.rank) → exec (.commandAccept cl copy) s = .next
          ((s1.modCmd cl m.op (fun x => { x with st := .accepted, recs := none, fc := some 0x01 })).post cl c.vf m red b
            (some 0x01))) ∧
        (extOk red b = true → a.ty = b.ty → a.box = b.box → a.rank = b.rank →
          (s1.memberOk c.vf b = false → exec (.commandAccept cl copy) s = .next
            ((s1.modCmd cl m.op (fun x => { x with st := .accepted, recs := none, fc := some 0x1D })).post cl c.vf m red b
              (some 0x1D))) ∧
          (s1.memberOk c.vf b = true → inAperture (m.ap c) (a.base : Int) 1 = false →
            inAperture (m.ap c) (b.base : Int) 1 = false → exec (.commandAccept cl copy) s = .next
              ((s1.modCmd cl m.op (fun x => { x with st := .accepted, recs := some (a, b), fc := none })).post cl c.vf m red b
                none)))))) ∧
  (∀ (s : State) (cl vf : Nat) (m : Cmd) (red : Bool) (b : ShapeRec) (fc : Option Nat) (h : Handle), s.handle? vf b.handle = some h →
    ∃ p, ((s.post cl vf m red b fc).ctx vf).posts = (s.ctx vf).posts ++ [p] ∧ p.handle = b.handle ∧ p.fc = fc ∧ p.red = red ∧
      p.key.jobkey = h.reg.jobkey ∧ p.key.ranks = h.reg.ranks ∧ p.key.rank = myRank b ∧
      p.key.step = ((s.ctx vf).posts.filter (fun q => q.key.jobkey == h.reg.jobkey && q.key.ranks == h.reg.ranks &&
        q.key.rank == myRank b)).length) ∧
  (∀ (s : State) (vf n : Nat) (k : PostKey), s.verdict vf k n = .go → ∀ q ∈ s.localRanks k n, ∃ e ∈ s.stepPosts k,
    e.2.key.rank = q ∧ e.2.fc = none ∧ ∀ p, (s.ctx vf).posts.find? (fun p => p.key == k) = some p → p.agrees e.2 = true) ∧
  (∀ (cid t fn a b k : Nat) (s : State) (c : Crew) (tm : Team) (th : Thread), kvFind s.crews cid = some c →
    s.team? cid t = some tm → tm.frags = [(fn, th)] → th.park = .fork →
    decode .supervisor (th.clause.getD th.slot 0) = .ok (.fork a b k) → c.resident = true → c.body.grant = none →
    (s.forkFits c.cl (s.readS (.frag cid t fn) k).val.toNat (s.readS (.frag cid t fn) a).val
        (s.readS (.frag cid t fn) b).val = false → exec (.forkGrant cid t) s = .next s) ∧
    (s.forkFits c.cl (s.readS (.frag cid t fn) k).val.toNat (s.readS (.frag cid t fn) a).val
        (s.readS (.frag cid t fn) b).val = true → exec (.forkGrant cid t) s =
      .next ((s.grantFork cid t fn (s.readS (.frag cid t fn) k).val.toNat (s.readS (.frag cid t fn) a).val
        (s.readS (.frag cid t fn) b).val).modThread (.frag cid t fn) (fun th => { th with park := .granted })))) ∧
  (∀ (cl op n : Nat) (s : State) (m : Cmd) (ty : Ty) (i32 : Bool) (a b : ShapeRec) (c : Crew), s.cmd? cl op = some m →
    m.kind = .mma ty i32 n → m.recs = some (a, b) → kvFind s.crews m.cid = some c → m.fc = none → m.k < kBlocks a →
    (m.begun = false → s.frinvs ≠ [] → exec (.tileFetchLine cl op) s = .next s) ∧
    (∀ line, m.nextLine a b = some line → (m.begun = true ∨ s.frinvs = []) →
      (∀ va sub, s.engAccess c.vf cl (m.ap c) m.pkr .load (128 * line : Nat) 128 = .error (.wait va sub) → sub ≠ 1 →
        exec (.tileFetchLine cl op) s = .next (s.failMma cl m n 0x16)) ∧
      (∀ pa e s1 m', s.engAccess c.vf cl (m.ap c) m.pkr .load (128 * line : Nat) 128 = .ok (pa, e, s1) →
        (s1.bad (lineOf pa) = true →
          exec (.tileFetchLine cl op) s = .next ((s1.tell c.vf (lineOf pa)).failMma cl m n 0x1A)) ∧
        (s1.bad (lineOf pa) = false → pteMs e = true →
          m' = { m with lines := kvSet m.lines line (2 * lineOf pa + 1), flabs := m.flabs ++ [s1.granLab (lineOf pa)] } →
          State.mixed { (s1.modCmd cl m.op (fun _ => m')) with pins := lineOf pa :: s1.pins } m' ((codeFmt ty).getD 0) a b =
            false →
          exec (.tileFetchLine cl op) s =
            .next { (s1.modCmd cl m.op (fun _ => m')) with pins := lineOf pa :: s1.pins }))) ∧
    ((s.arrayNext cl).map Cmd.op ≠ some op → exec (.mmaKBlock cl op) s = .next s) ∧
    ((s.arrayNext cl).map Cmd.op = some op → s.mixed m ((codeFmt ty).getD 0) a b = true →
      exec (.mmaKBlock cl op) s = .next (s.failMma cl m n 0x23)) ∧
    ((s.arrayNext cl).map Cmd.op = some op → s.mixed m ((codeFmt ty).getD 0) a b = false →
     ∀ t, c.body.grant.bind (fun g => g.tiles[n]?) = some t →
      (joinAllIn (s.ctx c.vf).labels t.lab (m.flabs.eraseDups ++ m.labs) = none →
        exec (.mmaKBlock cl op) s = .next (s.failMma cl m n 0x10)) ∧
      (∀ l tab, joinAllIn (s.ctx c.vf).labels t.lab (m.flabs.eraseDups ++ m.labs) = some (l, tab) →
        s.tileLogs m.cid n = true → ∃ u c', exec (.mmaKBlock cl op) s = .next u ∧ kvFind u.crews m.cid = some c' ∧
          c'.body.grant.bind (fun g => g.tiles[n]?) = some { s.addBlock m ty i32 a b t with lab := l } ∧
          (u.ctx c.vf).labels = tab ∧ (u.cluster cl).lastBlock = ctxNum m.ag ∧ c'.body.teams = c.body.teams ∧
          (c.tileLog.contains n = true → u.hbm = s.hbm)))) ∧
  (∀ (s : State) (m : Cmd) (ty : Ty) (a b : ShapeRec) (t : Tile) (x y : Nat), x < 128 → y < 128 →
    (s.addBlock m ty true a b t).at x y = accumInt (t.at x y) (blockInt
      ((s.operand m ty a true x).1.map (codeInt ty)) ((s.operand m ty b false y).1.map (codeInt ty))) ∧
    (s.addBlock m ty false a b t).at x y = accumFp (t.at x y)
      (blockSum ((s.operand m ty a true x).1.map (codeFp ty (s.operand m ty a true x).2))
        ((s.operand m ty b false y).1.map (codeFp ty (s.operand m ty b false y).2)))
      (((s.operand m ty a true x).2 : Int) + ((s.operand m ty b false y).2 : Int) - 254)) ∧
  (∀ (cl op : Nat) (s : State) (m : Cmd), s.cmd? cl op = some m → m.st = .accepted → m.wants = none →
    (∀ ty i32 n, m.kind = .mma ty i32 n → m.applied = true → exec (.mmaCompletion cl op) s = .next (s.completeCmd cl m)) ∧
    (∀ c, m.kind = .tcopy → kvFind s.crews m.cid = some c →
      (m.written = true → exec (.copyCompletion cl op) s = .next (s.completeCmd cl m)) ∧
      (m.written = false →
        (∀ a b, m.fc = none → m.recs = some (a, b) →
          (inAperture (m.ap c) (b.base : Int) 1 = true → m.todo = [] → exec (.copyCompletion cl op) s =
            .next (s.finishWrites cl { m with fc := if pastPad (m.ap c) b then some 0x06 else none })) ∧
          (∀ u l, inAperture (m.ap c) (b.base : Int) 1 = false →
            State.copyLines s cl c m a b s (memLines b) = (some (.pinned l), u) →
            exec (.copyCompletion cl op) s = .next (s.askHolders [l])) ∧
          (∀ u, inAperture (m.ap c) (b.base : Int) 1 = false → State.copyLines s cl c m a b s (memLines b) = (none, u) →
            exec (.copyCompletion cl op) s = .next (u.finishWrites cl m)) ∧
          (∀ u fc, inAperture (m.ap c) (b.base : Int) 1 = false →
            State.copyLines s cl c m a b s (memLines b) = (some (.code fc), u) →
            exec (.copyCompletion cl op) s = .next (u.finishWrites cl { m with fc := some fc })) ∧
          (∀ u l, inAperture (m.ap c) (b.base : Int) 1 = false →
            State.copyLines s cl c m a b s (memLines b) = (some (.poisoned l), u) →
            exec (.copyCompletion cl op) s = .next ((u.tell c.vf l).finishWrites cl { m with fc := some 0x1A }))) ∧
        (∀ fc, m.fc = some fc → exec (.copyCompletion cl op) s =
          .next ((s.modCrew m.cid (fun c => c.failLines m m.todo)).finishWrites cl m)))) ∧
    (∀ l, s.ctHeld cl m = some l → s.completeCmd cl m = s.askHolders [l]) ∧
    (∀ s0 s1, s.ctHeld cl m = none → s.arrivalCommits m = some s0 → s0.arrive cl m = .ok s1 → s.completeCmd cl m =
      (((match m.fc with
        | some fc => s1.record m.cid 6 (s0.agentTeam m.ag) [BitVec.ofNat 8 fc]
        | none => s1).dropCmd cl m.op).endGrant
        m.cid).retireCrew m.cid)) ∧
  (∀ (s : State) (cl op : Nat), (s.dropCmd cl op).cmd? cl op = none) ∧
  (∀ (cl op line : Nat) (s s1 : State) (m : Cmd) (a b : ShapeRec) (c : Crew) (ws : List (Nat × Byte × Byte)) (ls : List Lbl)
    (mine : Nat → Bool) (l : Lbl) (tab : List (BitVec 64)), s.cmd? cl op = some m → m.kind = .tcopy → m.recs = some (a, b) →
    kvFind s.crews m.cid = some c → m.fc = none → m.wants = none → line ∈ m.todo → m.orphan = false →
    (∀ va, mine va = (decide ((m.ap c).1 ≤ va) && padLine (padOf m c va) == line)) →
    State.copyUnit s cl c m a b mine s (unitElems b mine) = (.ok (ws, ls), s1) → kvFind s1.crews m.cid = some c →
    s1.padRoom m.cid line = (true, s1) → s1.l1Has c 1 = true →
    joinAllIn (s1.ctx c.vf).labels 0 (ls.eraseDups ++ [m.pcl] ++
      (if (List.range 128).all (fun k => ((ws.filter (fun w => padOf m c w.1 == 128 * line + k)).foldl
          (fun x w => x ||| w.2.1) (0 : Byte)) == 0xFF) then [] else [c.body.pad.lab line])) = some (l, tab) →
    ∃ u c', exec (.scratchpadLineArrival cl op line) s = .next u ∧ kvFind u.crews m.cid = some c' ∧
      c'.body.pad.lab line = l ∧ line ∉ c'.body.pad.absent ∧ line ∉ c'.body.pad.failed ∧
      c'.body.pad.bytes = (ws.map (fun w => (padOf m c w.1, w.2))).foldl (fun x w =>
        kvPut 0 x w.1 (mergeByte (kvGet 0 x w.1) w.2.1 w.2.2)) c.body.pad.bytes ∧
      line ∈ c'.padLog ∧ (u.ctx c.vf).labels = tab ∧ u.hbm = s1.hbm ∧
      ∀ t tm, kvFind c.body.teams t = some tm → ∃ tm', kvFind c'.body.teams t = some tm' ∧ tm'.s = tm.s ∧ tm'.m = tm.m ∧
        tm'.v = tm.v) ∧
  (∀ (cl op dest : Nat) (who : RankMsg) (data : List Byte) (owners : BitVec 64) (s : State) (m : Cmd) (red : Bool)
    (a b : ShapeRec) (c : Crew) (k : PostKey) (h : Handle), s.xferCmd cl op = some (m, red, a, b, c) → m.post = some k →
    s.handle? c.vf b.handle = some h → m.wants = none →
    (m.fc = none → s.fabricId.isSome = true → who.rank < gridSize b →
      (∀ fc, s.verdict c.vf k (gridSize b) = .fail fc →
        exec (.xferChunk cl op who data) s = .next (s.failXfer cl c.vf m fc)) ∧
      (s.verdict c.vf k (gridSize b) = .wait → exec (.xferChunk cl op who data) s = .next s) ∧
      (s.verdict c.vf k (gridSize b) = .go →
        (h.lists who = false → exec (.xferChunk cl op who data) s = .next (s.failXfer cl c.vf m 0x1D)) ∧
        (h.lists who = true → who.fc ≠ 0 → s.fabricId ≠ some who.fab →
          exec (.xferChunk cl op who data) s = .next (s.failXfer cl c.vf m (who.fc % 64))) ∧
        (h.lists who = true → (who.fc = 0 ∨ s.fabricId = some who.fab) →
          (red = true → (s.ctx c.vf).posts.any (fun p => p.key == k && p.slot.isNone) = true →
            exec (.xferChunk cl op who data) s = .next s) ∧
          ((red = true → (s.ctx c.vf).posts.any (fun p => p.key == k && p.slot.isNone) = false) →
            (who.rank = myRank b → (eager a = true ∨ m.ready.isSome = true) →
              exec (.xferChunk cl op who data) s = .next (s.contribute cl c m k a b h)) ∧
            (who.rank = myRank b → eager a = false → m.ready = none →
              exec (.xferChunk cl op who data) s = .next (s.formReady cl c m red b)) ∧
            (who.rank ≠ myRank b → s.fabricId = some who.fab →
              exec (.xferChunk cl op who data) s = .next (s.takeNear cl c m k a b h who.rank)) ∧
            (who.rank ≠ myRank b → s.fabricId ≠ some who.fab →
              exec (.xferChunk cl op who data) s = .next (s.takeFar cl c m a b h who.rank data)))))) ∧
    (∀ bs ls s1, kvFind m.contrib (myRank b) = none → (contributors b).contains (myRank b) = true → eager a = false →
      State.ownBox cl c m a s (boxElems a) = (.ok (bs, ls), s1) → s.contribute cl c m k a b h =
        (if s1.contribOwners c.vf m ls &&& ~~~((s1.ctx c.vf).owners h.lab) = 0 then
          s1.modCmd cl m.op (fun m => { m with contrib := kvSet m.contrib (myRank b) bs, flabs := ls.eraseDups })
         else s1.failXfer cl c.vf m 0x0C)) ∧
    (m.fc = none → eager a = false → who.rank < gridSize b → s.fabricId.isSome = true → s.fabricId ≠ some who.fab →
      dest < 2 ^ 64 → (kvFind m.contrib (myRank b)).isSome = true → exec (.readyToReceive cl op who dest owners) s = .next
        (if h.lists who = false then s.failXfer cl c.vf m 0x1D
         else if s.contribOwners c.vf m m.flabs &&& ~~~owners = 0
         then s.modCmd cl op (fun m => { m with sent := addOnce m.sent who.rank })
         else s.failXfer cl c.vf m 0x0C)) ∧
    (m.written = true → exec (.xferStepCompletion cl op) s = .next (s.completeCmd cl m)) ∧
    (m.written = false →
      (∀ fc, m.fc = some fc → exec (.xferStepCompletion cl op) s = .next
        ((State.xferSpoil cl c m h.lab s (xferUnits b (s.failedElems cl c m red a b))).finishWrites cl m)) ∧
      (∀ fc, m.fc = none → s.verdict c.vf k (gridSize b) = .fail fc →
        exec (.xferStepCompletion cl op) s = .next (s.failXfer cl c.vf m fc)) ∧
      (m.fc = none → s.verdict c.vf k (gridSize b) = .wait → exec (.xferStepCompletion cl op) s = .next s) ∧
      (m.fc = none → s.verdict c.vf k (gridSize b) = .go →
        (m.complete (s.localRanks k (gridSize b)) a b = false → exec (.xferStepCompletion cl op) s = .next s) ∧
        (∀ o u, m.complete (s.localRanks k (gridSize b)) a b = true →
          State.xferPut cl c m h.lab s (xferUnits b (xferElems red b ((contributors b).map (kvGet [] m.contrib)))) = (o, u) →
          (o = none → exec (.xferStepCompletion cl op) s = .next (u.finishWrites cl m)) ∧
          (∀ fc, o = some (.code fc) →
            exec (.xferStepCompletion cl op) s = .next (u.failXfer cl c.vf m (if fc = 0x0A then 0x0C else fc))))))) ∧
  (∀ (vf hn head n : Nat) (who : RankMsg) (data : List Byte) (s : State) (x : Handle), s.handle? vf hn = some x →
    (x.lists who = true → s.fabricId.isSome = true → s.fabricId ≠ some who.fab →
      (∀ pa, (kvGet [] x.inbox who.rank).length < 8 → data.length ≤ 4096 →
        s.slotAddr vf x who.rank (kvGet 0 x.moved who.rank + (kvGet [] x.inbox who.rank).length) = some pa → pa < 2 ^ 39 →
        ∃ u y, exec (.eagerSlotWrite vf hn who data) s = .next u ∧ u.handle? vf hn = some y ∧
          kvGet [] y.inbox who.rank = kvGet [] x.inbox who.rank ++ [data.length] ∧
          (∀ j, j < data.length → u.homeByte (pa + j) = data.getD j 0) ∧
          (∀ j, j < 32 → u.granLab (lineOf pa + j) = x.lab)) ∧
      (kvGet 0 x.freed who.rank ≤ head → head ≤ kvGet 0 x.freed who.rank + kvGet 0 x.used who.rank →
        ∃ u y, exec (.slotReleaseNotice vf hn who head) s = .next u ∧ u.handle? vf hn = some y ∧
          kvGet 0 y.used who.rank = kvGet 0 x.used who.rank - (head - kvGet 0 x.freed who.rank) ∧
          kvGet 0 y.freed who.rank = head)) ∧
    (x.lists who = true → 8 ≤ (kvGet [] x.inbox who.rank).length → exec (.eagerSlotWrite vf hn who data) s = .next s) ∧
    (x.lists who = false → s.fabricId.isSome = true → s.fabricId ≠ some who.fab →
      exec (.eagerSlotWrite vf hn who data) s = .next (s.refusePacket vf hn) ∧
      exec (.slotReleaseNotice vf hn who head) s = .next (s.refusePacket vf hn)) ∧
    (s.asking vf hn = none → exec (.reductionSlotRequest vf hn n) s = .next s) ∧
    (∀ k, s.asking vf hn = some k → (k.rank = 0 ∨ (k.ranks[0]?).any (fun r => s.fabricId == some r.1) = false) →
      ∃ u, exec (.reductionSlotRequest vf hn n) s = .next u ∧ ∀ e ∈ s.stepPosts k, ∀ p ∈ (u.ctx e.1).posts, p.key = e.2.key →
        p.slot = some (decide (n < 64))))

/-! ### Slices, swaps, buckets and pools -/

/-- R362, R364, R368 to R376, R392: a slice ends when it is due and another VF has work, or at once without work, and its crews
then wait for their next placement; a due slice with no other VF to run begins anew with no rollback and no save; the next VF with work
comes in; a swapped page takes its frame from its context and comes back to
the same address; pages that accesses wait for are brought up or mapped; a bucket gains its rate each window up to its burst, and a
request takes its bytes or waits and is counted; POOLADD takes a run of frames whole and zeroed or names what is wrong, and POOLREL
removes frames. That POOLREL takes frames from the end of the pool, what a slice end waits for, which supervisor core takes an
escalation, and when one asked for later may be served first, are the model's choices (logs 46, 30, 60, 56). -/
def Obligations.SliceEvents : Prop :=
  (∀ (n vf : Nat) (s : State) (p : Part), kvFind s.parts n = some p → p.running = some vf →
    (p.cut vf = false → p.vfs.getLsbD vf = true → s.partsOn.any (fun e => e.1 == n) = true → s.hasWork vf = true →
      (s.cyc < p.since + p.sliceLen → ∃ u, exec (.sliceEnd n) s = .next u ∧ kvFind u.parts n = some { p with ending := none } ∧
        u.crews = s.crews ∧ u.ctxs = s.ctxs ∧ u.hbm = s.hbm) ∧
      (p.since + p.sliceLen ≤ s.cyc →
        ((s.nextWork p vf = none ∨ s.nextWork p vf = some vf) → s.doomed p vf = [] →
          ∃ u q, exec (.sliceEnd n) s = .next u ∧ kvFind u.parts n = some q ∧ q.running = some vf ∧ q.since = s.cyc ∧
            q.pending = none ∧ (s.boundaryWork p = false → q = { p with since := s.cyc, ending := none }) ∧
            u.crews = s.crews ∧ u.ctxs = s.ctxs ∧ u.hbm = s.hbm) ∧
        (∀ v, s.nextWork p vf = some v → v ≠ vf → s.sliceWaits vf = true → ∃ u, exec (.sliceEnd n) s = .next u ∧
          kvFind u.parts n = some { p with ending := some (p.ending.getD s.cyc) } ∧
          ((∀ e ∈ s.crews, e.2.copy = .solo) → u.crews = s.crews ∧ u.hbm = s.hbm)) ∧
        (∀ v, s.nextWork p vf = some v → v ≠ vf → s.sliceWaits vf = false →
          exec (.sliceEnd n) s = .next (s.endSlice n vf)))) ∧
    (s.hasWork vf = false → s.sliceWaits vf = false → exec (.sliceEnd n) s = .next (s.endSlice n vf)) ∧
    (∃ q, kvFind (s.endSlice n vf).parts n = some q ∧ q.running = none ∧ q.last = vf ∧ q.out = some vf ∧ q.ending = none ∧
      q.pending = none) ∧
    (∀ cid c', kvFind (s.endSlice n vf).crews cid = some c' → c'.vf = vf → c'.resident = false)) ∧
  (∀ (n vf : Nat) (s : State) (p : Part), s.partsOn.find? (fun e => e.1 == n) = some (n, p) → p.running = none →
    s.switches = [] → s.boundaryWork p = false → p.incoming = none → s.nextWork p p.last = some vf →
    s.clusters.any (fun e => e.2.cq.any (fun m => (m.orphan || m.running) &&
      (kvFind s.crews m.cid).any (fun c => p.vfs.getLsbD c.vf))) = false →
    ((s.nextSwap p vf).isSome = false → ∃ u q, exec (.switchIn n) s = .next u ∧
      (kvFind s.parts n = some p → kvFind u.parts n = some q) ∧ q.running = some vf ∧ q.since = s.cyc ∧ q.incoming = none ∧
      q.out = none ∧
      (u.ctx vf).lastSet = (s.ctx vf).recordedSet ∧ (u.ctx vf).recordedSet = [] ∧ u.hbm = s.hbm) ∧
    ((s.nextSwap p vf).isSome = true → exec (.switchIn n) s =
      .next { s with parts := kvSet s.parts n { p with incoming := some vf }, switches := [n] })) ∧
  (∀ (n : Nat) (s : State), s.partsOn.find? (fun e => e.1 == n) = none →
    ((∀ p, kvFind s.parts n = some p → p.running = none → s.boundaryWork p = false) →
      (s.switches.contains n = false → exec (.switchIn n) s = .next s) ∧
      (s.switches.contains n = true → ∃ u, exec (.switchIn n) s = .next u ∧ u.switches = dropAll s.switches n ∧
        ∀ p, kvFind s.parts n = some p → kvFind u.parts n = some { p with incoming := none })) ∧
    (∀ p, kvFind s.parts n = some p → p.running = none → s.boundaryWork p = true → ∃ u q, exec (.switchIn n) s = .next u ∧
      kvFind u.parts n = some q ∧ q.running = none ∧ q.pending = none ∧
      ∀ cl vfs sl fl rs, p.pending = some (cl, vfs, sl, fl, rs) →
        q.clust = cl ∧ q.vfs = vfs ∧ q.slice = sl ∧ q.flags = fl ∧ q.reserved = rs)) ∧
  (∀ (n vf page v : Nat) (tier : Tier) (s : State) (p : Part), s.switchNow = some (n, p, v) →
    (s.nextSwap p v ≠ some (vf, page, tier) → exec (.swapDown vf page tier) s = .next s) ∧
    (∀ u, s.nextSwap p v = some (vf, page, tier) →
      (s.swapDown vf page tier v = (true, u) →
        exec (.swapDown vf page tier) s = .next u ∧ (u.ctx v).pool.length = (s.ctx v).pool.length + 1) ∧
      (s.swapDown vf page tier v = (false, u) → exec (.swapDown vf page tier) s = .next u))) ∧
  (∀ (vf page : Nat) (s u : State), s.swapUp vf page = some u →
    (∀ rs, rs = (if s.running vf then (s.ctx vf).lastSet else if s.partsOn.any (fun e => e.2.incoming == some vf)
        then (s.ctx vf).recordedSet else []) → page ∈ rs →
      (∀ q ∈ rs, (kvFind (s.ctx vf).tierPages q).isSome = true → page ≤ q) →
      exec (.swapUp vf page) s = .next (u.resumePage vf page)) ∧
    (u.ctx vf).pool = (s.ctx vf).pool.drop 1 ∧ kvFind (u.ctx vf).tierPages page = none) ∧
  (∀ (vf va : Nat) (s : State) (asked : Nat), asked = firstOf ((s.waitersOn vf (va / 65536) 1).map Waiter.since ++
      (s.ladleQ.filter (fun w => w.1 == vf && w.2.1 / 65536 == va / 65536)).map (fun w => w.2.2)) →
    (s.firstAsked asked = false → exec (.demandSwapUp vf va) s = .next s) ∧
    ((s.waitersOn vf (va / 65536) 1 ≠ [] → s.firstAsked asked = true → s.sups.any (fun u => u.2.serving == some vf) = false →
        s.sups.any (fun u => u.2.serving.isNone) = true → exec (.demandSwapUp vf va) s = .next (s.takeEscalation vf)) ∧
     ((s.waitersOn vf (va / 65536) 0).filter Waiter.laneless ≠ [] → s.sups.any (fun u => u.2.serving == some vf) = false →
        s.sups.any (fun u => u.2.serving.isNone) = true → exec (.supervisorPageMap vf va) s = .next (s.takeEscalation vf))) ∧
    ((s.sups.any (fun u => u.2.serving == some vf) = true ∨ s.sups.any (fun u => u.2.serving.isNone) = false) →
     (s.waitersOn vf (va / 65536) 1 ≠ [] → s.firstAsked asked = true →
      (s.pageHere vf (va / 65536) = true →
        exec (.demandSwapUp vf va) s = .next (s.escalationEnd vf (s.resumePage vf (va / 65536)))) ∧
      (s.pageHere vf (va / 65536) = false → (kvFind (s.ctx vf).tierPages (va / 65536)).isSome = true →
        (∀ u, s.bringUp vf (va / 65536) ((s.waitersOn vf (va / 65536) 1).flatMap Waiter.pages) = .room u →
          exec (.demandSwapUp vf va) s = .next (s.escalationEnd vf (u.resumePage vf (va / 65536)))) ∧
        (∀ u, s.bringUp vf (va / 65536) ((s.waitersOn vf (va / 65536) 1).flatMap Waiter.pages) = .wait u →
          exec (.demandSwapUp vf va) s = .next (s.escalationEnd vf u)))) ∧
     ((s.waitersOn vf (va / 65536) 0).filter Waiter.laneless ≠ [] →
      (∀ n ws, ws = (s.waitersOn vf (va / 65536) 0).filter Waiter.laneless → s.mapAt (s.ctx vf).root va = .missing n →
        ((s.ctx vf).pool.length < n + 1 → s.firstAsked (firstOf (ws.map Waiter.since)) = false →
          exec (.supervisorPageMap vf va) s = .next s) ∧
        (∀ u, n + 1 ≤ (s.ctx vf).pool.length ∨ s.firstAsked (firstOf (ws.map Waiter.since)) = true →
          s.makeRoom vf (n + 1) [va / 65536] (n + 1) = .room u →
          exec (.supervisorPageMap vf va) s = .next (s.escalationEnd vf ((u.mapNow vf va n
            ((kvFind (s.ctx vf).mapping (va / 65536)).getD (s.ctx vf).pgattr)).resumePage vf (va / 65536))))) ∧
      (s.mapAt (s.ctx vf).root va = .valid →
        exec (.supervisorPageMap vf va) s = .next (s.escalationEnd vf (s.resumePage vf (va / 65536))))))) ∧
  (∀ (mc vf bytes : Nat) (s : State), mc < 16 → vf < 256 →
    (s.cyc / 1050 ≤ s.refilled → exec .bucketRefill s = .next s) ∧
    (s.refilled < s.cyc / 1050 → s.buckets = [(mc, vf)] → s.tbQueue = [] → ∃ u, exec .bucketRefill s = .next u ∧
      u.tbLevelOf mc vf = min (s.tbLevelOf mc vf +
        min ((s.mcReg mc (0x2000 + 16 * vf)).extractLsb' 0 13).toNat 5600 * 1000)
          (4096 * tbBurst (s.mcReg mc (0x2000 + 16 * vf))) ∧ u.refilled = s.refilled + 1) ∧
    (s.tbOn mc vf = false → exec (.meteredRequest mc vf bytes) s = .next s) ∧
    (s.tbOn mc vf = true → (∀ r ∈ s.tbQueue, r.mc ≠ mc ∨ r.vf ≠ vf) → bytes ≤ s.tbLevelOf mc vf →
      ∃ u, exec (.meteredRequest mc vf bytes) s = .next u ∧ u.tbLevelOf mc vf = s.tbLevelOf mc vf - bytes ∧
        u.tbQueue = s.tbQueue ∧ u.tbWaitsOf mc vf = s.tbWaitsOf mc vf) ∧
    (s.tbOn mc vf = true → (s.tbLevelOf mc vf < bytes ∨ ∃ r ∈ s.tbQueue, r.mc = mc ∧ r.vf = vf) →
      ∃ u, exec (.meteredRequest mc vf bytes) s = .next u ∧ u.tbLevelOf mc vf = s.tbLevelOf mc vf ∧
        u.tbQueue = s.tbQueue ++ [{ mc := mc, vf := vf, bytes := bytes }] ∧
        u.tbWaitsOf mc vf = min (2 ^ 32 - 1) (s.tbWaitsOf mc vf + 1)) ∧
    (∀ val, s.tbQueue = [] → ∃ u, exec (.tbcWrite mc vf val) s = .next u ∧
      u.mcReg mc (0x2000 + 16 * vf) = val &&& ctlMask (0x2000 + 16 * vf) ∧
      u.tbLevelOf mc vf = 4096 * tbBurst (val &&& ctlMask (0x2000 + 16 * vf)))) ∧
  (∀ (vf : Nat) (val : Word) (s : State) (fs : List Nat), vf < 256 →
    fs = (List.range ((val.extractLsb' 52 12).toNat + 1)).map (fun k => (val.extractLsb' 16 36).toNat * 65536 + 65536 * k) →
    (val.extractLsb' 0 16 ≠ 0 → ∃ u, exec (.pooladd vf val) s = .next u ∧ (u.ctx vf).poolOutcome = 3 ∧
      (u.ctx vf).pool = (s.ctx vf).pool ∧ u.hbm = s.hbm) ∧
    (val.extractLsb' 0 16 = 0 → (∃ f ∈ fs, 2 ^ 40 ≤ f) → ∃ u, exec (.pooladd vf val) s = .next u ∧
      (u.ctx vf).poolOutcome = 1 ∧ (u.ctx vf).pool = (s.ctx vf).pool ∧ u.hbm = s.hbm) ∧
    (val.extractLsb' 0 16 = 0 → (∀ f ∈ fs, f < 2 ^ 40) → (∃ f ∈ fs, s.frameUsed f = true) →
      ∃ u, exec (.pooladd vf val) s = .next u ∧ (u.ctx vf).poolOutcome = 2 ∧ (u.ctx vf).pool = (s.ctx vf).pool ∧
        u.hbm = s.hbm) ∧
    (val.extractLsb' 0 16 = 0 → (∀ f ∈ fs, f < 2 ^ 40) → (∀ f ∈ fs, s.frameUsed f = false) →
      ∃ u, exec (.pooladd vf val) s = .next u ∧ (u.ctx vf).poolOutcome = 0 ∧ (u.ctx vf).pool = (s.ctx vf).pool ++ fs ∧
        (∀ f ∈ fs, ∀ k, k < 65536 → u.homeByte (f + k) = 0) ∧
        (∀ a, (∀ f ∈ fs, a < f ∨ f + 65536 ≤ a) → u.homeByte a = s.homeByte a)) ∧
    (∃ u, exec (.poolrel vf val) s = .next u ∧ u.hbm = s.hbm ∧
      (u.ctx vf).poolRemoved = min (s.ctx vf).pool.length (val.extractLsb' 0 32).toNat ∧
      (u.ctx vf).pool = (s.ctx vf).pool.take ((s.ctx vf).pool.length - (u.ctx vf).poolRemoved)))

/-! ### Host, fabric and management -/

/-- R12, R16, R90, R109, R110, R303, R342, R350, R359, R369, R375, R377 to R383, R387 to R390: the events from outside. The fabric ID
lets packets in; one that the target VF's table admits is performed at its home, and one that it does not is dropped and reported. A
doorbell appends and its outcome stands in DSTAT. Owners and handles are registered after their checks. A release ends a VF's casts,
returns its frames, pooled or mapped, and resets its registers; turnover waits for a switch under way and zeroes memory; a reset returns %cyc and the registers and leaves memory. The
responder answers each SPDM request. Links, cooling, the image loader, the debugger and the partition table change what they name.
That a reset keeps memory, the form of an image, what a loss of coolant leaves, the names of SPDM errors, what OSTAT and HREG read, and
what a TDISP or IDE message asks for, are the model's choices (logs 47, 48, 45, 7, 8, 82); SPDM payloads, nonces and signature verdicts
are free values (log 7). -/
def Obligations.HostEvents : Prop :=
  (∀ (s : State) (id : Nat), exec (.fabricIdAssign id) s = .next (if id < 192 then { s with fabricId := some id } else s)) ∧
  (∀ (p : FabricPacket) (s : State), s.hears p.peer = true → p.vf < 256 → p.pa + p.bytes ≤ 2 ^ 40 →
    (∀ data, p.op = .store data → data.length = p.bytes →
      (s.admits p false true = false → exec (.fabricPacketReceive p) s =
        .next { s with hostLog := s.hostLog ++ [.fabricProtection p.peer p.vf] }) ∧
      (s.admits p false true = true → (∀ k, k < data.length → s.pins.contains (lineOf (p.pa + k)) = false ∧
          s.stashHolders [] (lineOf (p.pa + k)) = []) →
        ∃ u, exec (.fabricPacketReceive p) s = .next u ∧ u.hbm = (s.setHomeBytes (zipAddr p.pa data)).hbm ∧
          u.hostLog = s.hostLog)) ∧
    (p.op = .load → s.admits p true false = true →
      (p.acq = false ∨ s.notices.all (fun n => n.line != lineOf p.pa) = true →
        ∃ u, exec (.fabricPacketReceive p) s = .next u ∧ u.hbm = s.hbm ∧ u.hostLog = s.hostLog) ∧
      (∀ u, s.fabricPromote p = (false, u) → exec (.fabricPacketReceive p) s = .next u)) ∧
    (∀ op ty x, p.op = .atomic op ty x → s.admits p true true = true → (p.bytes = 4 ∨ p.bytes = 8) → p.pa % p.bytes = 0 →
      s.poison.contains (lineOf p.pa) = false → (p.acq = false ∨ s.notices.all (fun n => n.line != lineOf p.pa) = true) →
      (∀ k, k < p.bytes → s.pins.contains (lineOf (p.pa + k)) = false ∧ s.stashHolders [] (lineOf (p.pa + k)) = []) →
      ∃ u, exec (.fabricPacketReceive p) s = .next u ∧ u.hbm = (s.setHomeBytes (zipAddr p.pa
        (leBytes p.bytes (fabricCombine op ty p.bytes (s.homeNat p.pa p.bytes) x)))).hbm)) ∧
  (∀ (peer pvf vf q : Nat) (key record : Word) (s : State), s.hears peer = true → vf < 256 → 1 ≤ q → q ≤ 15 →
    ((kvVals (s.ctx vf).acl).any (fun e => e.from peer pvf key && e.q1.getLsbD (16 + q)) = false →
      exec (.peerQputReceive peer pvf key vf q record) s = .next s) ∧
    ((kvVals (s.ctx vf).acl).any (fun e => e.from peer pvf key && e.q1.getLsbD (16 + q)) = true →
      (∀ n u, s.append vf q record none none = .done n u → exec (.peerQputReceive peer pvf key vf q record) s = .next u) ∧
      (∀ r, s.append vf q record none none = .refused r → exec (.peerQputReceive peer pvf key vf q record) s = .next s) ∧
      (∀ ls, s.append vf q record none none = .held ls → exec (.peerQputReceive peer pvf key vf q record) s =
        .next (s.askHolders ls)))) ∧
  (∀ (vf q : Nat) (record : Word) (s : State), vf < 256 → 1 ≤ q → q ≤ 15 → s.pcieDown.length < 2 →
    (∀ n u, s.append vf q record none none = .done n u → ∃ t, exec (.dbell vf q record) s = .next t ∧
      kvGet 0 (t.ctx vf).dstat q = BitVec.ofNat 64 n ∧ (t.ctx vf).bell = true ∧ t.hbm = u.hbm) ∧
    (∀ r, s.append vf q record none none = .refused r → ∃ t, exec (.dbell vf q record) s = .next t ∧
      kvGet 0 (t.ctx vf).dstat q = refused r ∧ (t.ctx vf).bell = (s.ctx vf).bell ∧ t.hbm = s.hbm) ∧
    (∀ ls, s.append vf q record none none = .held ls → exec (.dbell vf q record) s = .next (s.askHolders ls))) ∧
  (∀ (vf : Nat) (s : State), vf < 256 →
    (∃ u, exec (.ownerRegister vf) s = .next u ∧ u.hbm = s.hbm ∧
      (u.ctx vf).ostat = BitVec.ofNat 64 (s.ownerOutcome vf + 256 * bytesNat (obufBytes (s.ctx vf) 0 1)) ∧
      (s.ownerOutcome vf ≠ 0 → (u.ctx vf).omask = (s.ctx vf).omask ∧ (u.ctx vf).keys = (s.ctx vf).keys) ∧
      (s.ownerOutcome vf = 0 → (u.ctx vf).omask.getLsbD (bytesNat (obufBytes (s.ctx vf) 0 1)) = true ∧
        kvFind (u.ctx vf).keys (bytesNat (obufBytes (s.ctx vf) 0 1)) = some (obufBytes (s.ctx vf) 8 97))) ∧
    (∃ u, exec (.nonceRead vf) s = .next u ∧ obufBytes (u.ctx vf) 0 32 = leBytes 32 (s.nonceOf vf).toNat ∧
      (u.ctx vf).ostat = 0 ∧ (∀ k, 32 ≤ k → kvGet 0 (u.ctx vf).obuf k = kvGet 0 (s.ctx vf).obuf k)) ∧
    (∀ r : HandleRec, (s.ctx vf).handles.length < 64 → kvFind (s.ctx vf).handles r.handle.toNat = none → r.ranks ≠ [] →
      r.ranks.length ≤ 192 → (∀ x ∈ r.ranks, x.1 < 192 ∧ x.2 < 256) → r.owners &&& ~~~(s.ctx vf).omask = 0 →
      eagerBlocks r.ranks.length ≤ (s.freeBlocks vf).length → (s.ctx vf).tdi = .unlocked →
      ∀ l tab, labelId (s.ctx vf).labels r.owners = some (l, tab) → ∃ u h, exec (.handleRegister vf r) s = .next u ∧
        kvFind (u.ctx vf).handles r.handle.toNat = some h ∧ h.reg = r ∧ h.lab = l ∧ u.hbm = s.hbm ∧
        h.blocks = (s.freeBlocks vf).take (eagerBlocks r.ranks.length) ∧ (u.ctx vf).labels = tab ∧
        (u.ctx vf).hreg = some (r, true) ∧
        (∀ p pa j n, p < r.ranks.length → r.ranks[p]? ≠ s.fabricId.map (fun i => (i, vf)) → n < 8 →
          s.slotAddr vf h p n = some pa → j < 32 → u.granLab (lineOf pa + j) = l)) ∧
    (∀ (r : HandleRec), (64 ≤ (s.ctx vf).handles.length ∨ (kvFind (s.ctx vf).handles r.handle.toNat).isSome = true ∨ r.ranks = [] ∨
      192 < r.ranks.length ∨ (∃ x ∈ r.ranks, 192 ≤ x.1 ∨ 256 ≤ x.2) ∨ r.owners &&& ~~~(s.ctx vf).omask ≠ 0 ∨
      (s.freeBlocks vf).length < eagerBlocks r.ranks.length ∨ labelId (s.ctx vf).labels r.owners = none) →
      exec (.handleRegister vf r) s = .next (s.modCtx vf (fun c => { c with hreg := some (r, false) }))) ∧
    (∀ h : Nat, (kvFind (s.ctx vf).handles h).isSome = true → (s.ctx vf).tdi = .unlocked →
      ∃ u, exec (.handleDeregister vf h) s = .next u ∧ kvFind (u.ctx vf).handles h = none ∧ (∀ p ∈ (u.ctx vf).posts, p.handle ≠ h) ∧
        ∀ k, k ≠ h → kvFind (u.ctx vf).handles k = kvFind (s.ctx vf).handles k) ∧
    (∀ base size : Nat, ((s.ctx vf).tdi = .unlocked → exec (.tierWrite vf base size) s =
        .next (s.modCtx vf (fun c => { c with tierBase := base, tierSize := size }))) ∧
      ((s.ctx vf).tdi = .run → ∃ u, exec (.tierWrite vf base size) s = .next u ∧ (u.ctx vf).tdi = .error ∧
        (u.ctx vf).casts = [] ∧ (u.ctx vf).tierBase = base)) ∧
    (∃ u, exec (.vfRelease vf) s = .next u ∧ (u.ctx vf).casts = [] ∧ (u.ctx vf).labels = [0] ∧ (u.ctx vf).pool = [] ∧
      (u.ctx vf).frames = [] ∧ (u.ctx vf).handles = [] ∧ (u.ctx vf).omask = 0 ∧ (u.ctx vf).acl = (s.ctx vf).acl ∧
      (u.ctx vf).egress = (s.ctx vf).egress ∧ (u.ctx vf).tierPages = [] ∧ (u.ctx vf).draws = (s.ctx vf).draws + 1 ∧
      (1 ≤ (s.ctx vf).poolLow → (s.ctx vf).poolLow ≤ (s.ctx vf).pool.length → u.mgmtIrq.contains vf = true) ∧
      (∀ f, f % 65536 = 0 → (s.stopContext vf).holdsFrame vf f = true → ∀ k, k < 65536 → u.homeByte (f + k) = 0) ∧
      (∀ f, f % 65536 = 0 → (s.stopContext vf).holdsFrame vf f = false → ∀ k, k < 65536 →
        u.homeByte (f + k) = s.homeByte (f + k))) ∧
    (∀ val : Word, exec (.registerWrite (.poolLow vf) val) s =
        .next (s.modCtx vf (fun c => { c with poolLow := (val.extractLsb' 0 32).toNat })) ∧
      (∀ ofs, ofs < 512 → ofs % 8 = 0 → ∃ u, exec (.registerWrite (.obuf vf ofs) val) s = .next u ∧
        obufBytes (u.ctx vf) ofs 8 = leBytes 8 val.toNat) ∧
      (∀ mc ofs, exec (.registerWrite (.ctl mc ofs) val) s = .next (s.ctlWrite mc ofs val)) ∧
      (∀ e k, e < 32 → k < 4 → ∃ u, exec (.registerWrite (.acl vf e k) val) s = .next u ∧
        kvGet {} (u.ctx vf).acl e = (kvGet ({} : AclEntry) (s.ctx vf).acl e).setQuarter k val ∧
        (u.ctx vf).egress = (s.ctx vf).egress) ∧
      (∀ e k, e < 32 → k < 4 → ∃ u, exec (.registerWrite (.egress vf e k) val) s = .next u ∧
        kvGet {} (u.ctx vf).egress e = (kvGet ({} : AclEntry) (s.ctx vf).egress e).setQuarter k val ∧
        (u.ctx vf).acl = (s.ctx vf).acl) ∧
      (∀ t, tdiOf val = some t → exec (.registerWrite (.tdi vf) val) s =
        .next (s.modCtx vf (fun c => { c with tdi := t }))) ∧
      ((s.ctx vf).bar = val → exec (.registerWrite (.bar vf) val) s = .next s) ∧
      ((s.ctx vf).bar ≠ val → ((s.ctx vf).tdi = .unlocked ∨ (s.ctx vf).tdi = .error →
          exec (.registerWrite (.bar vf) val) s = .next (s.modCtx vf (fun c => { c with bar := val }))) ∧
        ((s.ctx vf).tdi = .locked ∨ (s.ctx vf).tdi = .run → ∃ u, exec (.registerWrite (.bar vf) val) s = .next u ∧
          (u.ctx vf).bar = val ∧ (u.ctx vf).tdi = .error ∧ (u.ctx vf).casts = [])))) ∧
  (∀ s : State, (s.switches ≠ [] → exec .moduleTurnover s = .next { s with turnover := true }) ∧
    (s.switches = [] → ∃ u, exec .moduleTurnover s = .next u ∧ (∀ a, u.homeByte a = 0) ∧ u.crews = [] ∧ u.cur = none ∧ u.gran = [] ∧
      u.poison = [] ∧ u.spdm.session = .none ∧ u.spdm.boots = s.spdm.boots + 1 ∧ u.spdm.meas = measured (s.spdm.boots + 1) ∧
      (∀ c ∈ Config.healthRetires (s.spdm.boots + 1), c < Config.clusters → c ∈ u.deadClusters) ∧
      (∀ c ∈ Config.healthCores (s.spdm.boots + 1), c < Config.clusters * Config.coresPerCluster → c ∈ u.deadCores) ∧
      (∀ c ∈ Config.healthSlices (s.spdm.boots + 1), c < Config.dies * Config.slicesPerDie → c ∈ u.deadSlices) ∧
      ∀ k, k < Config.supervisorCores → ((u.sup k).th.park = .run ∧ (u.sup k).th.priv = .devSup ∧ ∀ r, u.readS (.sup k) r = {})) ∧
    (∃ u, exec .moduleReset s = .next u ∧ u.cyc = 0 ∧ (∀ a, u.homeByte a = s.homeByte a) ∧ u.gran = s.gran ∧ u.ctxs = [] ∧ u.crews = [] ∧
      u.ctl = [] ∧ u.fabricId = none ∧ u.deadClusters = s.deadClusters ∧ u.spdm.boots = s.spdm.boots + 1) ∧
    (∀ k, k < Config.supervisorCores → (s.sup k).th.park = .halted →
      (∃ u, exec (.supervisorRestart k false) s = .next u ∧ (u.sup k).th.park = .run ∧ (u.sup k).th.clause = [] ∧
        (u.sup k).s = (s.sup k).s ∧ (u.sup k).th.pc = (if (s.sup k).th.clause = [] then (s.sup k).th.pc
          else (s.sup k).th.pc + 8 * ((s.sup k).th.clause.length + 1))) ∧
      (∃ u, exec (.supervisorRestart k true) s = .next u ∧ (u.sup k).th.park = .run ∧ (u.sup k).s = [] ∧
        (u.sup k).th.pc = Config.firmwareEntry.toNat)) ∧
    (∀ k, (s.sup k).th.park ≠ .halted → ∀ b, exec (.supervisorRestart k b) s = .next s)) ∧
  (∀ s : State,
    (∀ i r, (i, r) ∈ [(Instr.getVersion, "VERSION"), (.getCapabilities, "CAPABILITIES"), (.negotiateAlgorithms, "ALGORITHMS"),
        (.getCertificate 0, "CERTIFICATE"), (.challenge 0, "CHALLENGE_AUTH")] →
      exec i s = .next { s with spdm := { s.spdm with out := s.spdm.out ++ [.ok r (Config.spdmPayload s.tick)] } }) ∧
    (∀ k, k ≠ 0 → ∀ i ∈ [Instr.getCertificate k, .challenge k],
      exec i s = .next { s with spdm := { s.spdm with out := s.spdm.out ++ [.error "InvalidRequest"] } }) ∧
    exec .getDigests s = .next { s with spdm := { s.spdm with
      out := s.spdm.out ++ [.ok "DIGESTS" (leBytes 48 Config.devid.toNat)] } } ∧
    exec .getMeasurements s = .next { s with spdm := { s.spdm with out := s.spdm.out ++ [.measurements s.spdm.meas] } } ∧
    (∃ u, exec .keyExchange s = .next u ∧ u.spdm.session = .handshake ∧ u.spdm.meas = s.spdm.meas) ∧
    (s.spdm.session = .handshake → ∃ u, exec .finish s = .next u ∧ u.spdm.session = .established) ∧
    (s.spdm.session = .established → (∃ u, exec .endSession s = .next u ∧ u.spdm.session = .none) ∧
      (∀ i r, (i, r) ∈ [(Instr.heartbeat, "HEARTBEAT_ACK"), (.keyUpdate, "KEY_UPDATE_ACK")] →
        exec i s = .next { s with spdm := { s.spdm with out := s.spdm.out ++ [.ok r (Config.spdmPayload s.tick)] } })) ∧
    (s.spdm.session ≠ .established → ∀ i ∈ [Instr.heartbeat, .keyUpdate, .endSession],
      exec i s = .next { s with spdm := { s.spdm with out := s.spdm.out ++ [.error "UnexpectedRequest"] } }) ∧
    (∀ bs, (s.spdm.session = .established → ∃ u, exec (.vendorDefinedRequest bs) s = .next u ∧
        u.spdm.session = .established ∧
        (∀ vf cmd, Config.tdispCommand bs = some (vf, cmd) → (u.ctx vf.val).tdi = tdispNext (s.ctx vf.val).tdi cmd.val) ∧
        (∀ vf on, Config.ideCommand bs = some (vf, on) → (u.ctx vf.val).ide = on) ∧
        (Config.tdispCommand bs = none → Config.ideCommand bs = none → u.ctxs = s.ctxs)) ∧
      (s.spdm.session ≠ .established → exec (.vendorDefinedRequest bs) s =
        .next { s with spdm := { s.spdm with out := s.spdm.out ++ [.error "UnsupportedRequest"] } })) ∧
    (∀ n, exec (.unsupportedRequest n) s =
      .next { s with spdm := { s.spdm with out := s.spdm.out ++ [.error "UnsupportedRequest"] } })) ∧
  (∀ s : State,
    (∀ n, n < 256 →
      ((n < Config.clusters ∨ ∀ k, k < Config.clusters → (kvFind s.islands k).isSome = true) → exec (.thermalThrottle n) s =
        .next { s with islands := kvSet s.islands n (Config.throttled s.tick)
                       mgmtLog := s.mgmtLog ++ [.clock n (Config.throttled s.tick)] }) ∧
      (Config.clusters ≤ n → (∃ k, k < Config.clusters ∧ kvFind s.islands k = none) → exec (.thermalThrottle n) s = .next s)) ∧
    (∃ u, exec .coolantLoss s = .next u ∧ u.cooled = false ∧ u.mgmtLog = s.mgmtLog ++ [.coolant] ∧
      ∀ vf, (u.ctx vf).casts = []) ∧
    (∀ n, n < 2 → exec (.pcieLinkStateChange n true) s = .next { s with pcieDown := dropAll s.pcieDown n } ∧
      exec (.pcieLinkStateChange n false) s = .next { s with pcieDown := addOnce s.pcieDown n }) ∧
    (∀ n, n < 24 → exec (.fabricLinkStateChange n true) s =
        .next { s with portsDown := dropAll s.portsDown n, mgmtLog := s.mgmtLog ++ [.fabricLink n true] } ∧
      exec (.fabricLinkStateChange n false) s =
        .next { s with portsDown := addOnce s.portsDown n, mgmtLog := s.mgmtLog ++ [.fabricLink n false] })) ∧
  (∀ (vf : Nat) (img : Image) (s : State) (gs : List (Nat × Nat × Lbl)) (tab : List (BitVec 64)), vf < 256 →
    (∀ e ∈ img.bytes, (s.loadAddr vf e.1).isSome = true) →
    (∀ g ∈ img.granules, g.1 % 128 = 0 ∧ g.2.2 &&& ~~~(s.ctx vf).omask = 0 ∧
      ∀ k, k < g.2.1 → (s.loadAddr vf (g.1 + 128 * k)).isSome = true) →
    (∀ va pa, (va ∈ img.bytes.map Prod.fst ∨ ∃ g ∈ img.granules, ∃ k, k < g.2.1 ∧ va = g.1 + 128 * k) →
      s.loadAddr vf va = some pa → s.pins.contains (lineOf pa) = false ∧ s.stashHolders [] (lineOf pa) = []) →
    imageLabels (s.ctx vf).labels img.granules = some (gs, tab) →
    ∃ u, exec (.imageLoad vf img) s = .next u ∧ (u.ctx vf).labels = tab ∧
      u.hbm = (s.setHomeBytes (img.bytes.filterMap (fun e => (s.loadAddr vf e.1).map (fun pa => (pa, e.2))))).hbm ∧
      (∀ g, gs = [g] → ∀ pa, g.2.1 = 1 → s.loadAddr vf g.1 = some pa → u.granLab (lineOf pa) = g.2.2) ∧
      (gs = [] → ∀ e ∈ img.bytes, ∀ pa, s.loadAddr vf e.1 = some pa → u.granLab (lineOf pa) = 0)) ∧
  (∀ (ag : Agent) (s : State) (th : Thread), s.thread? ag = some th →
    (th.park = .debugger → ∃ u, exec (.debuggerResume ag) s = .next u ∧ u.thread? ag =
      some { th with pc := th.pc + 8 * (th.clause.length + 1), slot := 0, clause := [], park := .run, ready := s.cyc
                     unready := 0, began := none }) ∧
    (th.park ≠ .debugger → exec (.debuggerResume ag) s = .next s)) ∧
  (∀ (n : Nat) (cl : BitVec 128) (vfs : BitVec 256) (sl : BitVec 32) (fl : BitVec 8) (rs : BitVec 88) (s : State) (p : Part),
    p = kvGet {} s.parts n →
    (16 ≤ n → exec (.partitionTableWrite n cl vfs sl fl rs) s = .next s) ∧
    (n < 16 → p.running = none → p.incoming = none → ∃ u, exec (.partitionTableWrite n cl vfs sl fl rs) s = .next u ∧
      kvFind u.parts n = some { p with clust := cl, vfs := vfs, slice := sl, flags := fl, reserved := rs, pending := none }) ∧
    (n < 16 → p.running = none → p.incoming.isSome = true → exec (.partitionTableWrite n cl vfs sl fl rs) s =
      .next { s with parts := kvSet s.parts n { p with pending := some (cl, vfs, sl, fl, rs) } }) ∧
    (∀ vf, n < 16 → p.running = some vf → ({ p with pending := some (cl, vfs, sl, fl, rs) } : Part).cut vf = true →
      exec (.partitionTableWrite n cl vfs sl fl rs) s =
        exec (.sliceEnd n) { s with parts := kvSet s.parts n { p with pending := some (cl, vfs, sl, fl, rs) } }) ∧
    (∀ vf, n < 16 → p.running = some vf → ({ p with pending := some (cl, vfs, sl, fl, rs) } : Part).cut vf = false →
      exec (.partitionTableWrite n cl vfs sl fl rs) s =
        .next { s with parts := kvSet s.parts n { p with pending := some (cl, vfs, sl, fl, rs) } }))
end

