-- ==== Sys2Proof/Laws/Map.lean ====
section
/-! SUPPORT. Laws of the sparse tables: what a lookup answers after an update, for any table, and that every update keeps the
canonical form. -/

namespace Sys2Proof.Machine

variable {β : Type}

/-! ### Lookup after update -/

theorem kvFind_kvSet (m : KV β) (k j : Nat) (v : β) : kvFind (kvSet m k v) j = if j = k then some v else kvFind m j := by
  induction m with
  | nil => simp [kvSet, kvFind]
  | cons e rest ih =>
    obtain ⟨a, w⟩ := e
    simp only [kvSet]
    split
    · subst_vars
      simp only [kvFind]
      split <;> simp_all
    · split
      · simp only [kvFind]
      · simp only [kvFind, ih]
        by_cases hj : j = a
        · subst hj
          simp [Ne.symm ‹_›]
        · simp [hj]

@[simp] theorem kvFind_kvSet_self (m : KV β) (k : Nat) (v : β) : kvFind (kvSet m k v) k = some v := by
  simp [kvFind_kvSet]

theorem kvFind_kvSet_ne (m : KV β) (k j : Nat) (v : β) (h : j ≠ k) : kvFind (kvSet m k v) j = kvFind m j := by
  simp [kvFind_kvSet, h]

theorem kvFind_kvDel (m : KV β) (k j : Nat) : kvFind (kvDel m k) j = if j = k then none else kvFind m j := by
  induction m with
  | nil => simp [kvDel, kvFind]
  | cons e rest ih =>
    obtain ⟨a, w⟩ := e
    simp only [kvDel] at ih
    by_cases ha : a = k
    · subst ha
      simp only [kvDel, List.filter_cons, bne_self_eq_false, kvFind]
      split <;> simp_all
    · simp only [kvDel, List.filter_cons, bne_iff_ne, ne_eq, ha, not_false_eq_true, ↓reduceIte, kvFind, ih]
      split <;> simp_all

theorem kvGet_kvSet (d : β) (m : KV β) (k j : Nat) (v : β) :
    kvGet d (kvSet m k v) j = if j = k then v else kvGet d m j := by
  simp only [kvGet, kvFind_kvSet]
  split <;> rfl

/-- Reading a table after a write: the value written, or what the table held. -/
theorem kvGet_kvPut [DecidableEq β] (d : β) (m : KV β) (k j : Nat) (v : β) :
    kvGet d (kvPut d m k v) j = if j = k then v else kvGet d m j := by
  simp only [kvPut]
  split
  · subst_vars
    simp only [kvGet, kvFind_kvDel]
    split <;> simp
  · exact kvGet_kvSet d m k j v

@[simp] theorem kvGet_kvPut_self [DecidableEq β] (d : β) (m : KV β) (k : Nat) (v : β) : kvGet d (kvPut d m k v) k = v := by
  simp [kvGet_kvPut]

theorem kvFind_kvModify (m : KV β) (k j : Nat) (f : β → β) :
    kvFind (kvModify m k f) j = if j = k then (kvFind m k).map f else kvFind m j := by
  simp only [kvModify]
  split
  · rename_i v hv
    rw [kvFind_kvSet]
    split
    · simp [hv]
    · rfl
  · rename_i hv
    split
    · subst_vars
      simp [hv]
    · rfl

@[simp] theorem kvFind_kvModify_self (m : KV β) (k : Nat) (f : β → β) : kvFind (kvModify m k f) k = (kvFind m k).map f := by
  simp [kvFind_kvModify]

theorem kvFind_kvModify_ne (m : KV β) (k j : Nat) (f : β → β) (h : j ≠ k) : kvFind (kvModify m k f) j = kvFind m j := by
  simp [kvFind_kvModify, h]

/-! ### The canonical form -/

/-- Keys that strictly rise, as a pairwise statement. -/
theorem kvSorted_iff (m : KV β) : kvSorted m = true ↔ m.Pairwise (fun x y => x.1 < y.1) := by
  induction m with
  | nil => simp [kvSorted]
  | cons e rest ih =>
    obtain ⟨a, v⟩ := e
    cases rest with
    | nil => simp [kvSorted]
    | cons e2 rest2 =>
      obtain ⟨b, w⟩ := e2
      simp only [kvSorted, Bool.and_eq_true, decide_eq_true_eq, ih]
      rw [List.pairwise_cons (a := (a, v))]
      constructor
      · rintro ⟨hab, hp⟩
        refine ⟨?_, hp⟩
        intro x hx
        rcases List.mem_cons.mp hx with rfl | hx
        · exact hab
        · exact Nat.lt_trans hab (List.rel_of_pairwise_cons hp hx)
      · rintro ⟨h1, h2⟩
        exact ⟨h1 (b, w) (by simp), h2⟩

theorem mem_kvSet (m : KV β) (k : Nat) (v : β) (x : Nat × β) (h : x ∈ kvSet m k v) : x = (k, v) ∨ x ∈ m := by
  induction m with
  | nil => simpa [kvSet] using h
  | cons e rest ih =>
    obtain ⟨a, w⟩ := e
    simp only [kvSet] at h
    split at h
    · rcases List.mem_cons.mp h with h | h
      · exact .inl h
      · exact .inr (by simp [h])
    · split at h
      · rcases List.mem_cons.mp h with h | h
        · exact .inl h
        · exact .inr h
      · rcases List.mem_cons.mp h with h | h
        · exact .inr (by simp [h])
        · rcases ih h with h | h
          · exact .inl h
          · exact .inr (by simp [h])

theorem kvSorted_kvSet (m : KV β) (k : Nat) (v : β) (h : kvSorted m = true) : kvSorted (kvSet m k v) = true := by
  rw [kvSorted_iff] at h ⊢
  induction m with
  | nil => simp [kvSet]
  | cons e rest ih =>
    obtain ⟨a, w⟩ := e
    rw [List.pairwise_cons] at h
    simp only [kvSet]
    split
    · subst_vars
      exact List.pairwise_cons.mpr h
    · split
      · rename_i hne hlt
        refine List.pairwise_cons.mpr ⟨?_, List.pairwise_cons.mpr h⟩
        intro x hx
        rcases List.mem_cons.mp hx with rfl | hx
        · exact hlt
        · exact Nat.lt_trans hlt (h.1 x hx)
      · rename_i hne hge
        refine List.pairwise_cons.mpr ⟨?_, ih h.2⟩
        intro x hx
        rcases mem_kvSet rest k v x hx with rfl | hx
        · exact Nat.lt_of_le_of_ne (Nat.le_of_not_lt hge) (Ne.symm hne)
        · exact h.1 x hx

theorem kvSorted_filter (m : KV β) (p : Nat × β → Bool) (h : kvSorted m = true) : kvSorted (m.filter p) = true := by
  rw [kvSorted_iff] at h ⊢
  exact h.filter p

theorem kvWf_iff [DecidableEq β] (d : β) (m : KV β) :
    kvWf d m = true ↔ kvSorted m = true ∧ ∀ e ∈ m, e.2 ≠ d := by
  simp [kvWf, Bool.and_eq_true, List.all_eq_true]

theorem kvWf_filter [DecidableEq β] (d : β) (m : KV β) (p : Nat × β → Bool) (h : kvWf d m = true) :
    kvWf d (m.filter p) = true := by
  rw [kvWf_iff] at h ⊢
  exact ⟨kvSorted_filter m p h.1, fun e he => h.2 e (List.mem_of_mem_filter he)⟩

theorem kvWf_kvDel [DecidableEq β] (d : β) (m : KV β) (k : Nat) (h : kvWf d m = true) : kvWf d (kvDel m k) = true :=
  kvWf_filter d m _ h

/-- A write keeps the canonical form. -/
theorem kvWf_kvPut [DecidableEq β] (d : β) (m : KV β) (k : Nat) (v : β) (h : kvWf d m = true) :
    kvWf d (kvPut d m k v) = true := by
  simp only [kvPut]
  split
  · exact kvWf_kvDel d m k h
  · rename_i hv
    rw [kvWf_iff] at h ⊢
    refine ⟨kvSorted_kvSet m k v h.1, fun e he => ?_⟩
    rcases mem_kvSet m k v e he with rfl | he
    · exact hv
    · exact h.2 e he

/-- Writing a list of values keeps the canonical form. -/
theorem kvWf_foldl_kvPut [DecidableEq β] {α : Type} (d : β) (l : List α) (f : α → Nat) (g : α → β) (m : KV β)
    (h : kvWf d m = true) : kvWf d (l.foldl (fun m e => kvPut d m (f e) (g e)) m) = true := by
  induction l generalizing m with
  | nil => exact h
  | cons e es ih => exact ih _ (kvWf_kvPut d m _ _ h)

end Sys2Proof.Machine
end

