-- ==== Sys2Proof/Laws/State.lean ====
section
/-! SUPPORT. What an update of one part of the state leaves of every other part, field by field. -/

namespace Sys2Proof.Machine

/-! ### One field for each update -/


/-! `State.setCtx` -/

@[simp] theorem State.setCtx_cur (s : State) (vf : Nat) (c : Context) : (s.setCtx vf c).cur = s.cur := rfl
@[simp] theorem State.setCtx_agenda (s : State) (vf : Nat) (c : Context) : (s.setCtx vf c).agenda = s.agenda := rfl
@[simp] theorem State.setCtx_tick (s : State) (vf : Nat) (c : Context) : (s.setCtx vf c).tick = s.tick := rfl
@[simp] theorem State.setCtx_cyc (s : State) (vf : Nat) (c : Context) : (s.setCtx vf c).cyc = s.cyc := rfl
@[simp] theorem State.setCtx_hbm (s : State) (vf : Nat) (c : Context) : (s.setCtx vf c).hbm = s.hbm := rfl
@[simp] theorem State.setCtx_gran (s : State) (vf : Nat) (c : Context) : (s.setCtx vf c).gran = s.gran := rfl
@[simp] theorem State.setCtx_poison (s : State) (vf : Nat) (c : Context) : (s.setCtx vf c).poison = s.poison := rfl
@[simp] theorem State.setCtx_areas (s : State) (vf : Nat) (c : Context) : (s.setCtx vf c).areas = s.areas := rfl
@[simp] theorem State.setCtx_areaMem (s : State) (vf : Nat) (c : Context) : (s.setCtx vf c).areaMem = s.areaMem := rfl
@[simp] theorem State.setCtx_origin (s : State) (vf : Nat) (c : Context) : (s.setCtx vf c).origin = s.origin := rfl
@[simp] theorem State.setCtx_l2 (s : State) (vf : Nat) (c : Context) : (s.setCtx vf c).l2 = s.l2 := rfl
@[simp] theorem State.setCtx_pins (s : State) (vf : Nat) (c : Context) : (s.setCtx vf c).pins = s.pins := rfl
@[simp] theorem State.setCtx_code (s : State) (vf : Nat) (c : Context) : (s.setCtx vf c).code = s.code := rfl
@[simp] theorem State.setCtx_notices (s : State) (vf : Nat) (c : Context) : (s.setCtx vf c).notices = s.notices := rfl
@[simp] theorem State.setCtx_frinvs (s : State) (vf : Nat) (c : Context) : (s.setCtx vf c).frinvs = s.frinvs := rfl
@[simp] theorem State.setCtx_ctl (s : State) (vf : Nat) (c : Context) : (s.setCtx vf c).ctl = s.ctl := rfl
@[simp] theorem State.setCtx_tbLevel (s : State) (vf : Nat) (c : Context) : (s.setCtx vf c).tbLevel = s.tbLevel := rfl
@[simp] theorem State.setCtx_tbWaits (s : State) (vf : Nat) (c : Context) : (s.setCtx vf c).tbWaits = s.tbWaits := rfl
@[simp] theorem State.setCtx_tbQueue (s : State) (vf : Nat) (c : Context) : (s.setCtx vf c).tbQueue = s.tbQueue := rfl
@[simp] theorem State.setCtx_refilled (s : State) (vf : Nat) (c : Context) : (s.setCtx vf c).refilled = s.refilled := rfl
@[simp] theorem State.setCtx_parts (s : State) (vf : Nat) (c : Context) : (s.setCtx vf c).parts = s.parts := rfl
@[simp] theorem State.setCtx_deadClusters (s : State) (vf : Nat) (c : Context) : (s.setCtx vf c).deadClusters = s.deadClusters := rfl
@[simp] theorem State.setCtx_deadCores (s : State) (vf : Nat) (c : Context) : (s.setCtx vf c).deadCores = s.deadCores := rfl
@[simp] theorem State.setCtx_deadSlices (s : State) (vf : Nat) (c : Context) : (s.setCtx vf c).deadSlices = s.deadSlices := rfl
@[simp] theorem State.setCtx_pendDead (s : State) (vf : Nat) (c : Context) : (s.setCtx vf c).pendDead = s.pendDead := rfl
@[simp] theorem State.setCtx_pendDeadCores (s : State) (vf : Nat) (c : Context) : (s.setCtx vf c).pendDeadCores = s.pendDeadCores := rfl
@[simp] theorem State.setCtx_slotErrs (s : State) (vf : Nat) (c : Context) : (s.setCtx vf c).slotErrs = s.slotErrs := rfl
@[simp] theorem State.setCtx_arrErrs (s : State) (vf : Nat) (c : Context) : (s.setCtx vf c).arrErrs = s.arrErrs := rfl
@[simp] theorem State.setCtx_regErrs (s : State) (vf : Nat) (c : Context) : (s.setCtx vf c).regErrs = s.regErrs := rfl
@[simp] theorem State.setCtx_fabricId (s : State) (vf : Nat) (c : Context) : (s.setCtx vf c).fabricId = s.fabricId := rfl
@[simp] theorem State.setCtx_pcieDown (s : State) (vf : Nat) (c : Context) : (s.setCtx vf c).pcieDown = s.pcieDown := rfl
@[simp] theorem State.setCtx_portsDown (s : State) (vf : Nat) (c : Context) : (s.setCtx vf c).portsDown = s.portsDown := rfl
@[simp] theorem State.setCtx_spdm (s : State) (vf : Nat) (c : Context) : (s.setCtx vf c).spdm = s.spdm := rfl
@[simp] theorem State.setCtx_islands (s : State) (vf : Nat) (c : Context) : (s.setCtx vf c).islands = s.islands := rfl
@[simp] theorem State.setCtx_cooled (s : State) (vf : Nat) (c : Context) : (s.setCtx vf c).cooled = s.cooled := rfl
@[simp] theorem State.setCtx_mgmtIrq (s : State) (vf : Nat) (c : Context) : (s.setCtx vf c).mgmtIrq = s.mgmtIrq := rfl
@[simp] theorem State.setCtx_hostLog (s : State) (vf : Nat) (c : Context) : (s.setCtx vf c).hostLog = s.hostLog := rfl
@[simp] theorem State.setCtx_mgmtLog (s : State) (vf : Nat) (c : Context) : (s.setCtx vf c).mgmtLog = s.mgmtLog := rfl
@[simp] theorem State.setCtx_turnover (s : State) (vf : Nat) (c : Context) : (s.setCtx vf c).turnover = s.turnover := rfl
@[simp] theorem State.setCtx_ladleQ (s : State) (vf : Nat) (c : Context) : (s.setCtx vf c).ladleQ = s.ladleQ := rfl
@[simp] theorem State.setCtx_switches (s : State) (vf : Nat) (c : Context) : (s.setCtx vf c).switches = s.switches := rfl
@[simp] theorem State.setCtx_crews (s : State) (vf : Nat) (c : Context) : (s.setCtx vf c).crews = s.crews := rfl
@[simp] theorem State.setCtx_nextCid (s : State) (vf : Nat) (c : Context) : (s.setCtx vf c).nextCid = s.nextCid := rfl
@[simp] theorem State.setCtx_nextOp (s : State) (vf : Nat) (c : Context) : (s.setCtx vf c).nextOp = s.nextOp := rfl
@[simp] theorem State.setCtx_clusters (s : State) (vf : Nat) (c : Context) : (s.setCtx vf c).clusters = s.clusters := rfl
@[simp] theorem State.setCtx_sups (s : State) (vf : Nat) (c : Context) : (s.setCtx vf c).sups = s.sups := rfl

/-! `State.modCtx` -/

@[simp] theorem State.modCtx_cur (s : State) (vf : Nat) (f : Context → Context) : (s.modCtx vf f).cur = s.cur := rfl
@[simp] theorem State.modCtx_agenda (s : State) (vf : Nat) (f : Context → Context) : (s.modCtx vf f).agenda = s.agenda := rfl
@[simp] theorem State.modCtx_tick (s : State) (vf : Nat) (f : Context → Context) : (s.modCtx vf f).tick = s.tick := rfl
@[simp] theorem State.modCtx_cyc (s : State) (vf : Nat) (f : Context → Context) : (s.modCtx vf f).cyc = s.cyc := rfl
@[simp] theorem State.modCtx_hbm (s : State) (vf : Nat) (f : Context → Context) : (s.modCtx vf f).hbm = s.hbm := rfl
@[simp] theorem State.modCtx_gran (s : State) (vf : Nat) (f : Context → Context) : (s.modCtx vf f).gran = s.gran := rfl
@[simp] theorem State.modCtx_poison (s : State) (vf : Nat) (f : Context → Context) : (s.modCtx vf f).poison = s.poison := rfl
@[simp] theorem State.modCtx_areas (s : State) (vf : Nat) (f : Context → Context) : (s.modCtx vf f).areas = s.areas := rfl
@[simp] theorem State.modCtx_areaMem (s : State) (vf : Nat) (f : Context → Context) : (s.modCtx vf f).areaMem = s.areaMem := rfl
@[simp] theorem State.modCtx_origin (s : State) (vf : Nat) (f : Context → Context) : (s.modCtx vf f).origin = s.origin := rfl
@[simp] theorem State.modCtx_l2 (s : State) (vf : Nat) (f : Context → Context) : (s.modCtx vf f).l2 = s.l2 := rfl
@[simp] theorem State.modCtx_pins (s : State) (vf : Nat) (f : Context → Context) : (s.modCtx vf f).pins = s.pins := rfl
@[simp] theorem State.modCtx_code (s : State) (vf : Nat) (f : Context → Context) : (s.modCtx vf f).code = s.code := rfl
@[simp] theorem State.modCtx_notices (s : State) (vf : Nat) (f : Context → Context) : (s.modCtx vf f).notices = s.notices := rfl
@[simp] theorem State.modCtx_frinvs (s : State) (vf : Nat) (f : Context → Context) : (s.modCtx vf f).frinvs = s.frinvs := rfl
@[simp] theorem State.modCtx_ctl (s : State) (vf : Nat) (f : Context → Context) : (s.modCtx vf f).ctl = s.ctl := rfl
@[simp] theorem State.modCtx_tbLevel (s : State) (vf : Nat) (f : Context → Context) : (s.modCtx vf f).tbLevel = s.tbLevel := rfl
@[simp] theorem State.modCtx_tbWaits (s : State) (vf : Nat) (f : Context → Context) : (s.modCtx vf f).tbWaits = s.tbWaits := rfl
@[simp] theorem State.modCtx_tbQueue (s : State) (vf : Nat) (f : Context → Context) : (s.modCtx vf f).tbQueue = s.tbQueue := rfl
@[simp] theorem State.modCtx_refilled (s : State) (vf : Nat) (f : Context → Context) : (s.modCtx vf f).refilled = s.refilled := rfl
@[simp] theorem State.modCtx_parts (s : State) (vf : Nat) (f : Context → Context) : (s.modCtx vf f).parts = s.parts := rfl
@[simp] theorem State.modCtx_deadClusters (s : State) (vf : Nat) (f : Context → Context) : (s.modCtx vf f).deadClusters = s.deadClusters := rfl
@[simp] theorem State.modCtx_deadCores (s : State) (vf : Nat) (f : Context → Context) : (s.modCtx vf f).deadCores = s.deadCores := rfl
@[simp] theorem State.modCtx_deadSlices (s : State) (vf : Nat) (f : Context → Context) : (s.modCtx vf f).deadSlices = s.deadSlices := rfl
@[simp] theorem State.modCtx_pendDead (s : State) (vf : Nat) (f : Context → Context) : (s.modCtx vf f).pendDead = s.pendDead := rfl
@[simp] theorem State.modCtx_pendDeadCores (s : State) (vf : Nat) (f : Context → Context) : (s.modCtx vf f).pendDeadCores = s.pendDeadCores := rfl
@[simp] theorem State.modCtx_slotErrs (s : State) (vf : Nat) (f : Context → Context) : (s.modCtx vf f).slotErrs = s.slotErrs := rfl
@[simp] theorem State.modCtx_arrErrs (s : State) (vf : Nat) (f : Context → Context) : (s.modCtx vf f).arrErrs = s.arrErrs := rfl
@[simp] theorem State.modCtx_regErrs (s : State) (vf : Nat) (f : Context → Context) : (s.modCtx vf f).regErrs = s.regErrs := rfl
@[simp] theorem State.modCtx_fabricId (s : State) (vf : Nat) (f : Context → Context) : (s.modCtx vf f).fabricId = s.fabricId := rfl
@[simp] theorem State.modCtx_pcieDown (s : State) (vf : Nat) (f : Context → Context) : (s.modCtx vf f).pcieDown = s.pcieDown := rfl
@[simp] theorem State.modCtx_portsDown (s : State) (vf : Nat) (f : Context → Context) : (s.modCtx vf f).portsDown = s.portsDown := rfl
@[simp] theorem State.modCtx_spdm (s : State) (vf : Nat) (f : Context → Context) : (s.modCtx vf f).spdm = s.spdm := rfl
@[simp] theorem State.modCtx_islands (s : State) (vf : Nat) (f : Context → Context) : (s.modCtx vf f).islands = s.islands := rfl
@[simp] theorem State.modCtx_cooled (s : State) (vf : Nat) (f : Context → Context) : (s.modCtx vf f).cooled = s.cooled := rfl
@[simp] theorem State.modCtx_mgmtIrq (s : State) (vf : Nat) (f : Context → Context) : (s.modCtx vf f).mgmtIrq = s.mgmtIrq := rfl
@[simp] theorem State.modCtx_hostLog (s : State) (vf : Nat) (f : Context → Context) : (s.modCtx vf f).hostLog = s.hostLog := rfl
@[simp] theorem State.modCtx_mgmtLog (s : State) (vf : Nat) (f : Context → Context) : (s.modCtx vf f).mgmtLog = s.mgmtLog := rfl
@[simp] theorem State.modCtx_turnover (s : State) (vf : Nat) (f : Context → Context) : (s.modCtx vf f).turnover = s.turnover := rfl
@[simp] theorem State.modCtx_ladleQ (s : State) (vf : Nat) (f : Context → Context) : (s.modCtx vf f).ladleQ = s.ladleQ := rfl
@[simp] theorem State.modCtx_switches (s : State) (vf : Nat) (f : Context → Context) : (s.modCtx vf f).switches = s.switches := rfl
@[simp] theorem State.modCtx_crews (s : State) (vf : Nat) (f : Context → Context) : (s.modCtx vf f).crews = s.crews := rfl
@[simp] theorem State.modCtx_nextCid (s : State) (vf : Nat) (f : Context → Context) : (s.modCtx vf f).nextCid = s.nextCid := rfl
@[simp] theorem State.modCtx_nextOp (s : State) (vf : Nat) (f : Context → Context) : (s.modCtx vf f).nextOp = s.nextOp := rfl
@[simp] theorem State.modCtx_clusters (s : State) (vf : Nat) (f : Context → Context) : (s.modCtx vf f).clusters = s.clusters := rfl
@[simp] theorem State.modCtx_sups (s : State) (vf : Nat) (f : Context → Context) : (s.modCtx vf f).sups = s.sups := rfl

/-! `State.setLabels` -/

@[simp] theorem State.setLabels_cur (s : State) (vf : Nat) (tab : List (BitVec 64)) : (s.setLabels vf tab).cur = s.cur := rfl
@[simp] theorem State.setLabels_agenda (s : State) (vf : Nat) (tab : List (BitVec 64)) : (s.setLabels vf tab).agenda = s.agenda := rfl
@[simp] theorem State.setLabels_tick (s : State) (vf : Nat) (tab : List (BitVec 64)) : (s.setLabels vf tab).tick = s.tick := rfl
@[simp] theorem State.setLabels_cyc (s : State) (vf : Nat) (tab : List (BitVec 64)) : (s.setLabels vf tab).cyc = s.cyc := rfl
@[simp] theorem State.setLabels_hbm (s : State) (vf : Nat) (tab : List (BitVec 64)) : (s.setLabels vf tab).hbm = s.hbm := rfl
@[simp] theorem State.setLabels_gran (s : State) (vf : Nat) (tab : List (BitVec 64)) : (s.setLabels vf tab).gran = s.gran := rfl
@[simp] theorem State.setLabels_poison (s : State) (vf : Nat) (tab : List (BitVec 64)) : (s.setLabels vf tab).poison = s.poison := rfl
@[simp] theorem State.setLabels_areas (s : State) (vf : Nat) (tab : List (BitVec 64)) : (s.setLabels vf tab).areas = s.areas := rfl
@[simp] theorem State.setLabels_areaMem (s : State) (vf : Nat) (tab : List (BitVec 64)) : (s.setLabels vf tab).areaMem = s.areaMem := rfl
@[simp] theorem State.setLabels_origin (s : State) (vf : Nat) (tab : List (BitVec 64)) : (s.setLabels vf tab).origin = s.origin := rfl
@[simp] theorem State.setLabels_l2 (s : State) (vf : Nat) (tab : List (BitVec 64)) : (s.setLabels vf tab).l2 = s.l2 := rfl
@[simp] theorem State.setLabels_pins (s : State) (vf : Nat) (tab : List (BitVec 64)) : (s.setLabels vf tab).pins = s.pins := rfl
@[simp] theorem State.setLabels_code (s : State) (vf : Nat) (tab : List (BitVec 64)) : (s.setLabels vf tab).code = s.code := rfl
@[simp] theorem State.setLabels_notices (s : State) (vf : Nat) (tab : List (BitVec 64)) : (s.setLabels vf tab).notices = s.notices := rfl
@[simp] theorem State.setLabels_frinvs (s : State) (vf : Nat) (tab : List (BitVec 64)) : (s.setLabels vf tab).frinvs = s.frinvs := rfl
@[simp] theorem State.setLabels_ctl (s : State) (vf : Nat) (tab : List (BitVec 64)) : (s.setLabels vf tab).ctl = s.ctl := rfl
@[simp] theorem State.setLabels_tbLevel (s : State) (vf : Nat) (tab : List (BitVec 64)) : (s.setLabels vf tab).tbLevel = s.tbLevel := rfl
@[simp] theorem State.setLabels_tbWaits (s : State) (vf : Nat) (tab : List (BitVec 64)) : (s.setLabels vf tab).tbWaits = s.tbWaits := rfl
@[simp] theorem State.setLabels_tbQueue (s : State) (vf : Nat) (tab : List (BitVec 64)) : (s.setLabels vf tab).tbQueue = s.tbQueue := rfl
@[simp] theorem State.setLabels_refilled (s : State) (vf : Nat) (tab : List (BitVec 64)) : (s.setLabels vf tab).refilled = s.refilled := rfl
@[simp] theorem State.setLabels_parts (s : State) (vf : Nat) (tab : List (BitVec 64)) : (s.setLabels vf tab).parts = s.parts := rfl
@[simp] theorem State.setLabels_deadClusters (s : State) (vf : Nat) (tab : List (BitVec 64)) : (s.setLabels vf tab).deadClusters = s.deadClusters := rfl
@[simp] theorem State.setLabels_deadCores (s : State) (vf : Nat) (tab : List (BitVec 64)) : (s.setLabels vf tab).deadCores = s.deadCores := rfl
@[simp] theorem State.setLabels_deadSlices (s : State) (vf : Nat) (tab : List (BitVec 64)) : (s.setLabels vf tab).deadSlices = s.deadSlices := rfl
@[simp] theorem State.setLabels_pendDead (s : State) (vf : Nat) (tab : List (BitVec 64)) : (s.setLabels vf tab).pendDead = s.pendDead := rfl
@[simp] theorem State.setLabels_pendDeadCores (s : State) (vf : Nat) (tab : List (BitVec 64)) : (s.setLabels vf tab).pendDeadCores = s.pendDeadCores := rfl
@[simp] theorem State.setLabels_slotErrs (s : State) (vf : Nat) (tab : List (BitVec 64)) : (s.setLabels vf tab).slotErrs = s.slotErrs := rfl
@[simp] theorem State.setLabels_arrErrs (s : State) (vf : Nat) (tab : List (BitVec 64)) : (s.setLabels vf tab).arrErrs = s.arrErrs := rfl
@[simp] theorem State.setLabels_regErrs (s : State) (vf : Nat) (tab : List (BitVec 64)) : (s.setLabels vf tab).regErrs = s.regErrs := rfl
@[simp] theorem State.setLabels_fabricId (s : State) (vf : Nat) (tab : List (BitVec 64)) : (s.setLabels vf tab).fabricId = s.fabricId := rfl
@[simp] theorem State.setLabels_pcieDown (s : State) (vf : Nat) (tab : List (BitVec 64)) : (s.setLabels vf tab).pcieDown = s.pcieDown := rfl
@[simp] theorem State.setLabels_portsDown (s : State) (vf : Nat) (tab : List (BitVec 64)) : (s.setLabels vf tab).portsDown = s.portsDown := rfl
@[simp] theorem State.setLabels_spdm (s : State) (vf : Nat) (tab : List (BitVec 64)) : (s.setLabels vf tab).spdm = s.spdm := rfl
@[simp] theorem State.setLabels_islands (s : State) (vf : Nat) (tab : List (BitVec 64)) : (s.setLabels vf tab).islands = s.islands := rfl
@[simp] theorem State.setLabels_cooled (s : State) (vf : Nat) (tab : List (BitVec 64)) : (s.setLabels vf tab).cooled = s.cooled := rfl
@[simp] theorem State.setLabels_mgmtIrq (s : State) (vf : Nat) (tab : List (BitVec 64)) : (s.setLabels vf tab).mgmtIrq = s.mgmtIrq := rfl
@[simp] theorem State.setLabels_hostLog (s : State) (vf : Nat) (tab : List (BitVec 64)) : (s.setLabels vf tab).hostLog = s.hostLog := rfl
@[simp] theorem State.setLabels_mgmtLog (s : State) (vf : Nat) (tab : List (BitVec 64)) : (s.setLabels vf tab).mgmtLog = s.mgmtLog := rfl
@[simp] theorem State.setLabels_turnover (s : State) (vf : Nat) (tab : List (BitVec 64)) : (s.setLabels vf tab).turnover = s.turnover := rfl
@[simp] theorem State.setLabels_ladleQ (s : State) (vf : Nat) (tab : List (BitVec 64)) : (s.setLabels vf tab).ladleQ = s.ladleQ := rfl
@[simp] theorem State.setLabels_switches (s : State) (vf : Nat) (tab : List (BitVec 64)) : (s.setLabels vf tab).switches = s.switches := rfl
@[simp] theorem State.setLabels_crews (s : State) (vf : Nat) (tab : List (BitVec 64)) : (s.setLabels vf tab).crews = s.crews := rfl
@[simp] theorem State.setLabels_nextCid (s : State) (vf : Nat) (tab : List (BitVec 64)) : (s.setLabels vf tab).nextCid = s.nextCid := rfl
@[simp] theorem State.setLabels_nextOp (s : State) (vf : Nat) (tab : List (BitVec 64)) : (s.setLabels vf tab).nextOp = s.nextOp := rfl
@[simp] theorem State.setLabels_clusters (s : State) (vf : Nat) (tab : List (BitVec 64)) : (s.setLabels vf tab).clusters = s.clusters := rfl
@[simp] theorem State.setLabels_sups (s : State) (vf : Nat) (tab : List (BitVec 64)) : (s.setLabels vf tab).sups = s.sups := rfl

/-! `State.modCrew` -/

@[simp] theorem State.modCrew_cur (s : State) (cid : Nat) (f : Crew → Crew) : (s.modCrew cid f).cur = s.cur := rfl
@[simp] theorem State.modCrew_agenda (s : State) (cid : Nat) (f : Crew → Crew) : (s.modCrew cid f).agenda = s.agenda := rfl
@[simp] theorem State.modCrew_tick (s : State) (cid : Nat) (f : Crew → Crew) : (s.modCrew cid f).tick = s.tick := rfl
@[simp] theorem State.modCrew_cyc (s : State) (cid : Nat) (f : Crew → Crew) : (s.modCrew cid f).cyc = s.cyc := rfl
@[simp] theorem State.modCrew_hbm (s : State) (cid : Nat) (f : Crew → Crew) : (s.modCrew cid f).hbm = s.hbm := rfl
@[simp] theorem State.modCrew_gran (s : State) (cid : Nat) (f : Crew → Crew) : (s.modCrew cid f).gran = s.gran := rfl
@[simp] theorem State.modCrew_poison (s : State) (cid : Nat) (f : Crew → Crew) : (s.modCrew cid f).poison = s.poison := rfl
@[simp] theorem State.modCrew_areas (s : State) (cid : Nat) (f : Crew → Crew) : (s.modCrew cid f).areas = s.areas := rfl
@[simp] theorem State.modCrew_areaMem (s : State) (cid : Nat) (f : Crew → Crew) : (s.modCrew cid f).areaMem = s.areaMem := rfl
@[simp] theorem State.modCrew_origin (s : State) (cid : Nat) (f : Crew → Crew) : (s.modCrew cid f).origin = s.origin := rfl
@[simp] theorem State.modCrew_l2 (s : State) (cid : Nat) (f : Crew → Crew) : (s.modCrew cid f).l2 = s.l2 := rfl
@[simp] theorem State.modCrew_pins (s : State) (cid : Nat) (f : Crew → Crew) : (s.modCrew cid f).pins = s.pins := rfl
@[simp] theorem State.modCrew_code (s : State) (cid : Nat) (f : Crew → Crew) : (s.modCrew cid f).code = s.code := rfl
@[simp] theorem State.modCrew_notices (s : State) (cid : Nat) (f : Crew → Crew) : (s.modCrew cid f).notices = s.notices := rfl
@[simp] theorem State.modCrew_frinvs (s : State) (cid : Nat) (f : Crew → Crew) : (s.modCrew cid f).frinvs = s.frinvs := rfl
@[simp] theorem State.modCrew_ctl (s : State) (cid : Nat) (f : Crew → Crew) : (s.modCrew cid f).ctl = s.ctl := rfl
@[simp] theorem State.modCrew_tbLevel (s : State) (cid : Nat) (f : Crew → Crew) : (s.modCrew cid f).tbLevel = s.tbLevel := rfl
@[simp] theorem State.modCrew_tbWaits (s : State) (cid : Nat) (f : Crew → Crew) : (s.modCrew cid f).tbWaits = s.tbWaits := rfl
@[simp] theorem State.modCrew_tbQueue (s : State) (cid : Nat) (f : Crew → Crew) : (s.modCrew cid f).tbQueue = s.tbQueue := rfl
@[simp] theorem State.modCrew_refilled (s : State) (cid : Nat) (f : Crew → Crew) : (s.modCrew cid f).refilled = s.refilled := rfl
@[simp] theorem State.modCrew_parts (s : State) (cid : Nat) (f : Crew → Crew) : (s.modCrew cid f).parts = s.parts := rfl
@[simp] theorem State.modCrew_deadClusters (s : State) (cid : Nat) (f : Crew → Crew) : (s.modCrew cid f).deadClusters = s.deadClusters := rfl
@[simp] theorem State.modCrew_deadCores (s : State) (cid : Nat) (f : Crew → Crew) : (s.modCrew cid f).deadCores = s.deadCores := rfl
@[simp] theorem State.modCrew_deadSlices (s : State) (cid : Nat) (f : Crew → Crew) : (s.modCrew cid f).deadSlices = s.deadSlices := rfl
@[simp] theorem State.modCrew_pendDead (s : State) (cid : Nat) (f : Crew → Crew) : (s.modCrew cid f).pendDead = s.pendDead := rfl
@[simp] theorem State.modCrew_pendDeadCores (s : State) (cid : Nat) (f : Crew → Crew) : (s.modCrew cid f).pendDeadCores = s.pendDeadCores := rfl
@[simp] theorem State.modCrew_slotErrs (s : State) (cid : Nat) (f : Crew → Crew) : (s.modCrew cid f).slotErrs = s.slotErrs := rfl
@[simp] theorem State.modCrew_arrErrs (s : State) (cid : Nat) (f : Crew → Crew) : (s.modCrew cid f).arrErrs = s.arrErrs := rfl
@[simp] theorem State.modCrew_regErrs (s : State) (cid : Nat) (f : Crew → Crew) : (s.modCrew cid f).regErrs = s.regErrs := rfl
@[simp] theorem State.modCrew_fabricId (s : State) (cid : Nat) (f : Crew → Crew) : (s.modCrew cid f).fabricId = s.fabricId := rfl
@[simp] theorem State.modCrew_pcieDown (s : State) (cid : Nat) (f : Crew → Crew) : (s.modCrew cid f).pcieDown = s.pcieDown := rfl
@[simp] theorem State.modCrew_portsDown (s : State) (cid : Nat) (f : Crew → Crew) : (s.modCrew cid f).portsDown = s.portsDown := rfl
@[simp] theorem State.modCrew_spdm (s : State) (cid : Nat) (f : Crew → Crew) : (s.modCrew cid f).spdm = s.spdm := rfl
@[simp] theorem State.modCrew_islands (s : State) (cid : Nat) (f : Crew → Crew) : (s.modCrew cid f).islands = s.islands := rfl
@[simp] theorem State.modCrew_cooled (s : State) (cid : Nat) (f : Crew → Crew) : (s.modCrew cid f).cooled = s.cooled := rfl
@[simp] theorem State.modCrew_mgmtIrq (s : State) (cid : Nat) (f : Crew → Crew) : (s.modCrew cid f).mgmtIrq = s.mgmtIrq := rfl
@[simp] theorem State.modCrew_hostLog (s : State) (cid : Nat) (f : Crew → Crew) : (s.modCrew cid f).hostLog = s.hostLog := rfl
@[simp] theorem State.modCrew_mgmtLog (s : State) (cid : Nat) (f : Crew → Crew) : (s.modCrew cid f).mgmtLog = s.mgmtLog := rfl
@[simp] theorem State.modCrew_turnover (s : State) (cid : Nat) (f : Crew → Crew) : (s.modCrew cid f).turnover = s.turnover := rfl
@[simp] theorem State.modCrew_ladleQ (s : State) (cid : Nat) (f : Crew → Crew) : (s.modCrew cid f).ladleQ = s.ladleQ := rfl
@[simp] theorem State.modCrew_switches (s : State) (cid : Nat) (f : Crew → Crew) : (s.modCrew cid f).switches = s.switches := rfl
@[simp] theorem State.modCrew_ctxs (s : State) (cid : Nat) (f : Crew → Crew) : (s.modCrew cid f).ctxs = s.ctxs := rfl
@[simp] theorem State.modCrew_nextCid (s : State) (cid : Nat) (f : Crew → Crew) : (s.modCrew cid f).nextCid = s.nextCid := rfl
@[simp] theorem State.modCrew_nextOp (s : State) (cid : Nat) (f : Crew → Crew) : (s.modCrew cid f).nextOp = s.nextOp := rfl
@[simp] theorem State.modCrew_clusters (s : State) (cid : Nat) (f : Crew → Crew) : (s.modCrew cid f).clusters = s.clusters := rfl
@[simp] theorem State.modCrew_sups (s : State) (cid : Nat) (f : Crew → Crew) : (s.modCrew cid f).sups = s.sups := rfl

/-! `State.modTeam` -/

@[simp] theorem State.modTeam_cur (s : State) (cid n : Nat) (f : Team → Team) : (s.modTeam cid n f).cur = s.cur := rfl
@[simp] theorem State.modTeam_agenda (s : State) (cid n : Nat) (f : Team → Team) : (s.modTeam cid n f).agenda = s.agenda := rfl
@[simp] theorem State.modTeam_tick (s : State) (cid n : Nat) (f : Team → Team) : (s.modTeam cid n f).tick = s.tick := rfl
@[simp] theorem State.modTeam_cyc (s : State) (cid n : Nat) (f : Team → Team) : (s.modTeam cid n f).cyc = s.cyc := rfl
@[simp] theorem State.modTeam_hbm (s : State) (cid n : Nat) (f : Team → Team) : (s.modTeam cid n f).hbm = s.hbm := rfl
@[simp] theorem State.modTeam_gran (s : State) (cid n : Nat) (f : Team → Team) : (s.modTeam cid n f).gran = s.gran := rfl
@[simp] theorem State.modTeam_poison (s : State) (cid n : Nat) (f : Team → Team) : (s.modTeam cid n f).poison = s.poison := rfl
@[simp] theorem State.modTeam_areas (s : State) (cid n : Nat) (f : Team → Team) : (s.modTeam cid n f).areas = s.areas := rfl
@[simp] theorem State.modTeam_areaMem (s : State) (cid n : Nat) (f : Team → Team) : (s.modTeam cid n f).areaMem = s.areaMem := rfl
@[simp] theorem State.modTeam_origin (s : State) (cid n : Nat) (f : Team → Team) : (s.modTeam cid n f).origin = s.origin := rfl
@[simp] theorem State.modTeam_l2 (s : State) (cid n : Nat) (f : Team → Team) : (s.modTeam cid n f).l2 = s.l2 := rfl
@[simp] theorem State.modTeam_pins (s : State) (cid n : Nat) (f : Team → Team) : (s.modTeam cid n f).pins = s.pins := rfl
@[simp] theorem State.modTeam_code (s : State) (cid n : Nat) (f : Team → Team) : (s.modTeam cid n f).code = s.code := rfl
@[simp] theorem State.modTeam_notices (s : State) (cid n : Nat) (f : Team → Team) : (s.modTeam cid n f).notices = s.notices := rfl
@[simp] theorem State.modTeam_frinvs (s : State) (cid n : Nat) (f : Team → Team) : (s.modTeam cid n f).frinvs = s.frinvs := rfl
@[simp] theorem State.modTeam_ctl (s : State) (cid n : Nat) (f : Team → Team) : (s.modTeam cid n f).ctl = s.ctl := rfl
@[simp] theorem State.modTeam_tbLevel (s : State) (cid n : Nat) (f : Team → Team) : (s.modTeam cid n f).tbLevel = s.tbLevel := rfl
@[simp] theorem State.modTeam_tbWaits (s : State) (cid n : Nat) (f : Team → Team) : (s.modTeam cid n f).tbWaits = s.tbWaits := rfl
@[simp] theorem State.modTeam_tbQueue (s : State) (cid n : Nat) (f : Team → Team) : (s.modTeam cid n f).tbQueue = s.tbQueue := rfl
@[simp] theorem State.modTeam_refilled (s : State) (cid n : Nat) (f : Team → Team) : (s.modTeam cid n f).refilled = s.refilled := rfl
@[simp] theorem State.modTeam_parts (s : State) (cid n : Nat) (f : Team → Team) : (s.modTeam cid n f).parts = s.parts := rfl
@[simp] theorem State.modTeam_deadClusters (s : State) (cid n : Nat) (f : Team → Team) : (s.modTeam cid n f).deadClusters = s.deadClusters := rfl
@[simp] theorem State.modTeam_deadCores (s : State) (cid n : Nat) (f : Team → Team) : (s.modTeam cid n f).deadCores = s.deadCores := rfl
@[simp] theorem State.modTeam_deadSlices (s : State) (cid n : Nat) (f : Team → Team) : (s.modTeam cid n f).deadSlices = s.deadSlices := rfl
@[simp] theorem State.modTeam_pendDead (s : State) (cid n : Nat) (f : Team → Team) : (s.modTeam cid n f).pendDead = s.pendDead := rfl
@[simp] theorem State.modTeam_pendDeadCores (s : State) (cid n : Nat) (f : Team → Team) : (s.modTeam cid n f).pendDeadCores = s.pendDeadCores := rfl
@[simp] theorem State.modTeam_slotErrs (s : State) (cid n : Nat) (f : Team → Team) : (s.modTeam cid n f).slotErrs = s.slotErrs := rfl
@[simp] theorem State.modTeam_arrErrs (s : State) (cid n : Nat) (f : Team → Team) : (s.modTeam cid n f).arrErrs = s.arrErrs := rfl
@[simp] theorem State.modTeam_regErrs (s : State) (cid n : Nat) (f : Team → Team) : (s.modTeam cid n f).regErrs = s.regErrs := rfl
@[simp] theorem State.modTeam_fabricId (s : State) (cid n : Nat) (f : Team → Team) : (s.modTeam cid n f).fabricId = s.fabricId := rfl
@[simp] theorem State.modTeam_pcieDown (s : State) (cid n : Nat) (f : Team → Team) : (s.modTeam cid n f).pcieDown = s.pcieDown := rfl
@[simp] theorem State.modTeam_portsDown (s : State) (cid n : Nat) (f : Team → Team) : (s.modTeam cid n f).portsDown = s.portsDown := rfl
@[simp] theorem State.modTeam_spdm (s : State) (cid n : Nat) (f : Team → Team) : (s.modTeam cid n f).spdm = s.spdm := rfl
@[simp] theorem State.modTeam_islands (s : State) (cid n : Nat) (f : Team → Team) : (s.modTeam cid n f).islands = s.islands := rfl
@[simp] theorem State.modTeam_cooled (s : State) (cid n : Nat) (f : Team → Team) : (s.modTeam cid n f).cooled = s.cooled := rfl
@[simp] theorem State.modTeam_mgmtIrq (s : State) (cid n : Nat) (f : Team → Team) : (s.modTeam cid n f).mgmtIrq = s.mgmtIrq := rfl
@[simp] theorem State.modTeam_hostLog (s : State) (cid n : Nat) (f : Team → Team) : (s.modTeam cid n f).hostLog = s.hostLog := rfl
@[simp] theorem State.modTeam_mgmtLog (s : State) (cid n : Nat) (f : Team → Team) : (s.modTeam cid n f).mgmtLog = s.mgmtLog := rfl
@[simp] theorem State.modTeam_turnover (s : State) (cid n : Nat) (f : Team → Team) : (s.modTeam cid n f).turnover = s.turnover := rfl
@[simp] theorem State.modTeam_ladleQ (s : State) (cid n : Nat) (f : Team → Team) : (s.modTeam cid n f).ladleQ = s.ladleQ := rfl
@[simp] theorem State.modTeam_switches (s : State) (cid n : Nat) (f : Team → Team) : (s.modTeam cid n f).switches = s.switches := rfl
@[simp] theorem State.modTeam_ctxs (s : State) (cid n : Nat) (f : Team → Team) : (s.modTeam cid n f).ctxs = s.ctxs := rfl
@[simp] theorem State.modTeam_nextCid (s : State) (cid n : Nat) (f : Team → Team) : (s.modTeam cid n f).nextCid = s.nextCid := rfl
@[simp] theorem State.modTeam_nextOp (s : State) (cid n : Nat) (f : Team → Team) : (s.modTeam cid n f).nextOp = s.nextOp := rfl
@[simp] theorem State.modTeam_clusters (s : State) (cid n : Nat) (f : Team → Team) : (s.modTeam cid n f).clusters = s.clusters := rfl
@[simp] theorem State.modTeam_sups (s : State) (cid n : Nat) (f : Team → Team) : (s.modTeam cid n f).sups = s.sups := rfl

/-! `State.setCluster` -/

@[simp] theorem State.setCluster_cur (s : State) (n : Nat) (c : Cluster) : (s.setCluster n c).cur = s.cur := rfl
@[simp] theorem State.setCluster_agenda (s : State) (n : Nat) (c : Cluster) : (s.setCluster n c).agenda = s.agenda := rfl
@[simp] theorem State.setCluster_tick (s : State) (n : Nat) (c : Cluster) : (s.setCluster n c).tick = s.tick := rfl
@[simp] theorem State.setCluster_cyc (s : State) (n : Nat) (c : Cluster) : (s.setCluster n c).cyc = s.cyc := rfl
@[simp] theorem State.setCluster_hbm (s : State) (n : Nat) (c : Cluster) : (s.setCluster n c).hbm = s.hbm := rfl
@[simp] theorem State.setCluster_gran (s : State) (n : Nat) (c : Cluster) : (s.setCluster n c).gran = s.gran := rfl
@[simp] theorem State.setCluster_poison (s : State) (n : Nat) (c : Cluster) : (s.setCluster n c).poison = s.poison := rfl
@[simp] theorem State.setCluster_areas (s : State) (n : Nat) (c : Cluster) : (s.setCluster n c).areas = s.areas := rfl
@[simp] theorem State.setCluster_areaMem (s : State) (n : Nat) (c : Cluster) : (s.setCluster n c).areaMem = s.areaMem := rfl
@[simp] theorem State.setCluster_origin (s : State) (n : Nat) (c : Cluster) : (s.setCluster n c).origin = s.origin := rfl
@[simp] theorem State.setCluster_l2 (s : State) (n : Nat) (c : Cluster) : (s.setCluster n c).l2 = s.l2 := rfl
@[simp] theorem State.setCluster_pins (s : State) (n : Nat) (c : Cluster) : (s.setCluster n c).pins = s.pins := rfl
@[simp] theorem State.setCluster_code (s : State) (n : Nat) (c : Cluster) : (s.setCluster n c).code = s.code := rfl
@[simp] theorem State.setCluster_notices (s : State) (n : Nat) (c : Cluster) : (s.setCluster n c).notices = s.notices := rfl
@[simp] theorem State.setCluster_frinvs (s : State) (n : Nat) (c : Cluster) : (s.setCluster n c).frinvs = s.frinvs := rfl
@[simp] theorem State.setCluster_ctl (s : State) (n : Nat) (c : Cluster) : (s.setCluster n c).ctl = s.ctl := rfl
@[simp] theorem State.setCluster_tbLevel (s : State) (n : Nat) (c : Cluster) : (s.setCluster n c).tbLevel = s.tbLevel := rfl
@[simp] theorem State.setCluster_tbWaits (s : State) (n : Nat) (c : Cluster) : (s.setCluster n c).tbWaits = s.tbWaits := rfl
@[simp] theorem State.setCluster_tbQueue (s : State) (n : Nat) (c : Cluster) : (s.setCluster n c).tbQueue = s.tbQueue := rfl
@[simp] theorem State.setCluster_refilled (s : State) (n : Nat) (c : Cluster) : (s.setCluster n c).refilled = s.refilled := rfl
@[simp] theorem State.setCluster_parts (s : State) (n : Nat) (c : Cluster) : (s.setCluster n c).parts = s.parts := rfl
@[simp] theorem State.setCluster_deadClusters (s : State) (n : Nat) (c : Cluster) : (s.setCluster n c).deadClusters = s.deadClusters := rfl
@[simp] theorem State.setCluster_deadCores (s : State) (n : Nat) (c : Cluster) : (s.setCluster n c).deadCores = s.deadCores := rfl
@[simp] theorem State.setCluster_deadSlices (s : State) (n : Nat) (c : Cluster) : (s.setCluster n c).deadSlices = s.deadSlices := rfl
@[simp] theorem State.setCluster_pendDead (s : State) (n : Nat) (c : Cluster) : (s.setCluster n c).pendDead = s.pendDead := rfl
@[simp] theorem State.setCluster_pendDeadCores (s : State) (n : Nat) (c : Cluster) : (s.setCluster n c).pendDeadCores = s.pendDeadCores := rfl
@[simp] theorem State.setCluster_slotErrs (s : State) (n : Nat) (c : Cluster) : (s.setCluster n c).slotErrs = s.slotErrs := rfl
@[simp] theorem State.setCluster_arrErrs (s : State) (n : Nat) (c : Cluster) : (s.setCluster n c).arrErrs = s.arrErrs := rfl
@[simp] theorem State.setCluster_regErrs (s : State) (n : Nat) (c : Cluster) : (s.setCluster n c).regErrs = s.regErrs := rfl
@[simp] theorem State.setCluster_fabricId (s : State) (n : Nat) (c : Cluster) : (s.setCluster n c).fabricId = s.fabricId := rfl
@[simp] theorem State.setCluster_pcieDown (s : State) (n : Nat) (c : Cluster) : (s.setCluster n c).pcieDown = s.pcieDown := rfl
@[simp] theorem State.setCluster_portsDown (s : State) (n : Nat) (c : Cluster) : (s.setCluster n c).portsDown = s.portsDown := rfl
@[simp] theorem State.setCluster_spdm (s : State) (n : Nat) (c : Cluster) : (s.setCluster n c).spdm = s.spdm := rfl
@[simp] theorem State.setCluster_islands (s : State) (n : Nat) (c : Cluster) : (s.setCluster n c).islands = s.islands := rfl
@[simp] theorem State.setCluster_cooled (s : State) (n : Nat) (c : Cluster) : (s.setCluster n c).cooled = s.cooled := rfl
@[simp] theorem State.setCluster_mgmtIrq (s : State) (n : Nat) (c : Cluster) : (s.setCluster n c).mgmtIrq = s.mgmtIrq := rfl
@[simp] theorem State.setCluster_hostLog (s : State) (n : Nat) (c : Cluster) : (s.setCluster n c).hostLog = s.hostLog := rfl
@[simp] theorem State.setCluster_mgmtLog (s : State) (n : Nat) (c : Cluster) : (s.setCluster n c).mgmtLog = s.mgmtLog := rfl
@[simp] theorem State.setCluster_turnover (s : State) (n : Nat) (c : Cluster) : (s.setCluster n c).turnover = s.turnover := rfl
@[simp] theorem State.setCluster_ladleQ (s : State) (n : Nat) (c : Cluster) : (s.setCluster n c).ladleQ = s.ladleQ := rfl
@[simp] theorem State.setCluster_switches (s : State) (n : Nat) (c : Cluster) : (s.setCluster n c).switches = s.switches := rfl
@[simp] theorem State.setCluster_ctxs (s : State) (n : Nat) (c : Cluster) : (s.setCluster n c).ctxs = s.ctxs := rfl
@[simp] theorem State.setCluster_crews (s : State) (n : Nat) (c : Cluster) : (s.setCluster n c).crews = s.crews := rfl
@[simp] theorem State.setCluster_nextCid (s : State) (n : Nat) (c : Cluster) : (s.setCluster n c).nextCid = s.nextCid := rfl
@[simp] theorem State.setCluster_nextOp (s : State) (n : Nat) (c : Cluster) : (s.setCluster n c).nextOp = s.nextOp := rfl
@[simp] theorem State.setCluster_sups (s : State) (n : Nat) (c : Cluster) : (s.setCluster n c).sups = s.sups := rfl

/-! `State.modCluster` -/

@[simp] theorem State.modCluster_cur (s : State) (n : Nat) (f : Cluster → Cluster) : (s.modCluster n f).cur = s.cur := rfl
@[simp] theorem State.modCluster_agenda (s : State) (n : Nat) (f : Cluster → Cluster) : (s.modCluster n f).agenda = s.agenda := rfl
@[simp] theorem State.modCluster_tick (s : State) (n : Nat) (f : Cluster → Cluster) : (s.modCluster n f).tick = s.tick := rfl
@[simp] theorem State.modCluster_cyc (s : State) (n : Nat) (f : Cluster → Cluster) : (s.modCluster n f).cyc = s.cyc := rfl
@[simp] theorem State.modCluster_hbm (s : State) (n : Nat) (f : Cluster → Cluster) : (s.modCluster n f).hbm = s.hbm := rfl
@[simp] theorem State.modCluster_gran (s : State) (n : Nat) (f : Cluster → Cluster) : (s.modCluster n f).gran = s.gran := rfl
@[simp] theorem State.modCluster_poison (s : State) (n : Nat) (f : Cluster → Cluster) : (s.modCluster n f).poison = s.poison := rfl
@[simp] theorem State.modCluster_areas (s : State) (n : Nat) (f : Cluster → Cluster) : (s.modCluster n f).areas = s.areas := rfl
@[simp] theorem State.modCluster_areaMem (s : State) (n : Nat) (f : Cluster → Cluster) : (s.modCluster n f).areaMem = s.areaMem := rfl
@[simp] theorem State.modCluster_origin (s : State) (n : Nat) (f : Cluster → Cluster) : (s.modCluster n f).origin = s.origin := rfl
@[simp] theorem State.modCluster_l2 (s : State) (n : Nat) (f : Cluster → Cluster) : (s.modCluster n f).l2 = s.l2 := rfl
@[simp] theorem State.modCluster_pins (s : State) (n : Nat) (f : Cluster → Cluster) : (s.modCluster n f).pins = s.pins := rfl
@[simp] theorem State.modCluster_code (s : State) (n : Nat) (f : Cluster → Cluster) : (s.modCluster n f).code = s.code := rfl
@[simp] theorem State.modCluster_notices (s : State) (n : Nat) (f : Cluster → Cluster) : (s.modCluster n f).notices = s.notices := rfl
@[simp] theorem State.modCluster_frinvs (s : State) (n : Nat) (f : Cluster → Cluster) : (s.modCluster n f).frinvs = s.frinvs := rfl
@[simp] theorem State.modCluster_ctl (s : State) (n : Nat) (f : Cluster → Cluster) : (s.modCluster n f).ctl = s.ctl := rfl
@[simp] theorem State.modCluster_tbLevel (s : State) (n : Nat) (f : Cluster → Cluster) : (s.modCluster n f).tbLevel = s.tbLevel := rfl
@[simp] theorem State.modCluster_tbWaits (s : State) (n : Nat) (f : Cluster → Cluster) : (s.modCluster n f).tbWaits = s.tbWaits := rfl
@[simp] theorem State.modCluster_tbQueue (s : State) (n : Nat) (f : Cluster → Cluster) : (s.modCluster n f).tbQueue = s.tbQueue := rfl
@[simp] theorem State.modCluster_refilled (s : State) (n : Nat) (f : Cluster → Cluster) : (s.modCluster n f).refilled = s.refilled := rfl
@[simp] theorem State.modCluster_parts (s : State) (n : Nat) (f : Cluster → Cluster) : (s.modCluster n f).parts = s.parts := rfl
@[simp] theorem State.modCluster_deadClusters (s : State) (n : Nat) (f : Cluster → Cluster) : (s.modCluster n f).deadClusters = s.deadClusters := rfl
@[simp] theorem State.modCluster_deadCores (s : State) (n : Nat) (f : Cluster → Cluster) : (s.modCluster n f).deadCores = s.deadCores := rfl
@[simp] theorem State.modCluster_deadSlices (s : State) (n : Nat) (f : Cluster → Cluster) : (s.modCluster n f).deadSlices = s.deadSlices := rfl
@[simp] theorem State.modCluster_pendDead (s : State) (n : Nat) (f : Cluster → Cluster) : (s.modCluster n f).pendDead = s.pendDead := rfl
@[simp] theorem State.modCluster_pendDeadCores (s : State) (n : Nat) (f : Cluster → Cluster) : (s.modCluster n f).pendDeadCores = s.pendDeadCores := rfl
@[simp] theorem State.modCluster_slotErrs (s : State) (n : Nat) (f : Cluster → Cluster) : (s.modCluster n f).slotErrs = s.slotErrs := rfl
@[simp] theorem State.modCluster_arrErrs (s : State) (n : Nat) (f : Cluster → Cluster) : (s.modCluster n f).arrErrs = s.arrErrs := rfl
@[simp] theorem State.modCluster_regErrs (s : State) (n : Nat) (f : Cluster → Cluster) : (s.modCluster n f).regErrs = s.regErrs := rfl
@[simp] theorem State.modCluster_fabricId (s : State) (n : Nat) (f : Cluster → Cluster) : (s.modCluster n f).fabricId = s.fabricId := rfl
@[simp] theorem State.modCluster_pcieDown (s : State) (n : Nat) (f : Cluster → Cluster) : (s.modCluster n f).pcieDown = s.pcieDown := rfl
@[simp] theorem State.modCluster_portsDown (s : State) (n : Nat) (f : Cluster → Cluster) : (s.modCluster n f).portsDown = s.portsDown := rfl
@[simp] theorem State.modCluster_spdm (s : State) (n : Nat) (f : Cluster → Cluster) : (s.modCluster n f).spdm = s.spdm := rfl
@[simp] theorem State.modCluster_islands (s : State) (n : Nat) (f : Cluster → Cluster) : (s.modCluster n f).islands = s.islands := rfl
@[simp] theorem State.modCluster_cooled (s : State) (n : Nat) (f : Cluster → Cluster) : (s.modCluster n f).cooled = s.cooled := rfl
@[simp] theorem State.modCluster_mgmtIrq (s : State) (n : Nat) (f : Cluster → Cluster) : (s.modCluster n f).mgmtIrq = s.mgmtIrq := rfl
@[simp] theorem State.modCluster_hostLog (s : State) (n : Nat) (f : Cluster → Cluster) : (s.modCluster n f).hostLog = s.hostLog := rfl
@[simp] theorem State.modCluster_mgmtLog (s : State) (n : Nat) (f : Cluster → Cluster) : (s.modCluster n f).mgmtLog = s.mgmtLog := rfl
@[simp] theorem State.modCluster_turnover (s : State) (n : Nat) (f : Cluster → Cluster) : (s.modCluster n f).turnover = s.turnover := rfl
@[simp] theorem State.modCluster_ladleQ (s : State) (n : Nat) (f : Cluster → Cluster) : (s.modCluster n f).ladleQ = s.ladleQ := rfl
@[simp] theorem State.modCluster_switches (s : State) (n : Nat) (f : Cluster → Cluster) : (s.modCluster n f).switches = s.switches := rfl
@[simp] theorem State.modCluster_ctxs (s : State) (n : Nat) (f : Cluster → Cluster) : (s.modCluster n f).ctxs = s.ctxs := rfl
@[simp] theorem State.modCluster_crews (s : State) (n : Nat) (f : Cluster → Cluster) : (s.modCluster n f).crews = s.crews := rfl
@[simp] theorem State.modCluster_nextCid (s : State) (n : Nat) (f : Cluster → Cluster) : (s.modCluster n f).nextCid = s.nextCid := rfl
@[simp] theorem State.modCluster_nextOp (s : State) (n : Nat) (f : Cluster → Cluster) : (s.modCluster n f).nextOp = s.nextOp := rfl
@[simp] theorem State.modCluster_sups (s : State) (n : Nat) (f : Cluster → Cluster) : (s.modCluster n f).sups = s.sups := rfl

/-! `State.modL1` -/

@[simp] theorem State.modL1_cur (s : State) (cl core : Nat) (f : L1 → L1) : (s.modL1 cl core f).cur = s.cur := rfl
@[simp] theorem State.modL1_agenda (s : State) (cl core : Nat) (f : L1 → L1) : (s.modL1 cl core f).agenda = s.agenda := rfl
@[simp] theorem State.modL1_tick (s : State) (cl core : Nat) (f : L1 → L1) : (s.modL1 cl core f).tick = s.tick := rfl
@[simp] theorem State.modL1_cyc (s : State) (cl core : Nat) (f : L1 → L1) : (s.modL1 cl core f).cyc = s.cyc := rfl
@[simp] theorem State.modL1_hbm (s : State) (cl core : Nat) (f : L1 → L1) : (s.modL1 cl core f).hbm = s.hbm := rfl
@[simp] theorem State.modL1_gran (s : State) (cl core : Nat) (f : L1 → L1) : (s.modL1 cl core f).gran = s.gran := rfl
@[simp] theorem State.modL1_poison (s : State) (cl core : Nat) (f : L1 → L1) : (s.modL1 cl core f).poison = s.poison := rfl
@[simp] theorem State.modL1_areas (s : State) (cl core : Nat) (f : L1 → L1) : (s.modL1 cl core f).areas = s.areas := rfl
@[simp] theorem State.modL1_areaMem (s : State) (cl core : Nat) (f : L1 → L1) : (s.modL1 cl core f).areaMem = s.areaMem := rfl
@[simp] theorem State.modL1_origin (s : State) (cl core : Nat) (f : L1 → L1) : (s.modL1 cl core f).origin = s.origin := rfl
@[simp] theorem State.modL1_l2 (s : State) (cl core : Nat) (f : L1 → L1) : (s.modL1 cl core f).l2 = s.l2 := rfl
@[simp] theorem State.modL1_pins (s : State) (cl core : Nat) (f : L1 → L1) : (s.modL1 cl core f).pins = s.pins := rfl
@[simp] theorem State.modL1_code (s : State) (cl core : Nat) (f : L1 → L1) : (s.modL1 cl core f).code = s.code := rfl
@[simp] theorem State.modL1_notices (s : State) (cl core : Nat) (f : L1 → L1) : (s.modL1 cl core f).notices = s.notices := rfl
@[simp] theorem State.modL1_frinvs (s : State) (cl core : Nat) (f : L1 → L1) : (s.modL1 cl core f).frinvs = s.frinvs := rfl
@[simp] theorem State.modL1_ctl (s : State) (cl core : Nat) (f : L1 → L1) : (s.modL1 cl core f).ctl = s.ctl := rfl
@[simp] theorem State.modL1_tbLevel (s : State) (cl core : Nat) (f : L1 → L1) : (s.modL1 cl core f).tbLevel = s.tbLevel := rfl
@[simp] theorem State.modL1_tbWaits (s : State) (cl core : Nat) (f : L1 → L1) : (s.modL1 cl core f).tbWaits = s.tbWaits := rfl
@[simp] theorem State.modL1_tbQueue (s : State) (cl core : Nat) (f : L1 → L1) : (s.modL1 cl core f).tbQueue = s.tbQueue := rfl
@[simp] theorem State.modL1_refilled (s : State) (cl core : Nat) (f : L1 → L1) : (s.modL1 cl core f).refilled = s.refilled := rfl
@[simp] theorem State.modL1_parts (s : State) (cl core : Nat) (f : L1 → L1) : (s.modL1 cl core f).parts = s.parts := rfl
@[simp] theorem State.modL1_deadClusters (s : State) (cl core : Nat) (f : L1 → L1) : (s.modL1 cl core f).deadClusters = s.deadClusters := rfl
@[simp] theorem State.modL1_deadCores (s : State) (cl core : Nat) (f : L1 → L1) : (s.modL1 cl core f).deadCores = s.deadCores := rfl
@[simp] theorem State.modL1_deadSlices (s : State) (cl core : Nat) (f : L1 → L1) : (s.modL1 cl core f).deadSlices = s.deadSlices := rfl
@[simp] theorem State.modL1_pendDead (s : State) (cl core : Nat) (f : L1 → L1) : (s.modL1 cl core f).pendDead = s.pendDead := rfl
@[simp] theorem State.modL1_pendDeadCores (s : State) (cl core : Nat) (f : L1 → L1) : (s.modL1 cl core f).pendDeadCores = s.pendDeadCores := rfl
@[simp] theorem State.modL1_slotErrs (s : State) (cl core : Nat) (f : L1 → L1) : (s.modL1 cl core f).slotErrs = s.slotErrs := rfl
@[simp] theorem State.modL1_arrErrs (s : State) (cl core : Nat) (f : L1 → L1) : (s.modL1 cl core f).arrErrs = s.arrErrs := rfl
@[simp] theorem State.modL1_regErrs (s : State) (cl core : Nat) (f : L1 → L1) : (s.modL1 cl core f).regErrs = s.regErrs := rfl
@[simp] theorem State.modL1_fabricId (s : State) (cl core : Nat) (f : L1 → L1) : (s.modL1 cl core f).fabricId = s.fabricId := rfl
@[simp] theorem State.modL1_pcieDown (s : State) (cl core : Nat) (f : L1 → L1) : (s.modL1 cl core f).pcieDown = s.pcieDown := rfl
@[simp] theorem State.modL1_portsDown (s : State) (cl core : Nat) (f : L1 → L1) : (s.modL1 cl core f).portsDown = s.portsDown := rfl
@[simp] theorem State.modL1_spdm (s : State) (cl core : Nat) (f : L1 → L1) : (s.modL1 cl core f).spdm = s.spdm := rfl
@[simp] theorem State.modL1_islands (s : State) (cl core : Nat) (f : L1 → L1) : (s.modL1 cl core f).islands = s.islands := rfl
@[simp] theorem State.modL1_cooled (s : State) (cl core : Nat) (f : L1 → L1) : (s.modL1 cl core f).cooled = s.cooled := rfl
@[simp] theorem State.modL1_mgmtIrq (s : State) (cl core : Nat) (f : L1 → L1) : (s.modL1 cl core f).mgmtIrq = s.mgmtIrq := rfl
@[simp] theorem State.modL1_hostLog (s : State) (cl core : Nat) (f : L1 → L1) : (s.modL1 cl core f).hostLog = s.hostLog := rfl
@[simp] theorem State.modL1_mgmtLog (s : State) (cl core : Nat) (f : L1 → L1) : (s.modL1 cl core f).mgmtLog = s.mgmtLog := rfl
@[simp] theorem State.modL1_turnover (s : State) (cl core : Nat) (f : L1 → L1) : (s.modL1 cl core f).turnover = s.turnover := rfl
@[simp] theorem State.modL1_ladleQ (s : State) (cl core : Nat) (f : L1 → L1) : (s.modL1 cl core f).ladleQ = s.ladleQ := rfl
@[simp] theorem State.modL1_switches (s : State) (cl core : Nat) (f : L1 → L1) : (s.modL1 cl core f).switches = s.switches := rfl
@[simp] theorem State.modL1_ctxs (s : State) (cl core : Nat) (f : L1 → L1) : (s.modL1 cl core f).ctxs = s.ctxs := rfl
@[simp] theorem State.modL1_crews (s : State) (cl core : Nat) (f : L1 → L1) : (s.modL1 cl core f).crews = s.crews := rfl
@[simp] theorem State.modL1_nextCid (s : State) (cl core : Nat) (f : L1 → L1) : (s.modL1 cl core f).nextCid = s.nextCid := rfl
@[simp] theorem State.modL1_nextOp (s : State) (cl core : Nat) (f : L1 → L1) : (s.modL1 cl core f).nextOp = s.nextOp := rfl
@[simp] theorem State.modL1_sups (s : State) (cl core : Nat) (f : L1 → L1) : (s.modL1 cl core f).sups = s.sups := rfl

/-! `State.setSup` -/

@[simp] theorem State.setSup_cur (s : State) (k : Nat) (u : Sup) : (s.setSup k u).cur = s.cur := rfl
@[simp] theorem State.setSup_agenda (s : State) (k : Nat) (u : Sup) : (s.setSup k u).agenda = s.agenda := rfl
@[simp] theorem State.setSup_tick (s : State) (k : Nat) (u : Sup) : (s.setSup k u).tick = s.tick := rfl
@[simp] theorem State.setSup_cyc (s : State) (k : Nat) (u : Sup) : (s.setSup k u).cyc = s.cyc := rfl
@[simp] theorem State.setSup_hbm (s : State) (k : Nat) (u : Sup) : (s.setSup k u).hbm = s.hbm := rfl
@[simp] theorem State.setSup_gran (s : State) (k : Nat) (u : Sup) : (s.setSup k u).gran = s.gran := rfl
@[simp] theorem State.setSup_poison (s : State) (k : Nat) (u : Sup) : (s.setSup k u).poison = s.poison := rfl
@[simp] theorem State.setSup_areas (s : State) (k : Nat) (u : Sup) : (s.setSup k u).areas = s.areas := rfl
@[simp] theorem State.setSup_areaMem (s : State) (k : Nat) (u : Sup) : (s.setSup k u).areaMem = s.areaMem := rfl
@[simp] theorem State.setSup_origin (s : State) (k : Nat) (u : Sup) : (s.setSup k u).origin = s.origin := rfl
@[simp] theorem State.setSup_l2 (s : State) (k : Nat) (u : Sup) : (s.setSup k u).l2 = s.l2 := rfl
@[simp] theorem State.setSup_pins (s : State) (k : Nat) (u : Sup) : (s.setSup k u).pins = s.pins := rfl
@[simp] theorem State.setSup_code (s : State) (k : Nat) (u : Sup) : (s.setSup k u).code = s.code := rfl
@[simp] theorem State.setSup_notices (s : State) (k : Nat) (u : Sup) : (s.setSup k u).notices = s.notices := rfl
@[simp] theorem State.setSup_frinvs (s : State) (k : Nat) (u : Sup) : (s.setSup k u).frinvs = s.frinvs := rfl
@[simp] theorem State.setSup_ctl (s : State) (k : Nat) (u : Sup) : (s.setSup k u).ctl = s.ctl := rfl
@[simp] theorem State.setSup_tbLevel (s : State) (k : Nat) (u : Sup) : (s.setSup k u).tbLevel = s.tbLevel := rfl
@[simp] theorem State.setSup_tbWaits (s : State) (k : Nat) (u : Sup) : (s.setSup k u).tbWaits = s.tbWaits := rfl
@[simp] theorem State.setSup_tbQueue (s : State) (k : Nat) (u : Sup) : (s.setSup k u).tbQueue = s.tbQueue := rfl
@[simp] theorem State.setSup_refilled (s : State) (k : Nat) (u : Sup) : (s.setSup k u).refilled = s.refilled := rfl
@[simp] theorem State.setSup_parts (s : State) (k : Nat) (u : Sup) : (s.setSup k u).parts = s.parts := rfl
@[simp] theorem State.setSup_deadClusters (s : State) (k : Nat) (u : Sup) : (s.setSup k u).deadClusters = s.deadClusters := rfl
@[simp] theorem State.setSup_deadCores (s : State) (k : Nat) (u : Sup) : (s.setSup k u).deadCores = s.deadCores := rfl
@[simp] theorem State.setSup_deadSlices (s : State) (k : Nat) (u : Sup) : (s.setSup k u).deadSlices = s.deadSlices := rfl
@[simp] theorem State.setSup_pendDead (s : State) (k : Nat) (u : Sup) : (s.setSup k u).pendDead = s.pendDead := rfl
@[simp] theorem State.setSup_pendDeadCores (s : State) (k : Nat) (u : Sup) : (s.setSup k u).pendDeadCores = s.pendDeadCores := rfl
@[simp] theorem State.setSup_slotErrs (s : State) (k : Nat) (u : Sup) : (s.setSup k u).slotErrs = s.slotErrs := rfl
@[simp] theorem State.setSup_arrErrs (s : State) (k : Nat) (u : Sup) : (s.setSup k u).arrErrs = s.arrErrs := rfl
@[simp] theorem State.setSup_regErrs (s : State) (k : Nat) (u : Sup) : (s.setSup k u).regErrs = s.regErrs := rfl
@[simp] theorem State.setSup_fabricId (s : State) (k : Nat) (u : Sup) : (s.setSup k u).fabricId = s.fabricId := rfl
@[simp] theorem State.setSup_pcieDown (s : State) (k : Nat) (u : Sup) : (s.setSup k u).pcieDown = s.pcieDown := rfl
@[simp] theorem State.setSup_portsDown (s : State) (k : Nat) (u : Sup) : (s.setSup k u).portsDown = s.portsDown := rfl
@[simp] theorem State.setSup_spdm (s : State) (k : Nat) (u : Sup) : (s.setSup k u).spdm = s.spdm := rfl
@[simp] theorem State.setSup_islands (s : State) (k : Nat) (u : Sup) : (s.setSup k u).islands = s.islands := rfl
@[simp] theorem State.setSup_cooled (s : State) (k : Nat) (u : Sup) : (s.setSup k u).cooled = s.cooled := rfl
@[simp] theorem State.setSup_mgmtIrq (s : State) (k : Nat) (u : Sup) : (s.setSup k u).mgmtIrq = s.mgmtIrq := rfl
@[simp] theorem State.setSup_hostLog (s : State) (k : Nat) (u : Sup) : (s.setSup k u).hostLog = s.hostLog := rfl
@[simp] theorem State.setSup_mgmtLog (s : State) (k : Nat) (u : Sup) : (s.setSup k u).mgmtLog = s.mgmtLog := rfl
@[simp] theorem State.setSup_turnover (s : State) (k : Nat) (u : Sup) : (s.setSup k u).turnover = s.turnover := rfl
@[simp] theorem State.setSup_ladleQ (s : State) (k : Nat) (u : Sup) : (s.setSup k u).ladleQ = s.ladleQ := rfl
@[simp] theorem State.setSup_switches (s : State) (k : Nat) (u : Sup) : (s.setSup k u).switches = s.switches := rfl
@[simp] theorem State.setSup_ctxs (s : State) (k : Nat) (u : Sup) : (s.setSup k u).ctxs = s.ctxs := rfl
@[simp] theorem State.setSup_crews (s : State) (k : Nat) (u : Sup) : (s.setSup k u).crews = s.crews := rfl
@[simp] theorem State.setSup_nextCid (s : State) (k : Nat) (u : Sup) : (s.setSup k u).nextCid = s.nextCid := rfl
@[simp] theorem State.setSup_nextOp (s : State) (k : Nat) (u : Sup) : (s.setSup k u).nextOp = s.nextOp := rfl
@[simp] theorem State.setSup_clusters (s : State) (k : Nat) (u : Sup) : (s.setSup k u).clusters = s.clusters := rfl

/-! `State.setHomeByte` -/

@[simp] theorem State.setHomeByte_cur (s : State) (pa : Nat) (b : Byte) : (s.setHomeByte pa b).cur = s.cur := rfl
@[simp] theorem State.setHomeByte_agenda (s : State) (pa : Nat) (b : Byte) : (s.setHomeByte pa b).agenda = s.agenda := rfl
@[simp] theorem State.setHomeByte_tick (s : State) (pa : Nat) (b : Byte) : (s.setHomeByte pa b).tick = s.tick := rfl
@[simp] theorem State.setHomeByte_cyc (s : State) (pa : Nat) (b : Byte) : (s.setHomeByte pa b).cyc = s.cyc := rfl
@[simp] theorem State.setHomeByte_gran (s : State) (pa : Nat) (b : Byte) : (s.setHomeByte pa b).gran = s.gran := rfl
@[simp] theorem State.setHomeByte_poison (s : State) (pa : Nat) (b : Byte) : (s.setHomeByte pa b).poison = s.poison := rfl
@[simp] theorem State.setHomeByte_areas (s : State) (pa : Nat) (b : Byte) : (s.setHomeByte pa b).areas = s.areas := rfl
@[simp] theorem State.setHomeByte_origin (s : State) (pa : Nat) (b : Byte) : (s.setHomeByte pa b).origin = s.origin := rfl
@[simp] theorem State.setHomeByte_l2 (s : State) (pa : Nat) (b : Byte) : (s.setHomeByte pa b).l2 = s.l2 := rfl
@[simp] theorem State.setHomeByte_pins (s : State) (pa : Nat) (b : Byte) : (s.setHomeByte pa b).pins = s.pins := rfl
@[simp] theorem State.setHomeByte_code (s : State) (pa : Nat) (b : Byte) : (s.setHomeByte pa b).code = s.code := rfl
@[simp] theorem State.setHomeByte_notices (s : State) (pa : Nat) (b : Byte) : (s.setHomeByte pa b).notices = s.notices := rfl
@[simp] theorem State.setHomeByte_frinvs (s : State) (pa : Nat) (b : Byte) : (s.setHomeByte pa b).frinvs = s.frinvs := rfl
@[simp] theorem State.setHomeByte_ctl (s : State) (pa : Nat) (b : Byte) : (s.setHomeByte pa b).ctl = s.ctl := rfl
@[simp] theorem State.setHomeByte_tbLevel (s : State) (pa : Nat) (b : Byte) : (s.setHomeByte pa b).tbLevel = s.tbLevel := rfl
@[simp] theorem State.setHomeByte_tbWaits (s : State) (pa : Nat) (b : Byte) : (s.setHomeByte pa b).tbWaits = s.tbWaits := rfl
@[simp] theorem State.setHomeByte_tbQueue (s : State) (pa : Nat) (b : Byte) : (s.setHomeByte pa b).tbQueue = s.tbQueue := rfl
@[simp] theorem State.setHomeByte_refilled (s : State) (pa : Nat) (b : Byte) : (s.setHomeByte pa b).refilled = s.refilled := rfl
@[simp] theorem State.setHomeByte_parts (s : State) (pa : Nat) (b : Byte) : (s.setHomeByte pa b).parts = s.parts := rfl
@[simp] theorem State.setHomeByte_deadClusters (s : State) (pa : Nat) (b : Byte) : (s.setHomeByte pa b).deadClusters = s.deadClusters := rfl
@[simp] theorem State.setHomeByte_deadCores (s : State) (pa : Nat) (b : Byte) : (s.setHomeByte pa b).deadCores = s.deadCores := rfl
@[simp] theorem State.setHomeByte_deadSlices (s : State) (pa : Nat) (b : Byte) : (s.setHomeByte pa b).deadSlices = s.deadSlices := rfl
@[simp] theorem State.setHomeByte_pendDead (s : State) (pa : Nat) (b : Byte) : (s.setHomeByte pa b).pendDead = s.pendDead := rfl
@[simp] theorem State.setHomeByte_pendDeadCores (s : State) (pa : Nat) (b : Byte) : (s.setHomeByte pa b).pendDeadCores = s.pendDeadCores := rfl
@[simp] theorem State.setHomeByte_slotErrs (s : State) (pa : Nat) (b : Byte) : (s.setHomeByte pa b).slotErrs = s.slotErrs := rfl
@[simp] theorem State.setHomeByte_arrErrs (s : State) (pa : Nat) (b : Byte) : (s.setHomeByte pa b).arrErrs = s.arrErrs := rfl
@[simp] theorem State.setHomeByte_regErrs (s : State) (pa : Nat) (b : Byte) : (s.setHomeByte pa b).regErrs = s.regErrs := rfl
@[simp] theorem State.setHomeByte_fabricId (s : State) (pa : Nat) (b : Byte) : (s.setHomeByte pa b).fabricId = s.fabricId := rfl
@[simp] theorem State.setHomeByte_pcieDown (s : State) (pa : Nat) (b : Byte) : (s.setHomeByte pa b).pcieDown = s.pcieDown := rfl
@[simp] theorem State.setHomeByte_portsDown (s : State) (pa : Nat) (b : Byte) : (s.setHomeByte pa b).portsDown = s.portsDown := rfl
@[simp] theorem State.setHomeByte_spdm (s : State) (pa : Nat) (b : Byte) : (s.setHomeByte pa b).spdm = s.spdm := rfl
@[simp] theorem State.setHomeByte_islands (s : State) (pa : Nat) (b : Byte) : (s.setHomeByte pa b).islands = s.islands := rfl
@[simp] theorem State.setHomeByte_cooled (s : State) (pa : Nat) (b : Byte) : (s.setHomeByte pa b).cooled = s.cooled := rfl
@[simp] theorem State.setHomeByte_mgmtIrq (s : State) (pa : Nat) (b : Byte) : (s.setHomeByte pa b).mgmtIrq = s.mgmtIrq := rfl
@[simp] theorem State.setHomeByte_hostLog (s : State) (pa : Nat) (b : Byte) : (s.setHomeByte pa b).hostLog = s.hostLog := rfl
@[simp] theorem State.setHomeByte_mgmtLog (s : State) (pa : Nat) (b : Byte) : (s.setHomeByte pa b).mgmtLog = s.mgmtLog := rfl
@[simp] theorem State.setHomeByte_turnover (s : State) (pa : Nat) (b : Byte) : (s.setHomeByte pa b).turnover = s.turnover := rfl
@[simp] theorem State.setHomeByte_ladleQ (s : State) (pa : Nat) (b : Byte) : (s.setHomeByte pa b).ladleQ = s.ladleQ := rfl
@[simp] theorem State.setHomeByte_switches (s : State) (pa : Nat) (b : Byte) : (s.setHomeByte pa b).switches = s.switches := rfl
@[simp] theorem State.setHomeByte_ctxs (s : State) (pa : Nat) (b : Byte) : (s.setHomeByte pa b).ctxs = s.ctxs := rfl
@[simp] theorem State.setHomeByte_crews (s : State) (pa : Nat) (b : Byte) : (s.setHomeByte pa b).crews = s.crews := rfl
@[simp] theorem State.setHomeByte_nextCid (s : State) (pa : Nat) (b : Byte) : (s.setHomeByte pa b).nextCid = s.nextCid := rfl
@[simp] theorem State.setHomeByte_nextOp (s : State) (pa : Nat) (b : Byte) : (s.setHomeByte pa b).nextOp = s.nextOp := rfl
@[simp] theorem State.setHomeByte_clusters (s : State) (pa : Nat) (b : Byte) : (s.setHomeByte pa b).clusters = s.clusters := rfl
@[simp] theorem State.setHomeByte_sups (s : State) (pa : Nat) (b : Byte) : (s.setHomeByte pa b).sups = s.sups := rfl

/-! ### The part that an update names -/

theorem State.ctx_setCtx (s : State) (vf k : Nat) (c : Context) : (s.setCtx vf c).ctx k = if k = vf then c else s.ctx k := by
  simp only [State.setCtx, State.ctx, kvGet_kvSet]
theorem State.ctx_modCtx (s : State) (vf k : Nat) (f : Context → Context) :
    (s.modCtx vf f).ctx k = if k = vf then f (s.ctx vf) else s.ctx k := State.ctx_setCtx ..
theorem State.cluster_setCluster (s : State) (n k : Nat) (c : Cluster) :
    (s.setCluster n c).cluster k = if k = n then c else s.cluster k := by
  simp only [State.setCluster, State.cluster, kvGet_kvSet]
theorem State.cluster_modCluster (s : State) (n k : Nat) (f : Cluster → Cluster) :
    (s.modCluster n f).cluster k = if k = n then f (s.cluster n) else s.cluster k := State.cluster_setCluster ..
theorem State.sup_setSup (s : State) (n k : Nat) (u : Sup) : (s.setSup n u).sup k = if k = n then u else s.sup k := by
  simp only [State.setSup, State.sup, kvGet_kvSet]
theorem State.crew_modCrew (s : State) (cid k : Nat) (f : Crew → Crew) :
    kvFind (s.modCrew cid f).crews k = if k = cid then (kvFind s.crews cid).map f else kvFind s.crews k :=
  kvFind_kvModify ..
theorem State.homeByte_setHomeByte (s : State) (pa a : Nat) (b : Byte) :
    (s.setHomeByte pa b).homeByte a = if a = pa then b else s.homeByte a := by
  have h : ∀ x, kvFind s.areas (pa / 65536) = x → (s.setHomeByte pa b).homeByte a = if a = pa then b else s.homeByte a := by
    intro x hx
    by_cases ha : a = pa
    · subst ha
      cases x <;> simp [State.homeByte, State.setHomeByte, hx]
    · cases x <;> simp [State.homeByte, State.setHomeByte, hx, kvGet_kvPut, kvFind_kvSet, ha]
  exact h _ rfl

theorem Body.team_modTeam (b : Body) (t k : Nat) (f : Team → Team) :
    kvFind (b.modTeam t f).teams k = if k = t then (kvFind b.teams t).map f else kvFind b.teams k := kvFind_kvModify ..

theorem State.team_modTeam (s : State) (cid t c k : Nat) (f : Team → Team) :
    (s.modTeam cid t f).team? c k = if c = cid ∧ k = t then (s.team? cid t).map f else s.team? c k := by
  simp only [State.team?, State.modTeam, State.crew_modCrew]
  by_cases hc : c = cid
  · subst hc
    simp only [if_pos trivial, true_and]
    cases kvFind s.crews c with
    | none => simp
    | some x =>
      simp only [Option.map_some, Option.bind_some, Crew.modBody, Body.team_modTeam]
  · simp [hc]

/-! ### What depends on crews, supervisor cores and contexts alone -/

theorem State.team_congr {s t : State} (h : t.crews = s.crews) (cid n : Nat) : t.team? cid n = s.team? cid n := by
  simp [State.team?, h]
theorem State.thread_congr {s t : State} (h : t.crews = s.crews) (hs : t.sups = s.sups) (ag : Agent) :
    t.thread? ag = s.thread? ag := by
  cases ag <;> simp [State.thread?, State.team?, State.sup, h, hs]
theorem State.readS_congr {s t : State} (h : t.crews = s.crews) (hs : t.sups = s.sups) (ag : Agent) (n : Nat) :
    t.readS ag n = s.readS ag n := by
  cases ag <;> simp [State.readS, State.team?, State.sup, h, hs]
theorem State.ctxOf_congr {s t : State} (h : t.crews = s.crews) (hs : t.sups = s.sups) (ag : Agent) :
    t.ctxOf ag = s.ctxOf ag := by
  cases ag <;> simp [State.ctxOf, State.sup, h, hs]
theorem State.Turn.congr {s t : State} {ag : Agent} {th : Thread} (h : s.Turn ag th) (h0 : t.cur = s.cur)
    (h1 : t.crews = s.crews) (h2 : t.sups = s.sups) : t.Turn ag th :=
  ⟨h0.trans h.1, (State.thread_congr h1 h2 ag).trans h.2⟩
theorem State.AtFrag.congr {s t : State} {cid n fn : Nat} {c : Crew} {tm : Team} {th : Thread}
    (h : s.AtFrag cid n fn c tm th) (h0 : t.cur = s.cur) (h1 : t.crews = s.crews) : t.AtFrag cid n fn c tm th :=
  ⟨h0.trans h.1, by rw [h1]; exact h.2.1, h.2.2⟩

theorem State.Turn.setLabels {s : State} {ag : Agent} {th : Thread} (h : s.Turn ag th) (vf : Nat) (tab : List (BitVec 64)) :
    (s.setLabels vf tab).Turn ag th := h.congr rfl rfl rfl
theorem State.AtFrag.setLabels {s : State} {cid n fn : Nat} {c : Crew} {tm : Team} {th : Thread}
    (h : s.AtFrag cid n fn c tm th) (vf : Nat) (tab : List (BitVec 64)) : (s.setLabels vf tab).AtFrag cid n fn c tm th :=
  h.congr rfl rfl
@[simp] theorem State.setLabels_readS (s : State) (vf : Nat) (tab : List (BitVec 64)) (ag : Agent) (n : Nat) :
    (s.setLabels vf tab).readS ag n = s.readS ag n := State.readS_congr rfl rfl ag n
@[simp] theorem State.setLabels_thread (s : State) (vf : Nat) (tab : List (BitVec 64)) (ag : Agent) :
    (s.setLabels vf tab).thread? ag = s.thread? ag := State.thread_congr rfl rfl ag
@[simp] theorem State.setLabels_team (s : State) (vf : Nat) (tab : List (BitVec 64)) (cid n : Nat) :
    (s.setLabels vf tab).team? cid n = s.team? cid n := State.team_congr rfl cid n

@[simp] theorem State.setLabels_ctxOf (s : State) (vf : Nat) (tab : List (BitVec 64)) (ag : Agent) :
    (s.setLabels vf tab).ctxOf ag = s.ctxOf ag := State.ctxOf_congr rfl rfl ag
@[simp] theorem State.setLabels_labels (s : State) (vf : Nat) (tab : List (BitVec 64)) :
    ((s.setLabels vf tab).ctx vf).labels = tab := by simp [State.setLabels, State.ctx_modCtx]
theorem State.setLabels_labels_ne (s : State) {vf k : Nat} (tab : List (BitVec 64)) (h : k ≠ vf) :
    (s.setLabels vf tab).ctx k = s.ctx k := by simp [State.setLabels, State.ctx_modCtx, h]

theorem kvSet_kvSet {β : Type} (m : KV β) (k : Nat) (a b : β) : kvSet (kvSet m k a) k b = kvSet m k b := by
  induction m with
  | nil => simp [kvSet]
  | cons e r ih =>
    obtain ⟨j, v⟩ := e
    simp only [kvSet]
    split
    · simp [kvSet]
    · split
      · simp [kvSet]
      · simp only [kvSet, *, ↓reduceIte]

@[simp] theorem State.setLabels_setLabels (s : State) (vf : Nat) (a b : List (BitVec 64)) :
    (s.setLabels vf a).setLabels vf b = s.setLabels vf b := by
  simp only [State.setLabels, State.modCtx, State.setCtx, State.ctx, kvGet_kvSet, ↓reduceIte, kvSet_kvSet]

end Sys2Proof.Machine
end

