-- ==== Sys2Proof/Laws/Slices.lean ====
section
/-! SUPPORT. What an access leaves in the L2 slices and in the token buckets is all that it leaves there: a fill, a write-back and
a metered request change nothing else of the state. -/

namespace Sys2Proof.Machine

/-- One state comes from another by a change of the L2 slices and the token buckets alone. -/
def SlicesOnly (s t : State) : Prop :=
  ∃ l2 lv w q, t = { s with l2 := l2, tbLevel := lv, tbWaits := w, tbQueue := q }

theorem SlicesOnly.refl (s : State) : SlicesOnly s s := ⟨s.l2, s.tbLevel, s.tbWaits, s.tbQueue, rfl⟩
theorem SlicesOnly.trans {s t u : State} (h : SlicesOnly s t) (k : SlicesOnly t u) : SlicesOnly s u := by
  obtain ⟨_, _, _, _, rfl⟩ := h
  obtain ⟨a, b, c, d, rfl⟩ := k
  exact ⟨a, b, c, d, rfl⟩
theorem SlicesOnly.ite {s x y : State} (c : Prop) [Decidable c] (h : SlicesOnly s x) (k : SlicesOnly s y) :
    SlicesOnly s (if c then x else y) := by
  split <;> assumption
theorem SlicesOnly.foldl {α : Type} (f : State → α → State) (hf : ∀ s x, SlicesOnly s (f s x)) (l : List α) :
    ∀ s : State, SlicesOnly s (l.foldl f s) := by
  induction l with
  | nil => exact SlicesOnly.refl
  | cons x xs ih => exact fun s => (hf s x).trans (ih _)

theorem slicesOnly_meter (s : State) (vf mc bytes : Nat) (back : Bool) : SlicesOnly s (s.meter vf mc bytes back) :=
  SlicesOnly.ite _ (SlicesOnly.refl s) (SlicesOnly.ite _ ⟨_, _, _, _, rfl⟩ ⟨_, _, _, _, rfl⟩)
theorem slicesOnly_meterLine (s : State) (vf line : Nat) (back : Bool) : SlicesOnly s (s.meterLine vf line back) :=
  SlicesOnly.ite _ (slicesOnly_meter ..) (SlicesOnly.refl s)
theorem slicesOnly_writeBack (s : State) (e : Nat × L2Line) : SlicesOnly s (s.writeBack e) := by
  unfold State.writeBack
  split
  · exact slicesOnly_meterLine ..
  · exact SlicesOnly.refl s
theorem slicesOnly_l2Room (s : State) (line : Nat) : SlicesOnly s (s.l2Room line) := by
  simp only [State.l2Room]
  refine SlicesOnly.ite _ (SlicesOnly.refl s) (SlicesOnly.ite _ (SlicesOnly.refl s) ?_)
  split
  · exact SlicesOnly.trans ⟨_, _, _, _, rfl⟩ (slicesOnly_writeBack _ _)
  · exact SlicesOnly.refl s
theorem slicesOnly_modL2 (s : State) (line : Nat) (f : L2Line → L2Line) : SlicesOnly s (s.modL2 line f) :=
  (slicesOnly_l2Room s line).trans ⟨_, _, _, _, rfl⟩
theorem slicesOnly_attach (s : State) (line : Nat) : SlicesOnly s (s.attach line) := by
  simp only [State.attach]
  exact SlicesOnly.ite _ (SlicesOnly.refl s) (SlicesOnly.ite _ (SlicesOnly.refl s) (SlicesOnly.ite _ (SlicesOnly.refl s)
    (slicesOnly_modL2 ..)))
theorem slicesOnly_fill (s : State) (vf line : Nat) : SlicesOnly s (s.fill vf line) :=
  (SlicesOnly.ite _ (SlicesOnly.refl s) (slicesOnly_meterLine ..)).trans (slicesOnly_attach _ _)
theorem slicesOnly_touchHome (s : State) (vf pa n : Nat) (ms : Bool) : SlicesOnly s (s.touchHome vf pa n ms) :=
  SlicesOnly.ite _ (SlicesOnly.refl s) (SlicesOnly.ite _ (slicesOnly_meter ..) (slicesOnly_fill ..))
theorem slicesOnly_markDirty (s : State) (vf line : Nat) : SlicesOnly s (s.markDirty vf line) :=
  SlicesOnly.ite _ ((slicesOnly_fill s vf line).trans (slicesOnly_modL2 ..)) (SlicesOnly.refl s)
theorem slicesOnly_chargeWalk (s : State) (vf : Nat) (cl : Option Nat) (va pte : Nat) (l : Bool) :
    SlicesOnly s (s.chargeWalk vf cl va pte l) :=
  SlicesOnly.ite _ (SlicesOnly.refl s) (SlicesOnly.foldl _ (fun _ _ => slicesOnly_meterLine ..) _ s)

theorem SlicesOnly.hbm {s t : State} (h : SlicesOnly s t) : t.hbm = s.hbm := by
  obtain ⟨_, _, _, _, rfl⟩ := h
  rfl
theorem SlicesOnly.areas {s t : State} (h : SlicesOnly s t) : t.areas = s.areas ∧ t.areaMem = s.areaMem := by
  obtain ⟨_, _, _, _, rfl⟩ := h
  exact ⟨rfl, rfl⟩

end Sys2Proof.Machine
end

