-- ==== Sys2Proof/Laws/Monad.lean ====
section
/-! SUPPORT. Laws of the monad of meanings, and what the accessors of the current agent answer. -/

namespace Sys2Proof.Machine

variable {α β : Type}

theorem M_bind (x : M α) (f : α → M β) (s : State) :
    (x >>= f) s = match x s with | .ok a t => f a t | .error e t => .error e t := by
  show EStateM.bind x f s = _
  unfold EStateM.bind
  cases x s <;> simp

theorem M_map (f : α → β) (x : M α) (s : State) :
    (f <$> x) s = match x s with | .ok a t => .ok (f a) t | .error e t => .error e t := by
  show EStateM.map f x s = _
  unfold EStateM.map
  cases x s <;> simp

theorem M_bind_ok {x : M α} {f : α → M β} {s t : State} {a : α} (h : x s = .ok a t) : (x >>= f) s = f a t := by
  rw [M_bind, h]
theorem M_bind_error {x : M α} {f : α → M β} {s t : State} {e : Stop} (h : x s = .error e t) :
    (x >>= f) s = .error e t := by
  rw [M_bind, h]

@[simp] theorem M_pure (a : α) (s : State) : (pure a : M α) s = .ok a s := rfl
@[simp] theorem M_get (s : State) : (get : M State) s = .ok s s := rfl
@[simp] theorem M_set (t s : State) : (set t : M PUnit) s = .ok ⟨⟩ t := rfl
@[simp] theorem M_modify (f : State → State) (s : State) : (modify f : M PUnit) s = .ok ⟨⟩ (f s) := rfl
@[simp] theorem M_throw (e : Stop) (s : State) : (throw e : M α) s = .error e s := rfl

/-! ### A meaning as one step -/

theorem run_ok {m : M Done} {s t : State} {ag : Agent} {d : Done} (h : s.cur = some ag) (hm : m s = .ok d t) :
    run m s = .next (s.finish t ag d) := by
  simp [run, h, hm]

theorem run_error {m : M Done} {s t : State} {ag : Agent} {e : Stop} (h : s.cur = some ag) (hm : m s = .error e t) :
    run m s = s.stopped t ag e := by
  simp [run, h, hm]

/-! ### The current agent -/

theorem State.AtFrag.cur {s : State} {cid t fn : Nat} {c : Crew} {tm : Team} {th : Thread}
    (h : s.AtFrag cid t fn c tm th) : s.cur = some (.frag cid t fn) := h.1
theorem State.AtFrag.crew {s : State} {cid t fn : Nat} {c : Crew} {tm : Team} {th : Thread}
    (h : s.AtFrag cid t fn c tm th) : kvFind s.crews cid = some c := h.2.1
theorem State.AtFrag.team {s : State} {cid t fn : Nat} {c : Crew} {tm : Team} {th : Thread}
    (h : s.AtFrag cid t fn c tm th) : s.team? cid t = some tm := by
  simp [State.team?, h.2.1, h.2.2.1]
theorem State.AtFrag.thread {s : State} {cid t fn : Nat} {c : Crew} {tm : Team} {th : Thread}
    (h : s.AtFrag cid t fn c tm th) : s.thread? (.frag cid t fn) = some th := by
  simp [State.thread?, h.team, h.2.2.2]
theorem State.AtFrag.turn {s : State} {cid t fn : Nat} {c : Crew} {tm : Team} {th : Thread}
    (h : s.AtFrag cid t fn c tm th) : s.Turn (.frag cid t fn) th := ⟨h.cur, h.thread⟩
theorem State.AtFrag.ctx {s : State} {cid t fn : Nat} {c : Crew} {tm : Team} {th : Thread}
    (h : s.AtFrag cid t fn c tm th) : s.ctxOf (.frag cid t fn) = c.vf := by
  simp [State.ctxOf, h.crew]

theorem State.AtSeq.thread {s : State} {cid x : Nat} {c : Crew} {q : SeqCtx}
    (h : s.AtSeq cid x c q) : s.thread? (.seq cid x) = some q.th := by
  simp [State.thread?, h.2.1, h.2.2]
theorem State.AtSeq.turn {s : State} {cid x : Nat} {c : Crew} {q : SeqCtx}
    (h : s.AtSeq cid x c q) : s.Turn (.seq cid x) q.th := ⟨h.1, h.thread⟩

/-- A thread of a fragment or a sequencer context has a crew. -/
theorem State.Turn.crew {s : State} {ag : Agent} {th : Thread} (h : s.Turn ag th) {cid : Nat} (hc : agentCid ag = some cid) :
    ∃ c, kvFind s.crews cid = some c := by
  obtain ⟨_, ht⟩ := h
  cases ag with
  | frag k t f =>
    simp only [agentCid, Option.some.injEq] at hc
    subst hc
    simp only [State.thread?, State.team?] at ht
    cases hk : kvFind s.crews k with
    | none => simp [hk] at ht
    | some c => exact ⟨c, rfl⟩
  | seq k x =>
    simp only [agentCid, Option.some.injEq] at hc
    subst hc
    simp only [State.thread?] at ht
    cases hk : kvFind s.crews k with
    | none => simp [hk] at ht
    | some c => exact ⟨c, rfl⟩
  | sup k => simp [agentCid] at hc

theorem me_ok {s : State} {ag : Agent} (h : s.cur = some ag) : me s = .ok ag s := by
  simp [me, M_bind, h]

theorem myTh_ok {s : State} {ag : Agent} {th : Thread} (h : s.Turn ag th) : myTh s = .ok th s := by
  simp [myTh, M_bind, me_ok h.1, h.2]

theorem modTh_ok {s : State} {ag : Agent} (h : s.cur = some ag) (f : Thread → Thread) :
    modTh f s = .ok ⟨⟩ (s.modThread ag f) := by
  simp [modTh, M_bind, me_ok h]

theorem getCrew_ok {s : State} {cid : Nat} {c : Crew} (h : kvFind s.crews cid = some c) : getCrew cid s = .ok c s := by
  simp [getCrew, M_bind, h]

theorem myCid_ok {s : State} {ag : Agent} {cid : Nat} (h : s.cur = some ag) (hc : agentCid ag = some cid) :
    myCid s = .ok cid s := by
  simp [myCid, M_bind, me_ok h, hc]

theorem myCrew_ok {s : State} {ag : Agent} {cid : Nat} {c : Crew} (h : s.cur = some ag) (hc : agentCid ag = some cid)
    (hk : kvFind s.crews cid = some c) : myCrew s = .ok c s := by
  simp [myCrew, M_bind, myCid_ok h hc, getCrew_ok hk]

theorem modMyCrew_ok {s : State} {ag : Agent} {cid : Nat} (h : s.cur = some ag) (hc : agentCid ag = some cid)
    (f : Crew → Crew) : modMyCrew f s = .ok ⟨⟩ (s.modCrew cid f) := by
  simp [modMyCrew, M_bind, myCid_ok h hc]

theorem myFrag_ok {s : State} {cid t fn : Nat} (h : s.cur = some (.frag cid t fn)) : myFrag s = .ok (cid, t, fn) s := by
  simp [myFrag, M_bind, me_ok h]

theorem myTeam_ok {s : State} {cid t fn : Nat} {c : Crew} {tm : Team} {th : Thread} (h : s.AtFrag cid t fn c tm th) :
    myTeam s = .ok tm s := by
  simp [myTeam, M_bind, myFrag_ok h.cur, h.team]

theorem modTeam_ok {s : State} {cid t fn : Nat} (h : s.cur = some (.frag cid t fn)) (f : Team → Team) :
    modTeam f s = .ok ⟨⟩ (s.modTeam cid t f) := by
  simp [modTeam, M_bind, myFrag_ok h]

theorem myVf?_ok {s : State} {ag : Agent} {th : Thread} (h : s.Turn ag th) :
    ∃ o, myVf? s = .ok o s ∧ o.getD 0 = s.ctxOf ag := by
  cases ag with
  | frag k t f =>
    obtain ⟨c, hc⟩ := h.crew (cid := k) rfl
    exact ⟨some c.vf, by simp [myVf?, M_bind, M_map, me_ok h.1, agentCid, getCrew_ok hc], by simp [State.ctxOf, hc]⟩
  | seq k x =>
    obtain ⟨c, hc⟩ := h.crew (cid := k) rfl
    exact ⟨some c.vf, by simp [myVf?, M_bind, M_map, me_ok h.1, agentCid, getCrew_ok hc], by simp [State.ctxOf, hc]⟩
  | sup k => exact ⟨supVf (s.sup k), by simp [myVf?, M_bind, M_map, me_ok h.1], by simp [State.ctxOf]⟩

theorem myVf_ok {s : State} {ag : Agent} {th : Thread} (h : s.Turn ag th) : myVf s = .ok (s.ctxOf ag) s := by
  obtain ⟨o, ho, hv⟩ := myVf?_ok h
  simp [myVf, M_bind, ho, hv]

theorem rdS_ok {s : State} {ag : Agent} (h : s.cur = some ag) (n : Nat) : rdS n s = .ok (s.readS ag n) s := by
  simp [rdS, M_bind, M_map, me_ok h]

theorem valS_ok {s : State} {ag : Agent} (h : s.cur = some ag) (n : Nat) : valS n s = .ok (s.readS ag n).val s := by
  simp [valS, M_bind, rdS_ok h]

theorem myPcl_ok {s : State} {ag : Agent} {th : Thread} (h : s.Turn ag th) : myPcl s = .ok th.pcl s := by
  simp [myPcl, M_bind, myTh_ok h]

theorem writeS_ok {s : State} {ag : Agent} (h : s.cur = some ag) (d : Nat) (v : Word) (l : Lbl) :
    writeS d v l s = .ok ⟨⟩ (s.writeS ag d { val := v, lab := l }) := by
  simp [writeS, M_bind, me_ok h]

/-! ### Labels -/

theorem joinAll_ok {s : State} {ag : Agent} {th : Thread} (h : s.Turn ag th) {ls : List Lbl} {l : Lbl}
    {tab : List (BitVec 64)} (hj : s.joined ag ls = some (l, tab)) :
    joinAll ls s = .ok l (s.setLabels (s.ctxOf ag) tab) := by
  simp only [State.joined] at hj
  simp [joinAll, M_bind, M_map, myVf_ok h, hj, State.setLabels]

theorem labelU_ok {s : State} {ag : Agent} {th : Thread} (h : s.Turn ag th) {rs : List Nat} {l : Lbl}
    {tab : List (BitVec 64)} (hj : s.joined ag (rs.map (fun r => (s.readS ag r).lab) ++ [th.pcl]) = some (l, tab)) :
    labelU rs s = .ok l (s.setLabels (s.ctxOf ag) tab) := by
  simp [labelU, M_bind, me_ok h.1, myPcl_ok h, joinAll_ok h hj]

end Sys2Proof.Machine
end

