-- ==== Sys2Proof/Laws/Issue.lean ====
section
/-! SUPPORT. What the checks at issue and the shared shapes of instructions do when they let an instruction through. -/

namespace Sys2Proof.Machine

/-! ### Issue -/

theorem checkName_ok {s : State} {ag : Agent} {th : Thread} (h : s.Turn ag th) {r : RegName} (hr : s.hasName ag r = true) :
    checkName r s = .ok ⟨⟩ s := by
  cases r with
  | s n => rfl
  | v n =>
    cases ag with
    | frag cid t fn =>
      simp only [State.hasName] at hr
      cases ht : s.team? cid t with
      | none => simp [ht] at hr
      | some tm =>
        simp only [ht, Option.any_some] at hr
        simp [checkName, myTeam, M_bind, myFrag_ok h.1, ht, hr]
    | seq cid x => simp [State.hasName] at hr
    | sup k => simp [State.hasName] at hr
  | m n =>
    cases ag with
    | frag cid t fn => simp [checkName, M_bind, myFrag_ok h.1]
    | seq cid x => simp [State.hasName] at hr
    | sup k => simp [State.hasName] at hr

theorem checkNames_ok {s : State} {ag : Agent} {th : Thread} (h : s.Turn ag th) (rs : List RegName)
    (hr : rs.all (s.hasName ag) = true) : checkNames rs s = .ok ⟨⟩ s := by
  induction rs with
  | nil => rfl
  | cons r rs ih =>
    simp only [List.all_cons, Bool.and_eq_true] at hr
    simp [checkNames, M_bind, checkName_ok h hr.1, ih hr.2]

/-- Windows none of which has run out stay as they are. -/
theorem settleWindows_ok {s : State} {ag : Agent} {th : Thread} (h : s.Turn ag th)
    (hp : ∀ p ∈ th.pend, p.left ≠ 0) : settleWindows s = .ok ⟨⟩ s := by
  have h1 : th.pend.any (fun p => p.left == 0 && p.held.isSome) = false := by
    simp only [List.any_eq_false, Bool.and_eq_true, beq_iff_eq, not_and]
    intro p hm h0
    exact absurd h0 (hp p hm)
  have h2 : th.pend.any (fun p => p.left == 0) = false := by
    simp only [List.any_eq_false, beq_iff_eq]
    exact hp
  simp only [settleWindows, M_bind, myTh_ok h, h1, h2, Bool.false_eq_true, ↓reduceIte, M_pure]

/-- A write that the open span declares, or that no span stands over, is let through. -/
theorem declared_ok {s : State} {ag : Agent} {th : Thread} (h : s.Turn ag th) {ws : List RegName}
    (hs : (match th.openSpan with | none => true | some o => ws.all (spanAllows o.span)) = true) :
    declared ws s = .ok ⟨⟩ s := by
  simp only [declared, M_bind, myTh_ok h]
  cases ho : th.openSpan with
  | none => rfl
  | some o =>
    rw [ho] at hs
    simp only [hs, ↓reduceIte, M_pure]

/-- An instruction that may issue passes the checks at issue, which change nothing. -/
theorem issue_ok {s : State} {ag : Agent} {th : Thread} (h : s.Turn ag th) {rs ws : List RegName}
    (hi : s.mayIssue ag th rs ws = true) : issue rs ws s = .ok ⟨⟩ s := by
  simp only [State.mayIssue, Thread.free, Bool.and_eq_true] at hi
  obtain ⟨hn, hp, hs⟩ := hi
  rw [List.all_eq_true] at hp
  have h1 : settleWindows s = .ok ⟨⟩ s := settleWindows_ok h (fun p hm => by
    have := hp p hm
    simp only [Bool.and_eq_true, bne_iff_ne, ne_eq] at this
    exact this.1)
  have h2 : th.pend.any (fun p => p.dsts.any (fun d => (rs ++ ws).contains d && d != .s 63)) = false := by
    rw [List.any_eq_false]
    intro p hm
    have := hp p hm
    simp only [Bool.and_eq_true, Bool.not_eq_true'] at this
    simp only [this.2, Bool.false_eq_true, not_false_eq_true]
  simp only [issue, M_bind, checkNames_ok h _ hn, h1, myTh_ok h]
  rw [h2]
  simp only [Bool.false_eq_true, ↓reduceIte]
  exact declared_ok h hs

/-- Reading the values of uniform registers. -/
theorem mapM_valS_ok {s : State} {ag : Agent} (h : s.cur = some ag) (rs : List Nat) :
    rs.mapM valS s = .ok (rs.map (fun r => (s.readS ag r).val)) s := by
  induction rs with
  | nil => rfl
  | cons r rs ih => simp [List.mapM_cons, M_bind, M_map, valS_ok h, ih]

/-- The state after a uniform instruction's write, before its thread moves on. -/
theorem uniform_ok {s : State} {ag : Agent} {th : Thread} (h : s.Turn ag th) {d : Nat} {srcs : List Nat}
    {f : List Word → Word} (hi : s.mayIssue ag th (srcs.map .s) [.s d] = true) {l : Lbl} {tab : List (BitVec 64)}
    (hj : s.joined ag (srcs.map (fun r => (s.readS ag r).lab) ++ [th.pcl]) = some (l, tab)) :
    uniform d srcs f s = .ok {} ((s.setLabels (s.ctxOf ag) tab).writeS ag d
      { val := f (srcs.map (fun r => (s.readS ag r).val)), lab := l }) := by
  have h1 := h.setLabels (s.ctxOf ag) tab
  simp only [uniform, M_bind, issue_ok h hi, labelU_ok h hj, mapM_valS_ok h1.1, State.setLabels_readS, writeS_ok h1.1, done, M_pure]

/-- One step of a uniform instruction. -/
theorem run_uniform {s : State} {ag : Agent} {th : Thread} (h : s.Turn ag th) {d : Nat} {srcs : List Nat}
    {f : List Word → Word} (hi : s.mayIssue ag th (srcs.map .s) [.s d] = true) {l : Lbl} {tab : List (BitVec 64)}
    (hj : s.joined ag (srcs.map (fun r => (s.readS ag r).lab) ++ [th.pcl]) = some (l, tab)) :
    run (uniform d srcs f) s = .next (s.finish ((s.setLabels (s.ctxOf ag) tab).writeS ag d
      { val := f (srcs.map (fun r => (s.readS ag r).val)), lab := l }) ag {}) :=
  run_ok h.1 (uniform_ok h hi hj)

end Sys2Proof.Machine
end

