-- ==== Sys2Proof/Laws/Vector.lean ====
section
/-! SUPPORT. What writes of vector and mask registers do, and the shapes of the instructions that make them. -/

namespace Sys2Proof.Machine

/-! ### Labels -/

/-- A join that succeeds changes the label table of the agent's context alone. -/
theorem joinAll_inv {s s1 : State} {ag : Agent} {th : Thread} (h : s.Turn ag th) {ls : List Lbl} {l : Lbl}
    (hj : joinAll ls s = .ok l s1) : ∃ tab, s.joined ag ls = some (l, tab) ∧ s1 = s.setLabels (s.ctxOf ag) tab := by
  simp only [joinAll, M_bind, myVf_ok h, M_get] at hj
  cases hx : joinAllIn (s.ctx (s.ctxOf ag)).labels 0 ls with
  | none =>
    rw [hx] at hj
    simp [trapU, M_bind, myTh_ok h] at hj
  | some e =>
    rw [hx] at hj
    obtain ⟨a, tab⟩ := e
    simp only [M_bind, M_modify, M_pure, EStateM.Result.ok.injEq] at hj
    exact ⟨tab, by rw [State.joined, hx, hj.1], hj.2.symm⟩

/-- The labels of the words of a vector write change label tables alone. -/
theorem wordLabels_frame {ag : Agent} {th : Thread} (tm : Team) (exm : Mask) (d : Nat) (labs : Nat → List Lbl) (gs : List Nat) :
    ∀ {s s1 : State} {ls : List (Nat × Lbl)}, s.Turn ag th → wordLabels tm exm d labs gs s = .ok ls s1 →
      s1.cur = s.cur ∧ s1.crews = s.crews ∧ s1.sups = s.sups ∧ ls.map Prod.fst = gs ∧
      (∀ k, (s1.ctx k).labels = (s.ctx k).labels ∨ k = s.ctxOf ag) := by
  induction gs with
  | nil =>
    intro s s1 ls h hw
    simp only [wordLabels, M_pure, EStateM.Result.ok.injEq] at hw
    obtain ⟨rfl, rfl⟩ := hw
    simp
  | cons g gs ih =>
    intro s s1 ls h hw
    have step : ∀ {l : Lbl} {s2 : State}, wordLabel tm.live exm g (tm.vlab d g) (labs g) s = .ok l s2 →
        s2.cur = s.cur ∧ s2.crews = s.crews ∧ s2.sups = s.sups ∧
        (∀ k, (s2.ctx k).labels = (s.ctx k).labels ∨ k = s.ctxOf ag) := by
      intro l s2 h2
      simp only [wordLabel, M_bind] at h2
      cases hj : joinAll (labs g) s with
      | error e t => simp [hj] at h2
      | ok w t =>
        rw [hj] at h2
        obtain ⟨tab, -, ht⟩ := joinAll_inv h hj
        subst ht
        have hctx : ∀ tab k, ((s.setLabels (s.ctxOf ag) tab).ctx k).labels = (s.ctx k).labels ∨ k = s.ctxOf ag := by
          intro tab k
          by_cases hk : k = s.ctxOf ag
          · exact .inr hk
          · exact .inl (by rw [State.setLabels_labels_ne s tab hk])
        by_cases hz : mword tm.live g &&& ~~~(mword exm g) = 0
        · simp only [hz, ↓reduceIte, M_pure, EStateM.Result.ok.injEq] at h2
          rw [← h2.2]
          exact ⟨rfl, rfl, rfl, hctx tab⟩
        · simp only [hz, ↓reduceIte] at h2
          obtain ⟨tab2, -, ht2⟩ := joinAll_inv (h.setLabels (s.ctxOf ag) tab) h2
          simp only [State.setLabels_ctxOf, State.setLabels_setLabels] at ht2
          rw [ht2]
          exact ⟨rfl, rfl, rfl, hctx tab2⟩
    simp only [wordLabels, M_bind] at hw
    cases h1 : wordLabel tm.live exm g (tm.vlab d g) (labs g) s with
    | error e t => simp [h1] at hw
    | ok l s2 =>
      rw [h1] at hw
      obtain ⟨a, b, c, e⟩ := step h1
      cases h3 : wordLabels tm exm d labs gs s2 with
      | error e t => simp [h3] at hw
      | ok rest s3 =>
        simp only [h3, M_pure, EStateM.Result.ok.injEq] at hw
        obtain ⟨rfl, rfl⟩ := hw
        obtain ⟨a', b', c', d', e'⟩ := ih (h.congr a b c) h3
        refine ⟨a'.trans a, b'.trans b, c'.trans c, by simp [d'], fun k => ?_⟩
        have e1 : s2.ctxOf ag = s.ctxOf ag := State.ctxOf_congr b c ag
        rcases e' k with h' | h'
        · rcases e k with h'' | h''
          · exact .inl (h'.trans h'')
          · exact .inr h''
        · exact .inr (h'.trans e1)

theorem dominates_ok {s : State} {ag : Agent} {th : Thread} (h : s.Turn ag th) (x y : Lbl) :
    dominates x y s = .ok ((s.ctx (s.ctxOf ag)).dominates x y) s := by
  simp only [dominates, M_bind, M_get, myVf_ok h, M_pure]

/-! ### Vector writes -/

theorem logWords_ok {s : State} {cid t fn : Nat} {c : Crew} {tm : Team} {th : Thread} (h : s.AtFrag cid t fn c tm th)
    {keys : List Nat} (hr : c.regHeld + (c.newWords t keys).length ≤ Config.logWords) :
    logWords keys s = .ok ⟨⟩ (s.logged cid (c.newWords t keys)) := by
  have hm : s.modCrew cid (fun x => { x with regLog := x.regLog ++ x.newWords t keys }) =
      s.modCrew cid (fun x => { x with regLog := x.regLog ++ c.newWords t keys }) := by
    simp only [State.modCrew, kvModify, h.crew]
  simp only [logWords, M_bind, myFrag_ok h.cur, getCrew_ok h.crew, State.logged, List.length_eq_zero_iff]
  split
  · rfl
  · rw [if_neg (Nat.not_lt.mpr hr)]
    simp only [M_modify, hm]

theorem State.AtFrag.logged {s : State} {cid t fn : Nat} {c : Crew} {tm : Team} {th : Thread}
    (h : s.AtFrag cid t fn c tm th) (new : List LogKey) : ∃ c', (s.logged cid new).AtFrag cid t fn c' tm th := by
  simp only [State.logged]
  split
  · exact ⟨c, h⟩
  · refine ⟨{ c with regLog := c.regLog ++ new }, h.1, ?_, h.2.2.1, h.2.2.2⟩
    rw [State.crew_modCrew, if_pos rfl, h.crew]
    rfl

/-- A vector write by a fragment with an active lane, whose labels can be formed and whose words fit the register log. -/
theorem writeV_ok {s s1 : State} {cid t fn : Nat} {c : Crew} {tm : Team} {th : Thread} (h : s.AtFrag cid t fn c tm th)
    (hx : mgroups th.exm ≠ []) {d : Nat} {labs : Nat → List Lbl} {f : Nat → Lane} {ls : List (Nat × Lbl)}
    (hw : wordLabels tm th.exm d (fun g => labs g ++ [th.pcl]) (mgroups th.exm) s = .ok ls s1)
    (hr : c.regHeld + (c.newWords t ((mgroups th.exm).map (vkey d))).length ≤ Config.logWords) :
    writeV d labs f s =
      .ok ⟨⟩ ((s1.logged cid (c.newWords t ((mgroups th.exm).map (vkey d)))).putVec cid t d th.exm ls f) := by
  obtain ⟨hc, hk, hs, -⟩ := wordLabels_frame tm th.exm d _ _ h.turn hw
  have h1 := h.congr hc hk
  obtain ⟨c', h2⟩ := h1.logged (c.newWords t ((mgroups th.exm).map (vkey d)))
  have hx' : (mgroups th.exm).isEmpty = false := by simpa [List.isEmpty_iff] using hx
  simp only [writeV, M_bind, myTh_ok h.turn, myTeam_ok h, hx', Bool.false_eq_true, ↓reduceIte, hw, logWords_ok h1 hr,
    modTeam_ok h2.cur, State.putVec]

/-! ### Lane words and groups -/

theorem mgroups_ne {m : Mask} (h : m ≠ 0) : mgroups m ≠ [] := by
  intro hg
  apply h
  apply BitVec.eq_of_getLsbD_eq
  intro i hi
  have hw : mword m (i / 32) = 0 := by
    by_contra hne
    have hm : i / 32 ∈ mgroups m := by
      simp only [mgroups, List.mem_filter, List.mem_range, bne_iff_ne, ne_eq]
      exact ⟨by omega, hne⟩
    rw [hg] at hm
    exact absurd hm (List.not_mem_nil)
  have hb : (mword m (i / 32)).getLsbD (i % 32) = false := by
    rw [hw]
    simp
  rw [mword, BitVec.getLsbD_extractLsb'] at hb
  have h32 : i % 32 < 32 := Nat.mod_lt _ (by omega)
  simp only [h32, decide_true, Bool.true_and, Nat.div_add_mod] at hb
  simpa using hb

/-! ### Instructions by shape -/

theorem vDst_ok {s : State} {ag : Agent} {th : Thread} (h : s.Turn ag th) {d : Nat} (hd : s.hasName ag (.v d) = true) :
    vDst d s = .ok (if th.exm = 0 then [] else [.v d]) s := by
  simp only [vDst, M_bind, checkName_ok h hd, myTh_ok h, M_pure]

theorem mDst_ok {s : State} {ag : Agent} {th : Thread} (h : s.Turn ag th) {d : Nat} (hd : s.hasName ag (.m d) = true) :
    mDst d s = .ok (if th.exm = 0 then [] else [.m d]) s := by
  simp only [mDst, M_bind, checkName_ok h hd, myTh_ok h, M_pure]

theorem openWindow_ok {s : State} {ag : Agent} (h : s.cur = some ag) (dsts : List RegName) (la cls : Nat) :
    openWindow dsts la cls none s = .ok ⟨⟩ (s.opened ag dsts (some (la, cls))) := by
  cases ag <;> simp only [openWindow, M_bind, me_ok h, M_pure, modTh_ok h, State.opened]

theorem maskBits_ok {s : State} {cid t fn : Nat} {c : Crew} {tm : Team} {th : Thread} (h : s.AtFrag cid t fn c tm th)
    (n : Nat) : maskBits n s = .ok (maskVal tm th n) s := by
  simp only [maskBits, maskVal]
  split
  · simp only [M_bind, myTh_ok h.turn, M_pure]
  · simp only [M_bind, myTeam_ok h, M_pure]

theorem maskLab_ok {s : State} {cid t fn : Nat} {c : Crew} {tm : Team} {th : Thread} (h : s.AtFrag cid t fn c tm th)
    (n : Nat) : maskLab n s = .ok (maskLbl tm th n) s := by
  simp only [maskLab, maskLbl]
  split
  · simp only [myPcl_ok h.turn]
  · simp only [M_bind, myTeam_ok h, M_pure]

/-- A mask write whose labels can be formed; m0 is written under a PC label that dominates them. -/
theorem writeM_ok {s : State} {cid t fn : Nat} {c : Crew} {tm : Team} {th : Thread} (h : s.AtFrag cid t fn c tm th)
    {d : Nat} {lanes bits : Mask} {labs : List Lbl} {l : Lbl} {tab : List (BitVec 64)}
    (hl : s.maskLabel (.frag cid t fn) tm d lanes (labs ++ [th.pcl]) = some (l, tab))
    (hd : d = 0 → ((s.setLabels c.vf tab).ctx c.vf).dominates th.pcl l = true) :
    writeM d lanes bits labs s = .ok ⟨⟩ ((s.setLabels c.vf tab).putMask cid t fn tm d lanes bits l) := by
  simp only [State.maskLabel] at hl
  cases hj : s.joined (.frag cid t fn) (labs ++ [th.pcl]) with
  | none => simp [hj] at hl
  | some e =>
    obtain ⟨w, tab1⟩ := e
    rw [hj] at hl
    have h1 := h.setLabels c.vf tab1
    have hv : s.ctxOf (.frag cid t fn) = c.vf := h.ctx
    simp only [writeM, M_bind, myTh_ok h.turn, joinAll_ok h.turn hj, hv]
    by_cases h0 : d = 0
    · simp only [h0, true_or, ↓reduceIte, Option.some.injEq, Prod.mk.injEq] at hl
      obtain ⟨rfl, rfl⟩ := hl
      simp only [h0, ↓reduceIte, M_bind, dominates_ok h1.turn, h1.ctx, hd h0, modTh_ok h1.cur, State.putMask]
    · simp only [h0, false_or] at hl
      simp only [h0, ↓reduceIte, M_bind, myTeam_ok h1]
      by_cases hz : tm.live &&& ~~~lanes = 0
      · simp only [hz, ↓reduceIte, Option.some.injEq, Prod.mk.injEq] at hl
        obtain ⟨rfl, rfl⟩ := hl
        simp only [hz, ↓reduceIte, M_bind, M_pure, modTeam_ok h1.cur, State.putMask, h0]
      · simp only [hz, ↓reduceIte] at hl
        have hj2 : (s.setLabels c.vf tab1).joined (.frag cid t fn) [w, (kvGet {} tm.m d).lab] = some (l, tab) := by
          simp only [State.joined, State.setLabels_ctxOf, hv, State.setLabels_labels]
          exact hl
        simp only [hz, ↓reduceIte, M_bind, join2, joinAll_ok h1.turn hj2, State.setLabels_ctxOf, hv, State.setLabels_setLabels,
          modTeam_ok (h.setLabels c.vf tab).cur, State.putMask, h0]

/-! ### One step of an instruction by its shape -/

theorem State.mayIssue_name {s : State} {ag : Agent} {th : Thread} {rs ws : List RegName}
    (hi : s.mayIssue ag th rs ws = true) {r : RegName} (hr : r ∈ rs ∨ r ∈ ws) : s.hasName ag r = true := by
  simp only [State.mayIssue, Bool.and_eq_true, List.all_eq_true] at hi
  exact hi.1 r (List.mem_append.mpr hr)

theorem run_maskOp {s : State} {cid t fn : Nat} {c : Crew} {tm : Team} {th : Thread} (h : s.AtFrag cid t fn c tm th)
    (hx : th.exm ≠ 0) {d : Nat} {rs : List RegName} {labs : M (List Lbl)} {bits : M Mask} {ls : List Lbl} {b : Mask}
    (hi : s.mayIssue (.frag cid t fn) th rs [.m d] = true) (h1 : labs s = .ok ls s) (h2 : bits s = .ok b s) {l : Lbl}
    {tab : List (BitVec 64)} (hl : s.maskLabel (.frag cid t fn) tm d th.exm (ls ++ [th.pcl]) = some (l, tab))
    (hd : d = 0 → ((s.setLabels c.vf tab).ctx c.vf).dominates th.pcl l = true) :
    run (maskOp d rs labs bits) s =
      .next (s.finish ((s.setLabels c.vf tab).putMask cid t fn tm d th.exm b l) (.frag cid t fn) {}) := by
  refine run_ok h.cur ?_
  have hm := State.mayIssue_name hi (r := .m d) (.inr (by simp))
  simp only [maskOp, M_bind, mDst_ok h.turn hm, hx, ↓reduceIte, issue_ok h.turn hi, myTh_ok h.turn, h1, h2, writeM_ok h hl hd,
    done, M_pure]

theorem run_maskOp_idle {s : State} {cid t fn : Nat} {c : Crew} {tm : Team} {th : Thread} (h : s.AtFrag cid t fn c tm th)
    (hx : th.exm = 0) {d : Nat} {rs : List RegName} {labs : M (List Lbl)} {bits : M Mask}
    (hm : s.hasName (.frag cid t fn) (.m d) = true) (hi : s.mayIssue (.frag cid t fn) th rs [] = true) :
    run (maskOp d rs labs bits) s = .next (s.finish s (.frag cid t fn) {}) := by
  refine run_ok h.cur ?_
  simp only [maskOp, M_bind, mDst_ok h.turn hm, hx, ↓reduceIte, issue_ok h.turn hi, myTh_ok h.turn, done, M_pure]

/-- What a vector write by a fragment with an active lane leaves. -/
def vecWritten (s1 : State) (cid t : Nat) (c : Crew) (th : Thread) (d : Nat) (ls : List (Nat × Lbl)) (f : Nat → Lane) : State :=
  (s1.logged cid (c.newWords t ((mgroups th.exm).map (vkey d)))).putVec cid t d th.exm ls f

theorem lanewise_ok {s s1 : State} {cid t fn : Nat} {c : Crew} {tm : Team} {th : Thread} (h : s.AtFrag cid t fn c tm th)
    (hx : th.exm ≠ 0) {d : Nat} {vs : List Nat} {others : List RegName} {ol : M (List Lbl)} {f : Team → Nat → Lane}
    (hi : s.mayIssue (.frag cid t fn) th (vs.map .v ++ others) [.v d] = true) {os : List Lbl} (h1 : ol s = .ok os s)
    {ls : List (Nat × Lbl)}
    (hw : wordLabels tm th.exm d (fun g => (vs.map (fun r => tm.vlab r g) ++ os) ++ [th.pcl]) (mgroups th.exm) s = .ok ls s1)
    (hr : c.regHeld + (c.newWords t ((mgroups th.exm).map (vkey d))).length ≤ Config.logWords) :
    lanewise d vs others ol f s = .ok {} (vecWritten s1 cid t c th d ls (f tm)) := by
  have hd := State.mayIssue_name hi (r := .v d) (.inr (by simp))
  simp only [lanewise, M_bind, vDst_ok h.turn hd, hx, ↓reduceIte, issue_ok h.turn hi, myTh_ok h.turn, myTeam_ok h, h1,
    writeV_ok h (mgroups_ne hx) hw hr, done, M_pure, vecWritten]

theorem lanewise_idle {s : State} {cid t fn : Nat} {c : Crew} {tm : Team} {th : Thread} (h : s.AtFrag cid t fn c tm th)
    (hx : th.exm = 0) {d : Nat} {vs : List Nat} {others : List RegName} {ol : M (List Lbl)} {f : Team → Nat → Lane}
    (hd : s.hasName (.frag cid t fn) (.v d) = true) (hi : s.mayIssue (.frag cid t fn) th (vs.map .v ++ others) [] = true) :
    lanewise d vs others ol f s = .ok {} s := by
  simp only [lanewise, M_bind, vDst_ok h.turn hd, hx, ↓reduceIte, issue_ok h.turn hi, myTh_ok h.turn, done, M_pure]

end Sys2Proof.Machine
end

