-- ==== Sys2Proof/Laws/Branch.lean ====
section
/-! SUPPORT. What reading code changes, and what the branches do with the headers that they read. -/

namespace Sys2Proof.Machine

/-! ### Reading code -/

/-- What two states share when one comes from the other by reads of code: everything but memory, the code that units have
fetched, the clusters' translations, and the contexts' recorded sets. -/
def SameRun (s t : State) : Prop :=
  t.cur = s.cur ∧ t.crews = s.crews ∧ t.sups = s.sups ∧ (∀ k, (t.ctx k).labels = (s.ctx k).labels) ∧ t.cyc = s.cyc ∧
    t.pins = s.pins ∧ t.poison = s.poison ∧ t.gran = s.gran

theorem SameRun.refl (s : State) : SameRun s s := ⟨rfl, rfl, rfl, fun _ => rfl, rfl, rfl, rfl, rfl⟩
theorem SameRun.trans {s t u : State} (h : SameRun s t) (k : SameRun t u) : SameRun s u := by
  obtain ⟨a, b, c, d, e, f, g, i⟩ := h
  obtain ⟨a', b', c', d', e', f', g', i'⟩ := k
  exact ⟨a'.trans a, b'.trans b, c'.trans c, fun x => (d' x).trans (d x), e'.trans e, f'.trans f, g'.trans g, i'.trans i⟩

theorem setHomeBytes_frame (bs : List (Nat × Byte)) : ∀ s : State,
    SameRun s (s.setHomeBytes bs) ∧ (s.setHomeBytes bs).ctxs = s.ctxs ∧ (s.setHomeBytes bs).clusters = s.clusters := by
  induction bs with
  | nil => exact fun s => ⟨SameRun.refl s, rfl, rfl⟩
  | cons e es ih =>
    intro s
    rw [State.setHomeBytes]
    split
    · exact ih s
    · obtain ⟨h1, h2, h3⟩ := ih (s.setHomeByte e.1 e.2)
      exact ⟨SameRun.trans ⟨rfl, rfl, rfl, fun _ => rfl, rfl, rfl, rfl, rfl⟩ h1, h2, h3⟩

theorem sameRun_ite {s x y : State} (c : Prop) [Decidable c] (h : SameRun s x) (k : SameRun s y) :
    SameRun s (if c then x else y) := by
  split <;> assumption

theorem SlicesOnly.sameRun {s t : State} (h : SlicesOnly s t) : SameRun s t := by
  obtain ⟨_, _, _, _, rfl⟩ := h
  exact ⟨rfl, rfl, rfl, fun _ => rfl, rfl, rfl, rfl, rfl⟩

theorem sameRun_writeHome (s : State) (vf : Nat) (bs : List (Nat × Byte)) : SameRun s (s.writeHome vf bs) := by
  have h : ∀ (ls : List Nat) (t : State), SameRun s t → SameRun s (ls.foldl (fun s l => s.markDirty vf l) t) := by
    intro ls
    induction ls with
    | nil => exact fun _ ht => ht
    | cons l ls ih => exact fun t ht => ih _ (ht.trans (slicesOnly_markDirty t vf l).sameRun)
  exact h _ _ (setHomeBytes_frame bs s).1

theorem sameRun_setAD (s : State) (vf p : Nat) (w : Bool) : SameRun s (s.setAD vf p w) :=
  sameRun_ite _ (SameRun.refl s) (sameRun_writeHome s vf _)

theorem sameRun_noteUse (s : State) (vf : Nat) (cl : Option Nat) (va pte : Nat) (e : Word) (l : Bool) :
    SameRun s (s.noteUse vf cl va pte e l) := by
  have h : ∀ t : State, SameRun t (t.modCtx vf (fun c => { c with recordedSet := addOnce c.recordedSet (va / 2 ^ 16) })) := by
    intro t
    refine ⟨rfl, rfl, rfl, fun k => ?_, rfl, rfl, rfl, rfl⟩
    rw [State.ctx_modCtx]
    split
    · subst_vars
      rfl
    · rfl
  simp only [State.noteUse]
  refine (slicesOnly_chargeWalk s vf cl va pte l).sameRun.trans (SameRun.trans ?_ (h _))
  generalize s.chargeWalk vf cl va pte l = u
  split
  · split
    · exact SameRun.refl u
    · exact ⟨rfl, rfl, rfl, fun _ => rfl, rfl, rfl, rfl, rfl⟩
  · exact SameRun.refl u

theorem sameRun_seeWord (s : State) (k va : Nat) (w : Word) : SameRun s (s.seeWord k va w).2 := by
  simp only [State.seeWord]
  split
  · split
    · exact SameRun.refl s
    · exact ⟨rfl, rfl, rfl, fun _ => rfl, rfl, rfl, rfl, rfl⟩
  · exact ⟨rfl, rfl, rfl, fun _ => rfl, rfl, rfl, rfl, rfl⟩

theorem of_ite_ok {c : Prop} [Decidable c] {e : FetchErr} {x : Except FetchErr (Word × State)} {r : Word × State}
    (h : (if c then .error e else x) = .ok r) : x = .ok r := by
  by_cases hc : c
  · rw [if_pos hc] at h
    cases h
  · rwa [if_neg hc] at h

/-- A word of code is read without a change to what runs. -/
theorem sameRun_fetchWord {s s1 : State} {u : Nat} {vf cl : Option Nat} {ap : Nat × Nat} {va : Nat} {w : Word}
    (h : s.fetchWord u vf cl ap va = .ok (w, s1)) : SameRun s s1 := by
  unfold State.fetchWord at h
  replace h := of_ite_ok h
  cases vf with
  | none =>
    replace h := of_ite_ok (of_ite_ok h)
    injection h with h
    exact (congrArg (fun x => SameRun s x.2) h).mp (sameRun_seeWord ..)
  | some v =>
    replace h := of_ite_ok h
    revert h
    generalize s.translate v cl va = r
    intro h
    cases r with
    | absent sub => cases h
    | leaf p e l =>
      replace h := of_ite_ok h
      replace h := of_ite_ok h
      injection h with h
      exact (congrArg (fun x => SameRun s x.2) h).mp
        ((((sameRun_noteUse s v cl va p e l).trans (sameRun_setAD _ v p false)).trans (slicesOnly_touchHome ..).sameRun).trans
          (sameRun_seeWord _ _ _ _))

theorem State.Turn.same {s t : State} {ag : Agent} {th : Thread} (h : s.Turn ag th) (r : SameRun s t) : t.Turn ag th :=
  h.congr r.1 r.2.1 r.2.2.1
theorem State.AtFrag.same {s t : State} {cid n fn : Nat} {c : Crew} {tm : Team} {th : Thread}
    (h : s.AtFrag cid n fn c tm th) (r : SameRun s t) : t.AtFrag cid n fn c tm th := h.congr r.1 r.2.1

/-! ### The current agent's place -/

theorem myVf?_eq {s : State} {ag : Agent} {th : Thread} (h : s.Turn ag th) : myVf? s = .ok (s.vfOf ag) s := by
  cases ag with
  | frag k t f =>
    obtain ⟨c, hc⟩ := h.crew (cid := k) rfl
    simp only [myVf?, M_bind, me_ok h.1, agentCid, getCrew_ok hc, M_pure, State.vfOf, Option.bind_some, hc, Option.map_some]
  | seq k x =>
    obtain ⟨c, hc⟩ := h.crew (cid := k) rfl
    simp only [myVf?, M_bind, me_ok h.1, agentCid, getCrew_ok hc, M_pure, State.vfOf, Option.bind_some, hc, Option.map_some]
  | sup k => simp only [myVf?, M_bind, me_ok h.1, M_get, M_pure, State.vfOf]

theorem myCl_eq {s : State} {ag : Agent} {th : Thread} (h : s.Turn ag th) : myCl s = .ok (s.clOf ag) s := by
  cases ag with
  | frag k t f =>
    obtain ⟨c, hc⟩ := h.crew (cid := k) rfl
    simp only [myCl, myPlace, M_bind, me_ok h.1, agentCid, getCrew_ok hc, M_pure, State.clOf, Option.bind_some, hc,
      Option.map_some]
  | seq k x =>
    obtain ⟨c, hc⟩ := h.crew (cid := k) rfl
    simp only [myCl, myPlace, M_bind, me_ok h.1, agentCid, getCrew_ok hc, M_pure, State.clOf, Option.bind_some, hc,
      Option.map_some]
  | sup k => simp only [myCl, myPlace, M_bind, me_ok h.1, agentCid, M_pure, State.clOf, Option.bind_none, Option.map_none]

theorem myAperture_eq {s : State} {ag : Agent} {th : Thread} (h : s.Turn ag th) : myAperture s = .ok (s.apOf ag) s := by
  cases ag with
  | frag k t f =>
    obtain ⟨c, hc⟩ := h.crew (cid := k) rfl
    simp only [myAperture, M_bind, me_ok h.1, agentCid, getCrew_ok hc, M_get, M_pure, State.apOf, Option.bind_some, hc, myTh_ok h, h.2]
  | seq k x =>
    obtain ⟨c, hc⟩ := h.crew (cid := k) rfl
    simp only [myAperture, M_bind, me_ok h.1, agentCid, getCrew_ok hc, M_get, M_pure, State.apOf, Option.bind_some, hc, myTh_ok h, h.2]
  | sup k => simp only [myAperture, M_bind, me_ok h.1, agentCid, M_pure, State.apOf, Option.bind_none]

/-- A target that can be read and is a header passes, and so does a list of them. -/
theorem readHeader_ok {s s1 : State} {ag : Agent} {th : Thread} (h : s.Turn ag th) {va : Nat} {w : Word}
    (hf : s.fetchFor ag va = .ok (w, s1)) : readHeader va s = .ok w s1 := by
  unfold State.fetchFor at hf
  unfold readHeader
  rw [M_bind_ok (myVf?_eq h), M_bind_ok (myCl_eq h), M_bind_ok (myAperture_eq h), M_bind_ok (M_get s), M_bind_ok (me_ok h.1)]
  generalize s.fetchWord (s.fetchUnit ag) (s.vfOf ag) (s.clOf ag) (s.apOf ag) va = r at hf ⊢
  subst hf
  rfl

theorem headerAt_ok {s s1 : State} {ag : Agent} {va : Int} (h : s.headerAt ag va = some s1) :
    0 ≤ va ∧ va % 8 = 0 ∧ ∃ w, s.fetchFor ag va.toNat = .ok (w, s1) ∧ hdrOk w = true := by
  unfold State.headerAt at h
  by_cases hc : va < 0 ∨ va % 8 ≠ 0
  · rw [if_pos hc] at h
    cases h
  · rw [if_neg hc] at h
    generalize s.fetchFor ag va.toNat = r at h ⊢
    cases r with
    | error e => cases h
    | ok x =>
      obtain ⟨w, s2⟩ := x
      dsimp only at h
      by_cases hw : hdrOk w = true
      · rw [if_pos hw] at h
        injection h with h
        exact ⟨by omega, by omega, w, by rw [h], hw⟩
      · rw [if_neg hw] at h
        cases h

theorem readTargets_ok {ag : Agent} {th : Thread} (vas : List Int) : ∀ {s s1 : State}, s.Turn ag th →
    s.headersAt ag vas = some s1 → ∃ ws, readTargets vas s = .ok ws s1 ∧
      ws.find? (fun e => !hdrOk e.2 || e.1 % 8 != 0) = none ∧ SameRun s s1 := by
  induction vas with
  | nil =>
    intro s s1 h hh
    injection hh with hh
    subst hh
    exact ⟨[], rfl, rfl, SameRun.refl s⟩
  | cons va vas ih =>
    intro s s1 h hh
    rw [State.headersAt, List.foldlM_cons] at hh
    obtain ⟨s2, h2, hh⟩ := Option.bind_eq_some_iff.mp hh
    obtain ⟨h0, h8, w, hf, hw⟩ := headerAt_ok h2
    have hr := sameRun_fetchWord hf
    obtain ⟨ws, a, b, c⟩ := ih (h.same hr) hh
    refine ⟨(va, w) :: ws, ?_, ?_, hr.trans c⟩
    · have hn : ¬ va < 0 := by omega
      simp only [readTargets, M_bind, readTarget, if_neg hn, readHeader_ok h hf, a, M_pure]
    · simp [hw, h8, b]

theorem checkHeaders_ok {s s1 : State} {ag : Agent} {th : Thread} (h : s.Turn ag th) {vas : List Int} {ls : List Lbl}
    (hh : s.headersAt ag vas = some s1) : checkHeaders vas ls s = .ok ⟨⟩ s1 ∧ SameRun s s1 := by
  obtain ⟨ws, a, b, c⟩ := readTargets_ok vas h hh
  refine ⟨?_, c⟩
  simp only [checkHeaders, M_bind, a, b, M_pure]

/-! ### Windows and flow -/

theorem closeWindows_ok {s : State} {ag : Agent} {th : Thread} (h : s.Turn ag th) (hf : th.heldFree = true) :
    closeWindows s = .ok ⟨⟩ (s.closed ag th) := by
  have hf : th.holding = false := by simpa [Thread.heldFree, Thread.holding] using hf
  simp only [closeWindows, M_bind, myTh_ok h, hf, Bool.false_eq_true, ↓reduceIte, State.closed]
  cases hp : th.pend with
  | nil => simp only [List.isEmpty_nil, ↓reduceIte, M_pure]
  | cons p ps => simp only [List.isEmpty_cons, Bool.false_eq_true, ↓reduceIte, modTh_ok h.1, reduceCtorEq]

theorem myClear_ok {s : State} {ag : Agent} {th : Thread} (h : s.Turn ag th) : myClear s = .ok (s.clearOf ag) s := by
  obtain ⟨hc, ht⟩ := h
  cases ag with
  | frag cid t fn =>
    simp only [State.thread?] at ht
    cases hk : s.team? cid t with
    | none => simp [hk] at ht
    | some tm => simp only [myClear, myTeam, myFrag, M_bind, me_ok hc, M_get, M_pure, hk, State.clearOf]
  | seq cid x =>
    simp only [State.thread?] at ht
    cases hk : kvFind s.crews cid with
    | none => simp [hk] at ht
    | some c =>
      cases hq : kvFind c.body.seqs x with
      | none => simp [hk, hq] at ht
      | some q => simp only [myClear, M_bind, me_ok hc, getCrew_ok hk, hq, M_pure, State.clearOf, hk, Option.bind_some]
  | sup k => simp only [myClear, M_bind, me_ok hc, M_pure, State.clearOf]

theorem flowCheck_ok {s : State} {ag : Agent} {th : Thread} (h : s.Turn ag th) {l : Lbl} (hu : s.unlabelled ag th l = true)
    (j : Bool) : flowCheck l j s = .ok none s := by
  simp only [State.unlabelled, Bool.and_eq_true] at hu
  simp only [flowCheck, M_bind, myTh_ok h, myClear_ok h, dominates_ok h, hu.1, hu.2, Bool.not_true, Bool.false_eq_true,
    ↓reduceIte, M_pure]

theorem State.unlabelled_same {s t : State} {ag : Agent} {th : Thread} {l : Lbl} (r : SameRun s t) :
    t.unlabelled ag th l = s.unlabelled ag th l := by
  have h1 : t.ctxOf ag = s.ctxOf ag := State.ctxOf_congr r.2.1 r.2.2.1 ag
  have h2 : t.clearOf ag = s.clearOf ag := by
    cases ag <;> simp [State.clearOf, State.team?, r.2.1]
  have h3 : ∀ x y, (t.ctx (s.ctxOf ag)).dominates x y = (s.ctx (s.ctxOf ag)).dominates x y := by
    intro x y
    simp only [Context.dominates, Context.owners, r.2.2.2.1]
  simp only [State.unlabelled, h1, h2, h3]

/-- A branch without a span moves the whole fragment or lets it go on. -/
theorem moveWhole_ok {s : State} {ag : Agent} {th : Thread} (h : s.Turn ag th) {taken : Bool}
    (hf : taken = true → th.heldFree = true) (pc j : Int) :
    moveWhole taken pc j none s =
      .ok { ctl := if taken then .jump pc.toNat else .next } (s.moved ag th taken) := by
  cases taken with
  | false =>
    simp only [moveWhole, Bool.false_eq_true, ↓reduceIte, M_bind, M_pure, modTh_ok h.1, done, State.moved]
  | true =>
    have hc : (s.closed ag th).cur = some ag := by
      simp only [State.closed]
      split
      · exact h.1
      · cases ag <;> exact h.1
    simp only [moveWhole, ↓reduceIte, M_bind, closeWindows_ok h (hf rfl), modTh_ok hc, goto, M_pure, State.moved]

end Sys2Proof.Machine
end

