-- ==== Sys2Proof/Laws/Access.lean ====
section
/-! SUPPORT. What the checks of an access change. -/

namespace Sys2Proof.Machine

variable {α β : Type}

theorem M_bind_inv {x : M α} {f : α → M β} {s u : State} {b : β} (h : (x >>= f) s = .ok b u) :
    ∃ a t, x s = .ok a t ∧ f a t = .ok b u := by
  rw [M_bind] at h
  cases hx : x s with
  | ok a t =>
    rw [hx] at h
    exact ⟨a, t, rfl, h⟩
  | error e t =>
    rw [hx] at h
    cases h

theorem raiseAcc_fails {a : Acc} {code sub : Nat} {bad : List (Nat × Int)} {s t : State} {x : α} :
    raiseAcc (α := α) a code sub bad s ≠ .ok x t := by
  intro h
  obtain ⟨th, u, -, h⟩ := M_bind_inv h
  dsimp only at h
  split at h <;> cases h

theorem checkAll_inv {a : Acc} {code sub : Nat} {f : Nat × Int → Bool} {s t : State} {x : Unit}
    (h : checkAll a code sub f s = .ok x t) : t = s := by
  unfold checkAll at h
  cases hq : a.eas.filter f with
  | nil =>
    rw [hq] at h
    cases h
    rfl
  | cons y ys =>
    rw [hq] at h
    exact absurd h raiseAcc_fails

theorem sameRun_foldl {γ : Type} (f : State → γ → State) (hf : ∀ s x, SameRun s (f s x)) (l : List γ) :
    ∀ s, SameRun s (l.foldl f s) := by
  induction l with
  | nil => exact SameRun.refl
  | cons x xs ih => exact fun s => (hf s x).trans (ih (f s x))

theorem myPkr_inv {s t : State} {ag : Agent} {th : Thread} (ht : s.Turn ag th) {w : Word} (h : myPkr s = .ok w t) : t = s := by
  unfold myPkr at h
  rw [M_bind_ok (me_ok ht.1)] at h
  cases ag with
  | frag cid n fn =>
    obtain ⟨tm, u, h1, h2⟩ := M_bind_inv h
    cases h2
    unfold myTeam at h1
    rw [M_bind_ok (myFrag_ok ht.1)] at h1
    dsimp only at h1
    rw [M_bind_ok (M_get s)] at h1
    cases hk : s.team? cid n with
    | none =>
      rw [hk] at h1
      cases h1
    | some tm =>
      rw [hk] at h1
      cases h1
      rfl
  | seq cid x =>
    obtain ⟨c, hk⟩ := ht.crew (cid := cid) rfl
    dsimp only at h
    rw [M_bind_ok (getCrew_ok hk)] at h
    cases hq : kvFind c.body.seqs x with
    | none =>
      rw [hq] at h
      cases h
    | some q =>
      rw [hq] at h
      cases h
      rfl
  | sup k =>
    cases h
    rfl

/-- The checks of R149 change nothing of what runs: they set accessed and dirty bits and fill translations. -/
theorem checkAcc_same {k : AccKind} {a : Acc} {s s1 : State} {ag : Agent} {th : Thread} (ht : s.Turn ag th) {locs : List Loc}
    (h : checkAcc k a s = .ok locs s1) : SameRun s s1 := by
  unfold checkAcc at h
  rw [M_bind_ok (myAperture_eq ht), M_bind_ok (myVf_ok ht), M_bind_ok (myCl_eq ht)] at h
  obtain ⟨pl, s2, h2, h⟩ := M_bind_inv h
  obtain ⟨vf, s3, h3, h⟩ := M_bind_inv h
  have e2 : s2 = s := by
    unfold myPlace at h2
    rw [M_bind_ok (me_ok ht.1)] at h2
    cases hc : agentCid ag with
    | none =>
      rw [hc] at h2
      cases h2
      rfl
    | some cid =>
      obtain ⟨c, hk⟩ := ht.crew hc
      rw [hc] at h2
      dsimp only at h2
      rw [M_bind_ok (getCrew_ok hk)] at h2
      cases h2
      rfl
  subst e2
  rw [myVf?_eq ht] at h3
  cases h3
  obtain ⟨x, s3, h3, h⟩ := M_bind_inv h
  obtain rfl := checkAll_inv h3
  rw [M_bind_ok (M_get s3)] at h
  obtain ⟨x, s4, h3, h⟩ := M_bind_inv h
  obtain rfl := checkAll_inv h3
  obtain ⟨x, s5, h3, h⟩ := M_bind_inv h
  obtain rfl := checkAll_inv h3
  revert h
  dsimp only
  generalize a.eas.filter _ = q
  intro h
  cases q with
  | cons y ys =>
    obtain ⟨x, s6, h3, h⟩ := M_bind_inv h
    exact absurd h3 raiseAcc_fails
  | nil =>
  dsimp only at h
  obtain ⟨x, s7, h3, h⟩ := M_bind_inv h
  have e7 : s7 = s5 := by
    exact myPkr_inv ht h3
  subst e7
  obtain ⟨x, s8, h3, h⟩ := M_bind_inv h
  obtain rfl := checkAll_inv h3
  obtain ⟨x, s9, h3, h⟩ := M_bind_inv h
  obtain rfl := checkAll_inv h3
  split at h
  · obtain ⟨x, s10, h3, h⟩ := M_bind_inv h
    cases h3
    cases h
    exact sameRun_foldl _ (fun s l => (sameRun_noteUse s _ _ _ _ _ _).trans (sameRun_setAD _ _ _ _)) _ _
  · cases h
    exact SameRun.refl _

end Sys2Proof.Machine
end

