-- ==== Sys2Proof/Laws/Memory.lean ====
section
/-! SUPPORT. Laws of the bytes at home: a read after a write, what leaves them alone, and that every operation that changes them
keeps their canonical form. -/

namespace Sys2Proof.Machine

theorem inv_reset : State.reset.Inv := by
  refine ⟨?_, ?_, ?_⟩ <;> decide

/-! ### What leaves the bytes at home alone -/

/-- The bytes at home are as they were. -/
def SameBytes (s t : State) : Prop := t.hbm = s.hbm ∧ t.areas = s.areas ∧ t.areaMem = s.areaMem

theorem SameBytes.refl (s : State) : SameBytes s s := ⟨rfl, rfl, rfl⟩
theorem SameBytes.trans {s t u : State} (h : SameBytes s t) (k : SameBytes t u) : SameBytes s u :=
  ⟨k.1.trans h.1, k.2.1.trans h.2.1, k.2.2.trans h.2.2⟩
theorem SameBytes.ite {s x y : State} (c : Prop) [Decidable c] (h : SameBytes s x) (k : SameBytes s y) :
    SameBytes s (if c then x else y) := by
  split <;> assumption
theorem SameBytes.foldl {α : Type} (f : State → α → State) (hf : ∀ s x, SameBytes s (f s x)) (l : List α) :
    ∀ s : State, SameBytes s (l.foldl f s) := by
  induction l with
  | nil => exact SameBytes.refl
  | cons x xs ih => exact fun s => (hf s x).trans (ih _)
theorem SameBytes.homeByte {s t : State} (h : SameBytes s t) (a : Nat) : t.homeByte a = s.homeByte a := by
  simp only [State.homeByte, h.1, h.2.1, h.2.2]
theorem SameBytes.inv {s t : State} (h : SameBytes s t) (k : s.Inv) : t.Inv := by
  unfold State.Inv
  rw [h.1, h.2.1, h.2.2]
  exact k
theorem SlicesOnly.sameBytes {s t : State} (h : SlicesOnly s t) : SameBytes s t := ⟨h.hbm, h.areas.1, h.areas.2⟩

theorem sameBytes_tell (s : State) (vf line : Nat) : SameBytes s (s.tell vf line) := SameBytes.ite _ ⟨rfl, rfl, rfl⟩ ⟨rfl, rfl, rfl⟩
theorem sameBytes_unpoison (s : State) (line : Nat) : SameBytes s (s.unpoison line) := ⟨rfl, rfl, rfl⟩
theorem sameBytes_spoil (s : State) (lines : List Nat) : SameBytes s (s.spoil lines) :=
  SameBytes.ite _ (SameBytes.refl s) ⟨rfl, rfl, rfl⟩
theorem sameBytes_dropOrigin (s : State) (bs : List (Nat × Byte)) : SameBytes s (s.dropOrigin bs) :=
  SameBytes.ite _ (SameBytes.refl s) ⟨rfl, rfl, rfl⟩
theorem sameBytes_noteOrigin (s : State) (cid : Nat) (bs : List (Nat × Byte)) : SameBytes s (s.noteOrigin cid bs) :=
  SameBytes.ite _ ⟨rfl, rfl, rfl⟩ (SameBytes.refl s)
theorem sameBytes_dropStash (s : State) (keep : List Nat) (line : Nat) : SameBytes s (s.dropStash keep line) :=
  SameBytes.foldl (fun s k => s.dropStashOf line k) (fun _ _ => ⟨rfl, rfl, rfl⟩) _ s
theorem sameBytes_l1Enter (s : State) (cl core : Nat) (lines : List Nat) : SameBytes s (s.l1Enter cl core lines) :=
  SameBytes.ite _ (SameBytes.refl s) ⟨rfl, rfl, rfl⟩
theorem sameBytes_dropMates (s : State) (cl core line : Nat) (but : Option Nat) : SameBytes s (s.dropMates cl core line but) :=
  SameBytes.foldl (fun s k => s.dropStashOf line k) (fun _ _ => ⟨rfl, rfl, rfl⟩) _ s
theorem sameBytes_commitStores (s : State) (cid : Nat) (c : Crew) (own : List (Nat × Byte)) (p : Pad) :
    SameBytes s (s.commitStores cid c own p) := by
  simp only [State.commitStores]
  refine SameBytes.trans ?_ (SameBytes.foldl _ (fun t l => sameBytes_dropMates t ..) _ _)
  refine (sameBytes_l1Enter s c.cl c.core p.dirtyGlobal).trans ?_
  generalize s.l1Enter c.cl c.core p.dirtyGlobal = t
  simp [SameBytes, State.commitBytes]
theorem sameBytes_cancelOps (s : State) (cid : Nat) : SameBytes s (s.cancelOps cid) := by
  simp only [State.cancelOps]
  split <;> exact ⟨rfl, rfl, rfl⟩
theorem sameBytes_dropTurn (s : State) (cid : Nat) : SameBytes s (s.dropTurn cid) := by
  simp only [State.dropTurn]
  split
  · exact SameBytes.ite _ ⟨rfl, rfl, rfl⟩ (SameBytes.refl s)
  · exact SameBytes.refl s
theorem sameBytes_removeCrew (s : State) (cid : Nat) : SameBytes s (s.removeCrew cid) := by
  simp only [State.removeCrew]
  split
  · exact SameBytes.refl s
  · exact (sameBytes_cancelOps s cid).trans (SameBytes.trans ⟨rfl, rfl, rfl⟩ (sameBytes_dropTurn _ cid))
theorem sameBytes_endCast (s : State) (vf key : Nat) (e : Option (Nat × Nat × Word)) : SameBytes s (s.endCast vf key e) := by
  simp only [State.endCast]
  refine SameBytes.trans (SameBytes.foldl State.removeCrew (fun t x => sameBytes_removeCrew t x) (s.castCrews vf key) s) ?_
  generalize (s.castCrews vf key).foldl State.removeCrew s = t
  refine SameBytes.trans ?_ ⟨rfl, rfl, rfl⟩
  split
  · exact SameBytes.ite _ ⟨rfl, rfl, rfl⟩ ⟨rfl, rfl, rfl⟩
  · exact SameBytes.ite _ ⟨rfl, rfl, rfl⟩ ⟨rfl, rfl, rfl⟩
/-- The abort of a cast changes no byte at home. -/
theorem sameBytes_abortCrew (s : State) (cid code : Nat) (d : Word) : SameBytes s (s.abortCrew cid code d) := by
  simp only [State.abortCrew]
  split
  · exact sameBytes_endCast ..
  · exact SameBytes.refl s

/-! ### Writes at home -/

theorem State.setHomeByte_inv (s : State) (pa : Nat) (b : Byte) (h : s.Inv) : (s.setHomeByte pa b).Inv := by
  refine ⟨?_, h.2.1, ?_⟩
  · show memoryWf (if _ then _ else _)
    split
    · exact kvWf_kvPut 0 s.hbm pa b h.1
    · exact h.1
  · show kvSorted (if _ then _ else _) = true
    split
    · exact kvSorted_kvSet _ _ _ h.2.2
    · exact h.2.2

theorem State.setHomeBytes_inv (bs : List (Nat × Byte)) : ∀ s : State, s.Inv → (s.setHomeBytes bs).Inv := by
  induction bs with
  | nil => exact fun _ h => h
  | cons e rest ih =>
    intro s h
    rw [State.setHomeBytes]
    split
    · exact ih s h
    · exact ih _ (s.setHomeByte_inv e.1 e.2 h)

/-- A byte that no pair of the list names reads as before. -/
theorem State.homeByte_setHomeBytes_ne (s : State) (bs : List (Nat × Byte)) (a : Nat) (h : ∀ e ∈ bs, e.1 ≠ a) :
    (s.setHomeBytes bs).homeByte a = s.homeByte a := by
  induction bs generalizing s with
  | nil => rfl
  | cons e rest ih =>
    rw [State.setHomeBytes, ih _ fun x hx => h x (by simp [hx])]
    split
    · rfl
    · rw [State.homeByte_setHomeByte, if_neg (Ne.symm (h e (by simp)))]

/-- The last pair that names a byte is what it reads as, unless the byte lies in the memory of a peer that refuses the store. -/
theorem State.homeByte_setHomeBytes_last (s : State) (bs : List (Nat × Byte)) (a : Nat) (b : Byte)
    (h : s.refused (lineOf a) = false) : (s.setHomeBytes (bs ++ [(a, b)])).homeByte a = b := by
  induction bs generalizing s with
  | nil => simp [State.setHomeBytes, State.homeByte_setHomeByte, h]
  | cons e rest ih =>
    rw [List.cons_append, State.setHomeBytes]
    exact ih _ (by split <;> exact h)

/-- No peer refuses an access to local memory. -/
theorem State.refused_local (s : State) (pa : Nat) (h : pa < 2 ^ 40) : s.refused (lineOf pa) = false := by
  have h0 : paWindow (128 * lineOf pa) = 0 := by
    simp only [paWindow, lineOf]
    omega
  simp [State.refused, h0]

/-! ### Frames and pages -/

theorem State.zeroFrame_inv (s : State) (f : Nat) (h : s.Inv) : (s.zeroFrame f).Inv :=
  ⟨kvWf_filter 0 _ _ h.1, kvSorted_filter _ _ h.2.1, kvSorted_filter _ _ h.2.2⟩

theorem State.placePage_inv (s : State) (t : TierPage) (f : Nat) (h : s.Inv) : (s.placePage t f).Inv :=
  ⟨kvWf_foldl_kvPut 0 t.bytes (fun e => f + e.1) Prod.snd s.hbm h.1, h.2⟩

theorem kvFind_filter {β : Type} (m : KV β) (p : Nat → Bool) (a : Nat) :
    kvFind (m.filter fun e => p e.1) a = if p a then kvFind m a else none := by
  induction m with
  | nil => simp [kvFind]
  | cons e rest ih =>
    obtain ⟨k, v⟩ := e
    rw [List.filter_cons]
    by_cases hk : a = k <;> cases hp : p k <;> simp_all [kvFind]

/-- A frame reads as zeroes, and memory outside it reads as before. -/
theorem State.homeByte_zeroFrame (s : State) (f a : Nat) (hf : f % 65536 = 0) :
    (s.zeroFrame f).homeByte a = if inFrame f a then 0 else s.homeByte a := by
  have h := kvFind_filter s.hbm (fun k => !inFrame f k) a
  have h2 := kvFind_filter s.areaMem (fun k => !inFrame f k) a
  have h3 : inFrame f a = decide (a / 65536 = f / 65536) := by
    rw [Bool.eq_iff_iff, inFrame, frameBytes64K, Bool.and_eq_true]
    simp only [decide_eq_true_eq]
    omega
  simp only [State.homeByte, State.zeroFrame, kvGet, h, h2, kvFind_kvDel, h3]
  by_cases hq : a / 65536 = f / 65536 <;> simp [hq]

/-! ### Stores performed at home, and write-through -/

/-- What a store performs at home is its bytes, whatever follows from it elsewhere. -/
theorem sameBytes_performFor (s : State) (vfs keep : List Nat) (bs : List (Nat × Byte)) (ms : Bool) :
    SameBytes (s.setHomeBytes bs) (s.performFor vfs keep bs ms) := by
  simp only [State.performFor]
  refine ((sameBytes_spoil _ _).trans (SameBytes.foldl _ (fun t l => ?_) _ _)).trans
    (SameBytes.trans (SameBytes.foldl _ (fun t l => ?_) _ _) (sameBytes_dropOrigin _ _))
  · exact SameBytes.trans (SameBytes.foldl _ (fun u v => (SameBytes.ite _ (slicesOnly_meterLine ..).sameBytes
      (slicesOnly_markDirty ..).sameBytes).trans (sameBytes_tell ..)) vfs t) (sameBytes_dropStash ..)
  · exact SameBytes.ite _ (sameBytes_unpoison t l) (SameBytes.refl t)

theorem State.performFor_inv (s : State) (vfs keep : List Nat) (bs : List (Nat × Byte)) (ms : Bool) (h : s.Inv) :
    (s.performFor vfs keep bs ms).Inv := (sameBytes_performFor ..).inv (setHomeBytes_inv bs s h)

theorem sameBytes_writeHome (s : State) (vf : Nat) (bs : List (Nat × Byte)) : SameBytes (s.setHomeBytes bs) (s.writeHome vf bs) :=
  SameBytes.foldl _ (fun _ _ => (slicesOnly_markDirty ..).sameBytes) _ _
theorem State.writeHome_inv (s : State) (vf : Nat) (bs : List (Nat × Byte)) (h : s.Inv) : (s.writeHome vf bs).Inv :=
  (sameBytes_writeHome ..).inv (setHomeBytes_inv bs s h)

/-- What every step of a fold keeps, the fold keeps. -/
theorem foldl_inv {α : Type} (f : State → α → State) (hf : ∀ s x, s.Inv → (f s x).Inv) (l : List α) (s : State) (h : s.Inv) :
    (l.foldl f s).Inv := by
  induction l generalizing s with
  | nil => exact h
  | cons x xs ih => exact ih _ (hf s x h)
theorem ite_inv (c : Prop) [Decidable c] {s t : State} (hs : s.Inv) (ht : t.Inv) : (if c then s else t).Inv := by
  split <;> assumption

theorem State.writeRecord_inv (s : State) (cid : Nat) (h : s.Inv) : (s.writeRecord cid).Inv := by
  unfold State.writeRecord
  split
  · exact h
  · split
    · exact h
    · exact (slicesOnly_markDirty ..).sameBytes.inv ⟨kvWf_filter 0 _ _ h.1, kvSorted_kvSet _ _ _ h.2.1, kvSorted_filter _ _ h.2.2⟩

theorem State.commitWindow_inv (s : State) (cid : Nat) (h : s.Inv) : (s.commitWindow cid).Inv := by
  simp only [State.commitWindow]
  split
  · exact h
  · exact State.writeRecord_inv _ _ (SameBytes.inv (SameBytes.trans (sameBytes_commitStores ..) ⟨rfl, rfl, rfl⟩) h)

theorem State.wtPut_inv (s : State) (cl core line : Nat) (h : s.Inv) : (s.wtPut cl core line).Inv := by
  unfold State.wtPut
  dsimp only
  refine ite_inv _ h (SameBytes.inv (t := State.mk ..) ⟨rfl, rfl, rfl⟩ ?_)
  split
  · exact (sameBytes_noteOrigin ..).inv (State.performFor_inv _ _ _ _ _ h)
  · exact State.performFor_inv _ _ _ _ _ h

theorem State.forceHolders_inv (n : Nat) : ∀ (s : State) (but : List Nat) (line : Nat), s.Inv → (s.forceHolders n but line).Inv := by
  induction n with
  | zero => exact fun _ _ _ h => h
  | succ n ih =>
    intro s but line h
    refine foldl_inv _ (fun t k ht => ?_) _ s h
    split
    · exact (sameBytes_abortCrew ..).inv ht
    · split
      · exact ht
      · exact foldl_inv _ (fun u l hu => State.wtPut_inv _ _ _ _ (ih u _ l hu)) _ _ (State.commitWindow_inv _ _ ht)

theorem State.perform_inv (s : State) (vf : Nat) (bs : List (Nat × Byte)) (ms : Bool) (h : s.Inv) : (s.perform vf bs ms).Inv :=
  State.performFor_inv _ _ _ _ _ (foldl_inv _ (fun t l ht => State.forceHolders_inv _ t [] l ht) _ s h)

/-- A store whose lines no stash window holds uncommitted performs its bytes at home and forces nothing. -/
theorem sameBytes_perform (s : State) (vf : Nat) (bs : List (Nat × Byte)) (ms : Bool)
    (h : ∀ e ∈ bs, s.stashHolders [] (lineOf e.1) = []) : SameBytes (s.setHomeBytes bs) (s.perform vf bs ms) := by
  have hf : ∀ ls : List Nat, (∀ l ∈ ls, s.stashHolders [] l = []) →
      ls.foldl (fun s l => s.forceHolders s.chain [] l) s = s := by
    intro ls
    induction ls with
    | nil => exact fun _ => rfl
    | cons l ls ih =>
      intro hl
      have h0 := hl l (by simp)
      have h1 : s.forceHolders s.chain [] l = s := by simp [State.chain, State.forceHolders, h0]
      rw [List.foldl_cons, h1]
      exact ih (fun x hx => hl x (by simp [hx]))
  rw [State.perform, hf]
  · exact sameBytes_performFor ..
  · intro l hl
    obtain ⟨e, he, rfl⟩ := List.mem_map.mp (List.mem_eraseDups.mp hl)
    exact h e he

theorem State.wtLines_inv (s : State) (cl core : Nat) (ls : List Nat) (h : s.Inv) : (s.wtLines cl core ls).Inv :=
  foldl_inv _ (fun _ _ ht => State.wtPut_inv _ _ _ _ (State.forceHolders_inv _ _ _ _ ht)) _ s h

theorem State.wtCrew_inv (s : State) (cid : Nat) (h : s.Inv) : (s.wtCrew cid).Inv := by
  simp only [State.wtCrew]
  split
  · exact s.wtLines_inv _ _ _ h
  · exact h

theorem State.wtCoreAt_inv (s : State) (cl core : Nat) (h : s.Inv) : (s.wtCoreAt cl core).Inv := s.wtLines_inv _ _ _ h

theorem State.commitNow_inv (s : State) (cid : Nat) (h : s.Inv) : (s.commitNow cid).Inv :=
  State.commitWindow_inv _ _ (s.wtCrew_inv cid h)

/-! ### A crew's block, and the tables -/

theorem State.blockFill_inv (s t : State) (c : Crew) (ofs n : Nat) (bytes : KV Byte) (h : s.Inv)
    (ht : s.blockFill c ofs n bytes = some t) : t.Inv := by
  unfold State.blockFill at ht
  refine (?_ : ∀ (l : List Nat) (o : Option State), (∀ u, o = some u → u.Inv) → ∀ t, l.foldl _ o = some t → t.Inv) _ _
    (fun u hu => by injection hu with hu; exact hu ▸ h) t ht
  intro l
  induction l with
  | nil => exact fun _ ho t ht => ho t ht
  | cons p l ih =>
    intro o ho t ht
    refine ih _ (fun u hu => ?_) t ht
    obtain ⟨v, hv, hu⟩ := Option.bind_eq_some_iff.mp hu
    obtain ⟨pa, -, rfl⟩ := Option.map_eq_some_iff.mp hu
    have hk := ho v hv
    exact State.writeHome_inv _ _ _ ⟨hk.1, kvSorted_filter _ _ hk.2.1, kvSorted_filter _ _ hk.2.2⟩

theorem State.putPte_inv (s : State) (vf pa v : Nat) (h : s.Inv) : (s.putPte vf pa v).Inv := by
  unfold State.putPte
  generalize numBytes pa 8 v = bs
  exact SameBytes.inv ⟨rfl, rfl, rfl⟩ (State.writeHome_inv s vf bs h)
theorem State.setAD_inv (s : State) (vf pte : Nat) (w : Bool) (h : s.Inv) : (s.setAD vf pte w).Inv :=
  ite_inv _ h (State.writeHome_inv s vf _ h)

end Sys2Proof.Machine
end

