-- ==== Sys2Proof/Tests/Encoding.lean ====
section
/-! SUPPORT. Decoding of words written out from the spec's encodings (R77, R82, R83 and each instruction's own rule), one or
more for every constructor that has a word, and the refusals of R84 with the words of the spec's own tables. -/

namespace Sys2Proof.Tests

/-- Words of a class of clause, and what each decodes to. -/
def decodeAll (l : List (Eng × Word × Instr)) : Bool := l.all fun e => decide (decode e.1 e.2.1 = .ok e.2.2)

theorem test_decode_control : decodeAll [
    (.team, 0x0000000000000000, .nop),
    (.team, 0x01000003FFFA0000, .bra (-3)),
    (.team, 0x02010068002E0000, .brc .nz 26 23 0),
    (.team, 0x020300140012000B, .brc .any 5 9 11),
    (.team, 0x03050008000FFFFA, .brv 2 7 (-6)),
    (.copy, 0x04000001FFFE0000, .call 65535),
    (.team, 0x0500000000000000, .ret),
    (.matrix, 0x0600000000000000, .exit),
    (.team, 0x0700000000000000, .yield),
    (.team, 0x080100FBFF380004, .loop 62 (-100) 4),
    (.team, 0x09000000F8000000, .brx 62),
    (.team, 0x0A00000001FFFFFF, .trap 0x1ffffff),
    (.supervisor, 0x0B00000000000000, .tretRetry),
    (.supervisor, 0x0B00040000000000, .tretSkip),
    (.team, 0x0C00000000000005, .bkpt 5),
    (.supervisor, 0x0D00000000000000, .halt)] = true := by decide +kernel

theorem test_decode_uniform : decodeAll [
    (.team, 0x10000004FC000000, .smov 1 63),
    (.team, 0x1100006000000001, .smovi 24 1),
    (.team, 0x12000060DEADBEEF, .smovh 24 0xDEADBEEF),
    (.team, 0x13058004080C0000, .sadd true true 1 2 3),
    (.team, 0x1400001014180000, .ssub false false 4 5 6),
    (.team, 0x1505001C20240000, .smul true false 7 8 9),
    (.team, 0x160500282C300000, .smulh true 10 11 12),
    (.team, 0x17000004080C0000, .sand 1 2 3),
    (.team, 0x18000004080C0000, .sor 1 2 3),
    (.team, 0x19000004080C0000, .sxor 1 2 3),
    (.team, 0x1A0000ACA4B00000, .sshl 43 41 44),
    (.team, 0x1B000004080C0000, .sshr 1 2 3),
    (.team, 0x1C000004080C0000, .ssar 1 2 3),
    (.team, 0x1D050004080C0000, .smin true 1 2 3),
    (.team, 0x1E000004080C0000, .smax false 1 2 3),
    (.team, 0x1F05006844600000, .scmp true .eq 26 17 24),
    (.team, 0x20000004080C1000, .ssel 1 2 3 4),
    (.team, 0x210000A8A4000001, .saddi false false 42 41 1),
    (.team, 0x22F528240C13FFF8, .sld 15 .i64 .clus .acq 9 3 4 (-8)),
    (.team, 0x230000500CFC0000, .sst .b32 .core .rlx 20 3 63 0),
    (.team, 0x2400000408000000, .sclz 1 2),
    (.team, 0x2500000408000000, .spopc 1 2),
    (.team, 0x26000004080C1000, .sbfe 1 2 3 4),
    (.team, 0x27000007FC0C0000, .slane 1 255 3)] = true := by decide +kernel

theorem test_decode_masks : decodeAll [
    (.team, 0x3000000CFC640000, .mset 3 63 25),
    (.team, 0x31000C04080C0000, .mlog .andn 1 2 3),
    (.team, 0x3200000408000000, .mnot 1 2),
    (.team, 0x3302400400040000, .mcmp .n32 .lt 1 0 1),
    (.team, 0x3407E004080C0000, .mfcmp .f16 .ord 1 2 3),
    (.team, 0x3500032004000000, .msave 200 1),
    (.team, 0x3600000720000000, .mrest 1 200),
    (.team, 0x370000A004000000, .mpopc 40 1),
    (.team, 0x3800000408000000, .melect 1 2),
    (.team, 0x390000A008A40000, .mtest 40 2 41),
    (.team, 0x3A00000004000000, .exmw 1),
    (.team, 0x3B00000800000000, .exmr 2)] = true := by decide +kernel

theorem test_decode_vector_integer : decodeAll [
    (.team, 0x4000000408000000, .vmov 1 2),
    (.team, 0x410003FC80000001, .vmovi 255 0x80000001),
    (.team, 0x4203801808100000, .vadd .i16 true 6 2 4),
    (.team, 0x43010004080C0000, .vsub .i32 false 1 2 3),
    (.team, 0x44020004080C0000, .vmul .n32 false 1 2 3),
    (.team, 0x45040004080C0000, .vmulh .n16 1 2 3),
    (.team, 0x46038004080C1000, .vmad .i16 true 1 2 3 4),
    (.team, 0x47000004080C0000, .vand 1 2 3),
    (.team, 0x48000004080C0000, .vor 1 2 3),
    (.team, 0x49000004080C0000, .vxor 1 2 3),
    (.team, 0x4A00000408000000, .vnot 1 2),
    (.team, 0x4B000004080C0000, .vshl 1 2 3),
    (.team, 0x4C000004080C0000, .vshr 1 2 3),
    (.team, 0x4D000004080C0000, .vsar 1 2 3),
    (.team, 0x4E010004080C0000, .vmin .i32 1 2 3),
    (.team, 0x4F020004080C0000, .vmax .n32 1 2 3),
    (.team, 0x5001800408000000, .vabs .i32 true 1 2),
    (.team, 0x5103000408000000, .vneg .i16 false 1 2),
    (.team, 0x52000004080C3C00, .vsel 1 2 3 15),
    (.team, 0x5300000408000000, .vclz 1 2),
    (.team, 0x5400000408000000, .vpopc 1 2),
    (.team, 0x55000004080C1000, .vbfe 1 2 3 4),
    (.team, 0x56000004080C1000, .vbfi 1 2 3 4),
    (.team, 0x5704000408000000, .vsat .n16 1 2),
    (.team, 0x580200040BFFFFF9, .vaddi .n32 false 1 2 (-7)),
    (.team, 0x5900000408000000, .vlane 1 2),
    (.team, 0x5A00000400000000, .vfroms 1 0)] = true := by decide +kernel

theorem test_decode_vector_float : decodeAll [
    (.team, 0x60062004080C0000, .vfadd .f32 .rz 1 2 3),
    (.team, 0x61074004080C0000, .vfsub .f16 .ru 1 2 3),
    (.team, 0x62086004080C0000, .vfmul .bf16 .rd 1 2 3),
    (.team, 0x63060004080C1000, .vfma .f32 .rn 1 2 3 4),
    (.team, 0x64060004080C0000, .vfmin .f32 1 2 3),
    (.team, 0x65060004080C0000, .vfmax .f32 1 2 3),
    (.team, 0x6636000408000000, .vfrcp 3 .rn 1 2),
    (.team, 0x6706000408000000, .vfrsq 0 .rn 1 2),
    (.team, 0x6816000408000000, .vfexp2 1 .rn 1 2),
    (.team, 0x6906200408000000, .vflog2 0 .rz 1 2),
    (.team, 0x6A07000408000000, .vfabs .f16 1 2),
    (.team, 0x6B08000408000000, .vfneg .bf16 1 2),
    (.team, 0x6C0900241C000006, .vcvt .mk8 .f32 false .rn 9 7),
    (.team, 0x6D070004080C0000, .vpack .f16 false .rn 1 2 3),
    (.team, 0x6E0B040408000000, .vunpk .sm4 true 1 2),
    (.team, 0x70000C04080C0000, .vshuf .down 1 2 3),
    (.team, 0x71000004080C0000, .vbcast 1 2 3),
    (.team, 0x7226085018000000, .vred 2 .f32 false .rn .max 20 6),
    (.team, 0x7201005010000000, .vred 0 .i32 false .rn .add 20 4),
    (.team, 0x7341800408000001, .vscan 4 .i32 true .rn .add true 1 2)] = true := by decide +kernel

theorem test_decode_memory : decodeAll [
    (.team, 0x7810040804000000, .vld 1 .b32 .core .rlx true 2 1 (some 0) 0),
    (.team, 0x7800041008000000, .vld 0 .b32 .core .rlx true 4 2 (some 0) 0),
    (.team, 0x790390100803FFFE, .vst .i16 .sys .rel false 4 2 none (-2)),
    (.team, 0x7A0A00141803FFFC, .vldx 0 .sm8 .core .rlx 5 6 (-4)),
    (.team, 0x7B07001418000040, .vstx .f16 .core .rlx 5 6 64),
    (.team, 0x7C290014181C0000, .vlds 2 .mk8 false 5 6 (some 7) 0),
    (.team, 0x7D00041850000000, .vsts .b32 true 6 20 (some 0) 0),
    (.team, 0x7E000400181C0080, .vpref true 6 (some 7) 128),
    (.team, 0x7F00000018FC0008, .spwait 6 63 8)] = true := by decide +kernel

theorem test_decode_atomics : decodeAll [
    (.team, 0x8001641808200040, .atom 0 .i32 .dev .rlx .pair .add 6 2 8 64),
    (.team, 0x8001641808208040, .atom 0 .i32 .dev .rlx .pair .max 6 2 8 64),
    (.team, 0x8100781810203FFF, .atomc 0 .dev .ar .uniform 6 4 8 (-1)),
    (.team, 0x8201600010180000, .red .i32 .dev .rlx .uniform .add 4 6 0),
    (.team, 0x8310601810218008, .satom 1 false .dev .rlx .exch 6 4 8 8),
    (.team, 0x8400001810200080, .stashMap 6 4 8 128),
    (.team, 0x8400041810200000, .stashFlush 6 4 8 0),
    (.team, 0x8400081810200000, .stashUnmap 6 4 8 0)] = true := by decide +kernel

theorem test_decode_synchronisation : decodeAll [
    (.team, 0x9000780000000000, .fence .dev .ar),
    (.copy, 0x9100900000000005, .fencex .sys .rel 5),
    (.team, 0x920000FC00000000, .bara 63),
    (.matrix, 0x9300000400000000, .barw 1),
    (.team, 0x9400000800000000, .baraw 2),
    (.team, 0x9500000860000000, .bari 2 24),
    (.copy, 0x9600100014FC0000, .wbara .core 5 63 0),
    (.team, 0x97000C7814FC0000, .wbarw .core true 30 5 63 0),
    (.team, 0x9800007814FC0010, .wbari .core 30 5 63 16),
    (.team, 0x9900000000000000, .ckpt),
    (.team, 0xA00000000C100000, .clm false 3 (some 4) 0),
    (.team, 0xA100000000000000, .clmseal),
    (.team, 0xA200000000000000, .clmdone),
    (.team, 0xA310005000000000, .clmq 1 20)] = true := by decide +kernel

theorem test_decode_labels : decodeAll [
    (.team, 0xA800005018000000, .lget 20 6),
    (.team, 0xA9000050181FFF80, .lraise 20 6 7 (-128)),
    (.team, 0xAA00002018000007, .decl 8 6 7 0),
    (.team, 0xAB00000000010007, .endorse 7 1),
    (.team, 0xAC000050181C0000, .lchk 20 6 7),
    (.team, 0xAD0001901C00009C, .lspan 100 156 7),
    (.team, 0xB000000000001020, .scopeo 32 8),
    (.team, 0xB100000000000000, .scopec),
    (.team, 0xB200000000002000, .rgrow 8192),
    (.team, 0xB300000000000001, .rshrink 1)] = true := by decide +kernel

theorem test_decode_engines : decodeAll [
    (.team, 0xB800000030FC3800, .fork 12 63 14),
    (.matrix, 0xB900000000000000, .rdv),
    (.copy, 0xBA00002060240000, .tcopy 8 24 9),
    (.team, 0xBB00002060240001, .xfer true 8 24 9),
    (.matrix, 0xBC0A000878700000, .mma .sm8 false 0 2 30 28),
    (.matrix, 0xBC080098889C0001, .mma .bf16 false 1 38 34 39),
    (.matrix, 0xBC0B0498F09C0007, .mma .sm4 true 7 38 60 39),
    (.matrix, 0xBD00000400000000, .mzero 1),
    (.team, 0xBE26002C00880000, .mdrain 2 .f32 .rn 11 0 34),
    (.team, 0xBF06000424880000, .mfill .f32 1 9 34),
    (.team, 0xC300000424000000, .mrsclVector 1 9),
    (.matrix, 0xC300000060000000, .mrsclUniform 0 24),
    (.team, 0xC000005020000000, .shape 20 8),
    (.team, 0xC100000060000000, .cast 24),
    (.copy, 0xC200000018600010, .qput 6 24 16)] = true := by decide +kernel

theorem test_decode_system : decodeAll [
    (.team, 0xD000005000000000, .sysr 20 0),
    (.supervisor, 0xD100000060000010, .sysw 0x010 24),
    (.team, 0xD200000060000000, .pkeyw 24),
    (.supervisor, 0xD300000060000000, .tlbinvPage 24),
    (.supervisor, 0xD300040060000000, .tlbinvCtx 24),
    (.supervisor, 0xD3000800FC000000, .tlbinvAll 63),
    (.supervisor, 0xD400000060640000, .frinv 24 25),
    (.team, 0xD50000A000000000, .faultr .code 40),
    (.team, 0xD500180C00000000, .faultr .mask 3),
    (.supervisor, 0xD6000000A0000000, .pgmap 40)] = true := by decide +kernel

/-- Words that the tables after R84, R145, R164, R303 and R359 refuse, with their causes. -/
theorem test_decode_refused : ([
    (.team, 0x4203801808100001, .badField),
    (.team, 0x4223801808100000, .badLookahead),
    (.team, 0x420C801808100000, .badType),
    (.team, 0xBC00000000000000, .wrongClass),
    (.team, 0xF000000000000000, .headerKey),
    (.team, 0x72261C5018000000, .badModifier),
    (.team, 0x7206885018000000, .badModifier),
    (.team, 0x6C0900241C00000C, .badType),
    (.team, 0x6C0920241C000006, .badModifier),
    (.team, 0x631600241C000000, .badLookahead),
    (.team, 0x7D000C1850000000, .badModifier),
    (.team, 0x7D00041850020000, .badModifier),
    (.team, 0x9700107814FC0000, .badModifier),
    (.team, 0xBA00002060240001, .badField),
    (.team, 0xBA10002060240000, .badLookahead),
    (.team, 0xBD00000400000000, .wrongClass),
    (.team, 0xBF16000424880000, .badLookahead),
    (.team, 0xBC0A000878700000, .wrongClass),
    (.team, 0xD000005000000007, .badField),
    (.supervisor, 0xD100000060000000, .badField),
    (.supervisor, 0xD3000C0060000000, .badModifier)] : List (Eng × Word × Illegal)).all (fun e => decide (decode e.1 e.2.1 = .error e.2.2)) = true := by
  decide +kernel

end Sys2Proof.Tests
end

