-- ==== Sys2Proof/Tests/Machine.lean ====
section
/-! SUPPORT. A small machine for the tests: one crew of one team of four lanes on core 0 of cluster 0, page tables in memory,
and ways to look at one step. -/

namespace Sys2Proof.Tests
open Sys2Proof.Machine

/-- Memory with doublewords at some addresses, the rest unlisted. -/
def mem64 (ws : List (Nat × Nat)) : KV Byte :=
  (ws.flatMap (fun e => numBytes e.1 8 e.2)).foldl (fun m e => kvPut 0 m e.1 e.2) []

/-- Tables at 0x10000, 0x20000 and 0x30000 map each page of the first 512 MiB that is named, with its flags: W is 4, X 8, MS 16
(R318, R319). -/
def tables (pages : List (Nat × Nat × Nat)) : List (Nat × Nat) :=
  [(0x10000, 0x20001), (0x20000, 0x30001)] ++ pages.map (fun e => (0x30000 + 8 * e.1, e.2.1 + e.2.2 + 1))

/-- Data at 0x100000, code at 0x110000, an MS page at 0x120000, a read-only page at 0x130000, the context area's block at
0x400000 with its team page and the first page of its tile log, and the handlers at 0x500000. -/
def pagesHere : List (Nat × Nat × Nat) :=
  [(0x10, 0x200000, 4), (0x11, 0x210000, 8), (0x12, 0x220000, 20), (0x13, 0x230000, 0), (0x40, 0x240000, 4),
   (0x41, 0x250000, 4), (0x45, 0x270000, 4), (0x50, 0x260000, 8)]

def thread0 : Thread := { pc := 0x110000, clause := [0, 0], exm := 0xF, f := 0xF }
def word4 (a b c d : Lane) (l : Lbl := 0) : RegWord := { lanes := [a, b, c, d] ++ List.replicate 28 0, lab := l }
/-- s1 = 7, s2 = 5, s3 = all ones, s4 = the data page, s5 = 2, s6 = 1 with label 1; v1 and v2 hold four lanes each. -/
def team0 : Team :=
  { lanes := 4, live := 0xF, frags := [(0, thread0)], scopes := [(0, 32)]
    s := [(1, { val := 7 }), (2, { val := 5 }), (3, { val := 0xFFFFFFFFFFFFFFFF }), (4, { val := 0x100000 }), (5, { val := 2 }),
      (6, { val := 1, lab := 1 })]
    m := [(1, { bits := 0x5 }), (2, { bits := 0x6 })]
    v := [(32, word4 1 2 3 4), (64, word4 10 20 30 0xFFFFFFFF)] }
def crew0 : Crew := { vf := 0, key := 0, index := 0, body := { teams := [(0, team0)], pad := { size := 1024 } } }
def ctx0 : Context := { labels := [0, 1, 2, 3], ptb := 0x10000, carea := 0x400001, tvec := 0x500000, spva := 0x700000 }
def me0 : Agent := .frag 1 0 0
def small : State :=
  { cur := some me0, hbm := mem64 (tables pagesHere), ctxs := [(0, ctx0)], crews := [(1, crew0)], nextCid := 2
    cyc := 100 }

/-- The small machine with another thread, team, crew or context. -/
def withThread (f : Thread → Thread) : State := small.modThread me0 f
def withTeam (f : Team → Team) : State := small.modTeam 1 0 f
def withCrew (f : Crew → Crew) : State := small.modCrew 1 f

/-- A step goes on to a state that passes a test. -/
def goesTo (o : Host.Outcome State Fault Refusal) (p : State → Bool) : Bool := match o with | .next t => p t | _ => false
def isNext (o : Host.Outcome State Fault Refusal) (t : State) : Bool := goesTo o (fun u => decide (u = t))
/-- A step leaves a value in a uniform register of the fragment. -/
def leavesS (o : Host.Outcome State Fault Refusal) (n : Nat) (v : Word) : Bool := goesTo o (fun u => (u.readS me0 n).val == v)
/-- A step leaves lanes in a vector register of the team, in its first group. -/
def leavesV (o : Host.Outcome State Fault Refusal) (n : Nat) (xs : List Lane) : Bool :=
  goesTo o (fun u => (u.team? 1 0).any (fun t => (List.range xs.length).map (t.lane n) == xs))
/-- A step takes an exception: the team's frame names its code and sub-code, and the thread stands at its vector. -/
def traps (o : Host.Outcome State Fault Refusal) (code sub : Nat) : Bool :=
  goesTo o (fun u => (u.team? 1 0).any (fun t => t.frame.any (fun f => f.code == code && f.sub == sub)) &&
    (u.thread? me0).any (fun th => th.pc == 0x500000 + 64 * code && th.handler))

end Sys2Proof.Tests
end

