-- ==== Sys2Proof/Tests/Slice0.lean ====
section
/-! SUPPORT. Tests of single steps, with results worked out from the spec's tables and examples, and the smoke test of
well-formedness. -/

namespace Sys2Proof.Tests
open Sys2Proof.Machine
set_option Elab.async false

/-! ### Well-formedness -/

/-- One ill-formed term for each check that WellFormed makes. -/
theorem test_wf_control_uniform : ([
    .brc .nz 64 0 0, .brc .any 16 0 0, .brv 1 5 0, .brv 16 5 1, .loop 63 0 0, .brx 64, .smov 64 0, .smov 0 64, .smovi 64 0,
    .sadd false true 1 2 3, .sadd true true 1 2 64, .smulh true 64 1 2, .sand 1 64 2, .scmp true .un 1 2 3, .scmp true .ord 1 2 3,
    .ssel 1 2 3 64, .sbfe 1 2 64 3, .saddi false true 1 2 3, .sld 16 .b32 .core .rlx 1 2 63 0, .sld 0 .f32 .core .rlx 1 2 63 0,
    .sld 0 .b32 .core .rel 1 2 63 0, .sst .i32 .core .rlx 1 2 63 0, .sst .b32 .core .acq 1 2 63 0, .slane 1 256 2,
    .mset 16 1 2, .mlog .and 1 2 16, .mnot 1 16, .mcmp .b32 .lt 1 2 3, .mcmp .f32 .eq 1 2 3, .mcmp .i32 .un 1 2 3,
    .mfcmp .i32 .eq 1 2 3, .msave 256 1, .mrest 1 256, .mpopc 64 1, .mtest 1 16 2, .exmw 16, .exmr 16] : List Instr).all
    (fun i => !wf i) = true := by decide +kernel
theorem test_wf_vector : ([
    .vmov 256 0, .vmovi 256 0, .vadd .f32 false 1 2 3, .vmulh .b32 1 2 3, .vmad .i64 false 1 2 3 4, .vand 1 2 256, .vabs .n32 false 1 2,
    .vsel 1 2 3 16, .vbfe 1 2 3 256, .vsat .i32 1 2, .vaddi .b32 false 1 2 0, .vlane 1 64, .vfadd .i32 .rn 1 2 3,
    .vfma .f32 .rn 1 2 3 256, .vfmin .mk8 1 2 3, .vfrcp 16 .rn 1 2, .vfabs .i16 1 2, .vcvt .b32 .f32 false .rn 1 2,
    .vcvt .mk8 .f32 false .rz 1 2, .vcvt .f32 .i32 true .rn 1 2, .vcvt .i32 .i16 false .ru 1 2, .vpack .f32 false .rn 1 2 3,
    .vunpk .i32 false 1 2, .vshuf .idx 1 2 256, .vbcast 1 2 64, .vred 0 .f32 true .rn .add 1 2, .vred 0 .f32 false .rn .and 1 2,
    .vred 0 .i32 false .rz .add 1 2, .vred 0 .i32 false .rn .exch 1 2, .vscan 0 .i32 true .rn .min false 1 2] : List Instr).all
    (fun i => !wf i) = true := by decide +kernel
theorem test_wf_memory_sync : ([
    .vld 0 .b32 .core .rlx true 1 2 none 0, .vld 0 .mk8 .core .rlx true 1 2 (some 3) 0, .vld 0 .b32 .core .ar false 1 2 none 0,
    .vst .n16 .core .rlx false 1 2 none 0, .vldx 0 .b32 .core .rlx 1 3 0, .vstx .b32 .core .rlx 1 3 0, .vlds 16 .b32 false 1 2 none 0,
    .vsts .sm8 false 1 2 none 0, .vpref true 1 none 0, .spwait 64 63 0, .atom 0 .b32 .dev .rlx .uniform .add 1 2 3 0,
    .atom 0 .i32 .dev .rlx .pair .add 1 3 3 0, .atom 0 .i32 .dev .rlx .uniform .exch 1 2 3 0, .atomc 0 .dev .rlx .pair 1 5 3 0,
    .red .b32 .dev .rlx .uniform .exch 1 2 0, .red .i32 .dev .acq .uniform .add 1 2 0, .satom 0 true .dev .rlx .xor 1 2 3 0,
    .stashMap 64 1 2 0, .fence .dev .rlx, .fencex .dev .ar 0, .fencex .dev .rlx 1, .bara 64, .bari 1 64, .wbara .core 64 63 0,
    .wbarw .core true 64 1 63 0, .clm true 1 none 0, .clmq 16 1, .lget 1 256, .lraise 1 64 2 0, .decl 256 0 0 0, .endorse 1 0,
    .lchk 1 2 64, .lspan 200 57 1, .lspan 3 0 1, .scopeo 0 1, .scopeo 256 1, .rgrow 0, .rshrink 8193, .fork 64 1 2, .tcopy 1 61 2,
    .xfer true 64 1 2, .mma .f32 false 0 1 2 3, .mma .mk8 true 0 1 2 3, .mma .sm8 true 8 1 2 3, .mzero 8, .mdrain 0 .i32 .rn 1 0 2,
    .mfill .f32 8 1 2, .mrsclVector 8 1, .mrsclUniform 0 64, .shape 64 1, .cast 64, .qput 64 1 0, .sysr 1 0x007, .sysw 0x000 1,
    .sysw 0x007 1, .pkeyw 64, .frinv 1 64, .faultr .addr 3, .faultr .mask 16, .faultr .code 64, .pgmap 64] : List Instr).all
    (fun i => !wf i) = true := by decide +kernel

/-! ### Uniform instructions (R101 to R103) -/

theorem test_smov : leavesS (exec (.smov 7 1) small) 7 7 = true := by decide +kernel
theorem test_smovi : leavesS (exec (.smovi 7 0xFFFFFFFF) small) 7 0xFFFFFFFFFFFFFFFF = true := by decide +kernel
theorem test_smovh : leavesS (exec (.smovh 4 0x12345678) small) 4 0x1234567800100000 = true := by decide +kernel
theorem test_sadd : leavesS (exec (.sadd false false 7 3 1) small) 7 6 = true ∧
    leavesS (exec (.sadd true true 7 8 1) (small.writeS me0 8 { val := 0x7FFFFFFFFFFFFFFE })) 7 0x7FFFFFFFFFFFFFFF = true := by
  decide +kernel
theorem test_ssub : leavesS (exec (.ssub false false 7 2 1) small) 7 0xFFFFFFFFFFFFFFFE = true := by decide +kernel
theorem test_smul : leavesS (exec (.smul true false 7 3 1) small) 7 0xFFFFFFFFFFFFFFF9 = true := by decide +kernel
theorem test_smulh : leavesS (exec (.smulh false 7 3 1) small) 7 6 = true ∧
    leavesS (exec (.smulh true 7 3 1) small) 7 0xFFFFFFFFFFFFFFFF = true := by decide +kernel
theorem test_slogic : leavesS (exec (.sand 7 1 2) small) 7 5 = true ∧ leavesS (exec (.sor 7 1 5) small) 7 7 = true ∧
    leavesS (exec (.sxor 7 1 2) small) 7 2 = true := by decide +kernel
theorem test_sshifts : leavesS (exec (.sshl 7 1 5) small) 7 28 = true ∧ leavesS (exec (.sshr 7 3 4) small) 7 0 = true ∧
    leavesS (exec (.ssar 7 3 4) small) 7 0xFFFFFFFFFFFFFFFF = true := by decide +kernel
theorem test_sminmax : leavesS (exec (.smin true 7 3 1) small) 7 0xFFFFFFFFFFFFFFFF = true ∧
    leavesS (exec (.smax true 7 3 1) small) 7 7 = true ∧ leavesS (exec (.smin false 7 3 1) small) 7 7 = true := by decide +kernel
theorem test_scmp : leavesS (exec (.scmp true .lt 7 3 1) small) 7 1 = true ∧
    leavesS (exec (.scmp false .lt 7 3 1) small) 7 0 = true := by decide +kernel
theorem test_ssel : leavesS (exec (.ssel 7 1 2 3) small) 7 5 = true ∧
    leavesS (exec (.ssel 7 63 2 3) small) 7 0xFFFFFFFFFFFFFFFF = true := by decide +kernel
theorem test_saddi : leavesS (exec (.saddi false false 7 1 (-8)) small) 7 0xFFFFFFFFFFFFFFFF = true := by decide +kernel
theorem test_sclz_spopc : leavesS (exec (.sclz 7 63) small) 7 64 = true ∧ leavesS (exec (.sclz 7 1) small) 7 61 = true ∧
    leavesS (exec (.spopc 7 3) small) 7 64 = true := by decide +kernel
theorem test_sbfe : leavesS (exec (.sbfe 7 3 1 2) small) 7 0x1F = true ∧ leavesS (exec (.sbfe 7 3 4 2) small) 7 0 = true ∧
    leavesS (exec (.sbfe 7 3 2 4) small) 7 0x07FFFFFFFFFFFFFF = true := by decide +kernel
theorem test_slane : leavesS (exec (.slane 7 2 5) small) 7 30 = true ∧ leavesS (exec (.slane 7 2 1) small) 7 0 = true := by
  decide +kernel
/-- R48, R102: a result takes the join of its sources' labels, and SMOVH keeps the old label in it. -/
theorem test_uniform_labels :
    goesTo (exec (.sadd false false 7 1 6) small) (fun u => (u.readS me0 7).lab == 1) = true ∧
    goesTo (exec (.smovi 6 0) small) (fun u => (u.readS me0 6).lab == 0) = true ∧
    goesTo (exec (.smovh 6 0) small) (fun u => (u.readS me0 6).lab == 1) = true := by decide +kernel
/-- R32: s63 reads as zero and discards writes. -/
theorem test_sz : leavesS (exec (.smovi 63 5) small) 63 0 = true := by decide +kernel

/-! ### Masks (R112, R113) -/

/-- A step leaves bits in a mask register, or in exm under 0. -/
def leavesM (o : Host.Outcome State Fault Refusal) (n : Nat) (m : Mask) : Bool :=
  goesTo o (fun u => (u.team? 1 0).any (fun t => (u.thread? me0).any (fun th => maskVal t th n == m)))

theorem test_mset : leavesM (exec (.mset 3 6 2) small) 3 0xE = true ∧ leavesM (exec (.mset 3 2 6) small) 3 0 = true := by
  decide +kernel
theorem test_mlog : leavesM (exec (.mlog .and 3 1 2) small) 3 0x4 = true ∧ leavesM (exec (.mlog .or 3 1 2) small) 3 0x7 = true ∧
    leavesM (exec (.mlog .xor 3 1 2) small) 3 0x3 = true ∧ leavesM (exec (.mlog .andn 3 1 2) small) 3 0x1 = true := by
  decide +kernel
/-- Bits change only for the lanes of exm. -/
theorem test_mnot : leavesM (exec (.mnot 1 1) (withThread (fun th => { th with exm := 0x3 }))) 1 0x6 = true := by decide +kernel
theorem test_mcmp : leavesM (exec (.mcmp .i32 .lt 3 2 1) small) 3 0x8 = true ∧
    leavesM (exec (.mcmp .n32 .lt 3 2 1) small) 3 0 = true ∧ leavesM (exec (.mcmp .i16 .ge 3 2 1) small) 3 0x7 = true := by
  decide +kernel
/-- -0 equals +0, and a NaN is unordered with everything. -/
theorem test_mfcmp : leavesM (exec (.mfcmp .f32 .eq 3 3 4) (withTeam (fun t => { t with
      v := [(96, word4 0 0x7FC00000 0x3F800000 0), (128, word4 0x80000000 0 0x40000000 0)] }))) 3 0x9 = true ∧
    leavesM (exec (.mfcmp .f32 .un 3 3 4) (withTeam (fun t => { t with
      v := [(96, word4 0 0x7FC00000 0x3F800000 0), (128, word4 0x80000000 0 0x40000000 0)] }))) 3 0x2 = true := by decide +kernel
theorem test_msave_mrest : leavesV (exec (.msave 5 1) small) 5 [5, 5, 5, 5] = true ∧
    leavesM (exec (.mrest 3 2) small) 3 0xA = true := by decide +kernel
theorem test_mpopc_mtest : leavesS (exec (.mpopc 7 2) small) 7 2 = true ∧ leavesS (exec (.mtest 7 1 5) small) 7 1 = true ∧
    leavesS (exec (.mtest 7 1 6) small) 7 0 = true := by decide +kernel
theorem test_melect : leavesM (exec (.melect 3 2) small) 3 0x2 = true := by decide +kernel
theorem test_exmw : leavesM (exec (.exmw 1) small) 0 0x5 = true ∧
    traps (exec (.exmw 1) (withTeam (fun t => { t with m := [(1, { bits := 5, lab := 1 })] }))) 0x0D 0 = true := by decide +kernel
theorem test_exmr : leavesM (exec (.exmr 3) (withThread (fun th => { th with exm := 0x3 }))) 3 0x3 = true := by decide +kernel

/-! ### Vector integer instructions (R128 to R130) -/

/-- The small machine with v3 and v4 holding other lanes. -/
def lanes34 (x y : RegWord) : State := withTeam (fun t => { t with v := [(96, x), (128, y)] })

theorem test_vmov_vmovi : leavesV (exec (.vmov 5 2) small) 5 [10, 20, 30, 0xFFFFFFFF] = true ∧
    leavesV (exec (.vmovi 5 0x80000001) small) 5 [0x80000001, 0x80000001] = true := by decide +kernel
theorem test_vadd : leavesV (exec (.vadd .n32 true 5 1 2) small) 5 [11, 22, 33, 0xFFFFFFFF] = true ∧
    leavesV (exec (.vadd .i32 false 5 1 2) small) 5 [11, 22, 33, 3] = true := by decide +kernel
theorem test_vsub : leavesV (exec (.vsub .n16 false 5 1 2) small) 5 [0xFFF7, 0xFFEE, 0xFFE5, 5] = true := by decide +kernel
theorem test_vmul : leavesV (exec (.vmul .i16 true 5 3 4) (lanes34 (word4 300 0 0 0) (word4 0xFFFFFED4 0 0 0))) 5 [0xFFFF8000, 0] =
    true := by decide +kernel
theorem test_vmulh : leavesV (exec (.vmulh .i32 5 2 1) small) 5 [0, 0, 0, 0xFFFFFFFF] = true ∧
    leavesV (exec (.vmulh .n32 5 2 1) small) 5 [0, 0, 0, 3] = true := by decide +kernel
theorem test_vmad : leavesV (exec (.vmad .n32 true 5 2 1 1) small) 5 [11, 42, 93, 0xFFFFFFFF] = true := by decide +kernel
theorem test_vlogic : leavesV (exec (.vand 5 1 2) small) 5 [0, 0, 2, 4] = true ∧ leavesV (exec (.vor 5 1 2) small) 5 [11, 22, 31] =
    true ∧ leavesV (exec (.vxor 5 1 2) small) 5 [11, 22, 29, 0xFFFFFFFB] = true ∧
    leavesV (exec (.vnot 5 2) small) 5 [0xFFFFFFF5, 0xFFFFFFEB, 0xFFFFFFE1, 0] = true := by decide +kernel
theorem test_vshifts : leavesV (exec (.vshl 5 2 1) small) 5 [20, 80, 240, 0xFFFFFFF0] = true ∧
    leavesV (exec (.vshr 5 2 2) small) 5 [0, 0, 0, 0] = true ∧
    leavesV (exec (.vsar 5 2 2) small) 5 [0, 0, 0, 0xFFFFFFFF] = true := by decide +kernel
theorem test_vminmax : leavesV (exec (.vmin .i32 5 1 2) small) 5 [1, 2, 3, 0xFFFFFFFF] = true ∧
    leavesV (exec (.vmax .n32 5 1 2) small) 5 [10, 20, 30, 0xFFFFFFFF] = true := by decide +kernel
theorem test_vabs_vneg : leavesV (exec (.vabs .i32 false 5 3) (lanes34 (word4 0x80000000 5 0 0) (word4 0 0 0 0))) 5 [0x80000000, 5] =
    true ∧ leavesV (exec (.vabs .i32 true 5 3) (lanes34 (word4 0x80000000 5 0 0) (word4 0 0 0 0))) 5 [0x7FFFFFFF, 5] = true ∧
    leavesV (exec (.vneg .i16 true 5 3) (lanes34 (word4 0x8000 1 0 0) (word4 0 0 0 0))) 5 [0x7FFF, 0xFFFFFFFF] = true := by
  decide +kernel
theorem test_vsel : leavesV (exec (.vsel 5 1 2 1) small) 5 [1, 20, 3, 0xFFFFFFFF] = true := by decide +kernel
theorem test_vclz_vpopc : leavesV (exec (.vclz 5 2) small) 5 [28, 27, 27, 0] = true ∧
    leavesV (exec (.vpopc 5 2) small) 5 [2, 2, 4, 32] = true := by decide +kernel
theorem test_vbfe_vbfi : leavesV (exec (.vbfe 5 2 1 1) small) 5 [1, 1, 3, 0xF] = true ∧
    leavesV (exec (.vbfi 5 2 3 1) (withTeam (fun t => { t with v := t.v ++ [(96, word4 0x0408 0x2000 0x0020 0x0F1F)] }))) 5
      [0xA01, 20, 3, 0x80000004] = true := by decide +kernel
theorem test_vsat : leavesV (exec (.vsat .i16 5 3) (lanes34 (word4 40000 0xFFFF0000 7 0) (word4 0 0 0 0))) 5 [0x7FFF, 0xFFFF8000, 7] =
    true ∧ leavesV (exec (.vsat .n16 5 3) (lanes34 (word4 70000 0xFFFF0000 7 0) (word4 0 0 0 0))) 5 [0xFFFF, 0, 7] = true := by
  decide +kernel
theorem test_vaddi : leavesV (exec (.vaddi .n32 false 5 3 (-7)) (lanes34 (word4 5 9 0 0) (word4 0 0 0 0))) 5 [0xFFFFFFFE, 2] = true ∧
    leavesV (exec (.vaddi .n32 true 5 3 (-7)) (lanes34 (word4 5 9 0 0) (word4 0 0 0 0))) 5 [0, 2] = true := by decide +kernel
theorem test_vlane_vfroms : leavesV (exec (.vlane 5 3) small) 5 [0xFFFFFFFF, 0, 1, 2] = true ∧
    leavesV (exec (.vfroms 5 4) small) 5 [0x100000, 0x100000] = true := by decide +kernel
/-- R49: a full write replaces a word's label, and a partial one keeps the old label in the join. -/
theorem test_vector_labels :
    goesTo (exec (.vfroms 1 63) (withTeam (fun t => { t with v := [(32, word4 1 2 3 4 2)], lanes := 4 })))
      (fun u => (u.team? 1 0).any (fun t => t.vlab 1 0 == 0)) = true ∧
    goesTo (exec (.vfroms 1 6) ((withTeam (fun t => { t with v := [(32, word4 1 2 3 4 2)] })).modThread me0
      (fun th => { th with exm := 1 }))) (fun u => (u.team? 1 0).any (fun t => t.vlab 1 0 == 3)) = true := by decide +kernel

/-! ### Floating point and conversion (R131 to R140) -/

theorem test_vfadd : leavesV (exec (.vfadd .f32 .rn 5 3 4)
    (lanes34 (word4 0x3F800000 0x7F800000 0x80000000 0x00000001) (word4 0x40000000 0xFF800000 0x80000000 0x00000001))) 5
    [0x40400000, 0x7FC00000, 0x80000000, 0x00000002] = true := by decide +kernel
theorem test_vfsub : leavesV (exec (.vfsub .f32 .rd 5 3 4)
    (lanes34 (word4 0x3F800000 0 0 0) (word4 0x3F800000 0x3F800000 0 0))) 5 [0x80000000, 0xBF800000] = true := by decide +kernel
theorem test_vfmul : leavesV (exec (.vfmul .f32 .rz 5 3 4)
    (lanes34 (word4 0x80000000 0x7F7FFFFF 0x7F800000 0) (word4 0x80000000 0x7F7FFFFF 0 0))) 5 [0, 0x7F7FFFFF, 0x7FC00000] = true := by
  decide +kernel
theorem test_vfma : leavesV (exec (.vfma .f32 .rn 5 3 4 3)
    (lanes34 (word4 0x3F800000 0x40000000 0 0) (word4 0x3F800000 0x40400000 0 0))) 5 [0x40000000, 0x41000000] = true := by
  decide +kernel
theorem test_vfminmax : leavesV (exec (.vfmin .f32 5 3 4)
    (lanes34 (word4 0 0x7FC00001 0x7FC00001 0) (word4 0x80000000 0x3F800000 0xFFC00000 0))) 5 [0x80000000, 0x3F800000, 0x7FC00000] =
    true ∧ leavesV (exec (.vfmax .f32 5 3 4)
    (lanes34 (word4 0 0 0 0) (word4 0x80000000 0x3F800000 0 0))) 5 [0, 0x3F800000] = true := by decide +kernel
theorem test_vfrcp_vfrsq : leavesV (exec (.vfrcp 0 .rn 5 3) (lanes34 (word4 0x80000000 0x40400000 0x7F800000 0) (word4 0 0 0 0))) 5
    [0xFF800000, 0x3EAAAAAB, 0] = true ∧
    leavesV (exec (.vfrsq 0 .rn 5 3) (lanes34 (word4 0x40800000 0xBF800000 0 0) (word4 0 0 0 0))) 5
    [0x3F000000, 0x7FC00000, 0x7F800000] = true := by decide +kernel
theorem test_vfexp2_vflog2 : leavesV (exec (.vfexp2 0 .rz 5 3) (lanes34 (word4 0x40400000 0 0xFF800000 0) (word4 0 0 0 0))) 5
    [0x41000000, 0x3F800000, 0] = true ∧
    leavesV (exec (.vflog2 0 .ru 5 3) (lanes34 (word4 0x41000000 0x3F800000 0 0) (word4 0 0 0 0))) 5
    [0x40400000, 0, 0xFF800000] = true := by decide +kernel
theorem test_vfabs_vfneg : leavesV (exec (.vfabs .f16 5 3) (lanes34 (word4 0xFE01 0x8000 0 0) (word4 0 0 0 0))) 5 [0x7E01, 0] = true ∧
    leavesV (exec (.vfneg .f32 5 3) (lanes34 (word4 0x7FC00001 0 0 0) (word4 0 0 0 0))) 5 [0xFFC00001, 0x80000000] = true := by
  decide +kernel
/-- The worked cases of R138. -/
theorem test_vcvt_mk8 : leavesV (exec (.vcvt .mk8 .f32 false .rn 5 3)
    (lanes34 (word4 0xBF400000 0x3F8C0000 0x3DF80000 0x34000000) (word4 0 0 0 0))) 5 [0xE8, 0x72, 0x40, 0] = true ∧
    leavesV (exec (.vcvt .mk8 .f32 false .rn 5 3)
    (lanes34 (word4 0xFF800000 0x34800000 0x80000000 0x7FC00000) (word4 0 0 0 0))) 5 [0xFF, 1, 0, 0x80] = true := by decide +kernel
/-- The boundary cases after R254. -/
theorem test_vcvt_boundaries : leavesV (exec (.vcvt .f16 .f32 false .rn 5 3)
    (lanes34 (word4 0x477FF000 0x33000000 0 0) (word4 0 0 0 0))) 5 [0x7C00, 0] = true ∧
    leavesV (exec (.vcvt .sm4 .f32 false .rn 5 3) (lanes34 (word4 0xC0F00000 0x80000000 0 0) (word4 0 0 0 0))) 5 [0xF, 0] = true := by
  decide +kernel
/-- R139: two packs of 8-bit values leave the first in bits 7 to 0. -/
theorem test_vpack : leavesV (exec (.vpack .i16 true .rn 5 3 4) (lanes34 (word4 70000 1 0 0) (word4 0xFFFFFFFF 2 0 0))) 5
    [0xFFFF7FFF, 0x00020001] = true ∧
    leavesV (exec (.vpack .sm8 false .rn 5 3 4) (withTeam (fun t => { t with
      v := [(96, word4 1 0 0 0), (128, word4 0xFFFFFFFF 0 0 0), (160, word4 0x22110000 0 0 0)] }))) 5 [0x81012211] = true := by
  decide +kernel
theorem test_vunpk : leavesV (exec (.vunpk .mk8 false 5 3) (lanes34 (word4 0x70 0x80 0x0D 0) (word4 0 0 0 0))) 5
    [0x3F800000, 0x7FC00000, 0x39400000] = true ∧
    leavesV (exec (.vunpk .sm4 true 5 3) (lanes34 (word4 0x97 0x80 0 0) (word4 0 0 0 0))) 5 [0xFFFFFFFF, 0] = true := by decide +kernel

/-! ### Lane exchange and reductions (R141 to R145) -/

theorem test_vshuf : leavesV (exec (.vshuf .up 5 2 1) small) 5 [10, 20, 30, 0xFFFFFFFF] = true ∧
    leavesV (exec (.vshuf .xor 5 2 6) (withTeam (fun t => { t with v := t.v ++ [(192, word4 1 1 2 9)] }))) 5
      [20, 10, 10, 0xFFFFFFFF] = true := by decide +kernel
theorem test_vbcast : leavesV (exec (.vbcast 5 2 5) small) 5 [30, 30, 30, 30] = true ∧
    leavesV (exec (.vbcast 5 2 1) small) 5 [0, 0, 0, 0] = true := by decide +kernel
/-- The example after R145: the fold is in ascending lane order. -/
theorem test_vred : leavesS (exec (.vred 2 .f32 false .rn .add 20 3)
      ((lanes34 (word4 0x4B800000 0x3F800000 0x3F800000 0) (word4 0 0 0 0)).modThread me0 (fun th => { th with exm := 7 }))) 20
      0x4B800000 = true ∧ leavesS (exec (.vred 0 .i32 false .rn .min 20 2) small) 20 0xFFFFFFFFFFFFFFFF = true := by decide +kernel
theorem test_vscan : leavesV (exec (.vscan 0 .i32 false .rn .add true 5 1) small) 5 [0, 1, 3, 6] = true ∧
    leavesV (exec (.vscan 0 .n32 true .rn .add false 5 2) small) 5 [10, 30, 60, 0xFFFFFFFF] = true := by decide +kernel

/-! ### Control (R104 to R110) -/

/-- The small machine with more in memory, and headers at 0x110080 and 0x110088. -/
def withMem (ws : List (Nat × Nat)) : State :=
  { small with hbm := mem64 (tables pagesHere ++ [(0x210080, 0xF000000000000000), (0x210088, 0xF000000000000000)] ++ ws) }
/-- A step leaves the fragment at a place: header, slot and active lanes. -/
def standsAt (o : Host.Outcome State Fault Refusal) (pc slot : Nat) (exm : Mask) : Bool :=
  goesTo o (fun u => (u.thread? me0).any (fun th => th.pc == pc && th.slot == slot && th.exm == exm))

theorem test_nop_yield : standsAt (exec .nop small) 0x110000 1 0xF = true ∧
    standsAt (exec .yield (withThread (fun th => { th with slot := 1 }))) 0x110018 0 0xF = true := by decide +kernel
theorem test_bra : standsAt (exec (.bra 15) (withMem [])) 0x110080 0 0xF = true ∧
    traps (exec (.bra 14) (withMem [])) 0x04 0 = true := by decide +kernel
theorem test_brc : standsAt (exec (.brc .nz 1 15 0) (withMem [])) 0x110080 0 0xF = true ∧
    standsAt (exec (.brc .all 1 15 0) (withMem [])) 0x110000 1 0xF = true := by decide +kernel
/-- A condition that the PC label does not dominate, without a span (R59). -/
theorem test_brc_label : traps (exec (.brc .nz 6 15 16) ((withMem []).modTeam 1 0 (fun t => { t with clear := 3 }))) 0x0D 0 = true ∧
    traps (exec (.brc .nz 6 15 16) (withMem [])) 0x0B 0 = true := by decide +kernel
theorem test_brv : goesTo (exec (.brv 1 15 16) (withMem [])) (fun u => (u.team? 1 0).any (fun t => t.frags.map (fun e =>
      (e.1, e.2.pc, e.2.exm)) == [(0, 0x110080, 0x5), (1, 0x110018, 0xA)])) = true ∧
    standsAt (exec (.brv 1 15 16) ((withMem []).modThread me0 (fun th => { th with exm := 4 }))) 0x110080 0 4 = true := by
  decide +kernel
theorem test_call : standsAt (exec (.call 15) (withMem [])) 0x110080 0 0xF = true ∧
    leavesS (exec (.call 15) (withMem [])) 62 0x110018 = true := by decide +kernel
theorem test_ret_brx : standsAt (exec .ret ((withMem []).writeS me0 62 { val := 0x110088 })) 0x110088 0 0xF = true ∧
    standsAt (exec (.brx 7) ((withMem []).writeS me0 7 { val := 0x110080 })) 0x110080 0 0xF = true := by decide +kernel
theorem test_exit : standsAt (exec .exit (withThread (fun th => { th with exm := 3 }))) 0x110000 1 0xC = true ∧
    goesTo (exec .exit small) (fun u => (kvFind u.crews 1).isNone) = true := by decide +kernel
theorem test_loop : standsAt (exec (.loop 5 15 0) (withMem [])) 0x110080 0 0xF = true ∧
    leavesS (exec (.loop 5 15 0) (withMem [])) 5 1 = true ∧ standsAt (exec (.loop 6 15 0) (withTeam (fun t => { t with
      s := [(6, { val := 1 })] }))) 0x110000 1 0xF = true := by decide +kernel
theorem test_trap : traps (exec (.trap 5) small) 0x21 0 = true ∧ goesTo (exec (.trap 5) small) (fun u =>
    (u.team? 1 0).any (fun t => t.frame.any (fun f => f.info == 5 && f.pc == 0x110000 && f.slot == 0))) = true := by decide +kernel
theorem test_bkpt : traps (exec (.bkpt 9) small) 0x20 0 = true ∧ goesTo (exec (.bkpt 9) (small.modCtx 0 (fun c =>
    { c with breakpoints := true }))) (fun u => (u.thread? me0).any (fun th => th.park == .debugger)) = true := by decide +kernel
/-- A handler of a fault in slot 0 of a clause of two instructions. -/
def handling : State :=
  (withTeam (fun t => { t with frame := some (frameOf 0 { thread0 with exm := 7 } { code := 0x21, sub := 1, lanes := 3
                                                                                    info := some 5 }) })).modThread me0 (fun th =>
    { th with pc := 0x500840, clause := [0], exm := 3, priv := .ctxSup, handler := true })
theorem test_tret : standsAt (exec .tretRetry handling) 0x110000 0 7 = true ∧
    standsAt (exec .tretSkip handling) 0x110000 1 7 = true := by decide +kernel
theorem test_halt : goesTo (exec .halt { small with cur := some (.sup 3) }) (fun u => (u.sup 3).th.park == .halted) = true ∧
    traps (exec .halt small) 0x1C 0 = true := by decide +kernel

/-! ### Memory (R146 to R159) -/

theorem test_sld : leavesS (exec (.sld 0 .i16 .core .rlx 7 4 63 0) (withMem [(0x200000, 0x8899AABBCCDDEEFF)])) 7
      0xFFFFFFFFFFFFEEFF = true ∧
    leavesS (exec (.sld 0 .b32 .core .rlx 7 4 5 (-2)) (withMem [(0x200000, 0x8899AABBCCDDEEFF)])) 7 0xCCDDEEFF = true := by
  decide +kernel
/-- R149: not canonical, misaligned, not present, and no write permission. -/
theorem test_access_faults : traps (exec (.sld 0 .i16 .core .rlx 7 3 63 0) (withMem []) ) 0x06 0 = true ∧
    traps (exec (.sst .i16 .core .rlx 1 4 63 1) small) 0x1B 0 = true ∧
    traps (exec (.sst .b32 .core .rlx 1 4 63 0) (small.writeS me0 4 { val := 0x140000 })) 0x07 0 = true ∧
    traps (exec (.sst .b32 .core .rlx 1 4 63 0) (small.writeS me0 4 { val := 0x130000 })) 0x09 1 = true := by decide +kernel
/-- A byte as the crew reads it. -/
def crewByte (o : Host.Outcome State Fault Refusal) (pa : Nat) (b : Byte) : Bool :=
  goesTo o (fun u => (kvFind u.crews 1).any (fun c => u.coreByte c false pa == b))
theorem test_sst : crewByte (exec (.sst .i64 .core .rlx 3 4 63 8) small) 0x20000F 0xFF = true ∧
    goesTo (exec (.sst .i64 .core .rlx 3 4 63 8) small) (fun u => u.homeByte 0x20000F == 0) = true := by decide +kernel
theorem test_vld : leavesV (exec (.vld 0 .i16 .core .rlx true 5 4 (some 1) (-2)) (withMem [(0x200000, 0x8899AABBCCDDEEFF)])) 5
    [0xFFFFEEFF, 0xFFFFCCDD, 0xFFFFAABB, 0xFFFF8899] = true := by decide +kernel
theorem test_vst : crewByte (exec (.vst .i16 .core .rlx true 2 4 (some 1) 0) small) 0x200008 0xFF = true ∧
    crewByte (exec (.vst .i16 .core .rlx true 2 4 (some 1) 0) small) 0x200002 10 = true := by decide +kernel
/-- The small machine with the pair v8:v9 at doublewords of the data page, and something in it. -/
def pairs8 : State := (withMem [(0x200000, 0x1122334455667788)]).modTeam 1 0 (fun t => { t with
  v := t.v ++ [(256, word4 0x100000 0x100008 0x100004 0x100000), (288, word4 0 0 0 0)] })
theorem test_vldx_vstx : leavesV (exec (.vldx 0 .b32 .core .rlx 5 8 0) pairs8) 5 [0x55667788, 0, 0x11223344, 0x55667788] = true ∧
    crewByte (exec (.vstx .b32 .core .rlx 2 8 0) pairs8) 0x200000 0xFF = true := by decide +kernel
theorem test_vsts : goesTo (exec (.vsts .b32 true 2 63 (some 1) 0) small) (fun u =>
    (kvFind u.crews 1).any (fun c => c.body.pad.nat 8 4 == 20 && c.padLog == [0])) = true := by decide +kernel
theorem test_vlds : leavesV (exec (.vlds 0 .b32 true 5 63 (some 1) 0) (withCrew (fun c => { c with
      body := { c.body with pad := { c.body.pad with bytes := [(4, 9), (8, 8), (13, 1)] } } }))) 5 [9, 8, 256, 0] = true ∧
    traps (exec (.vlds 0 .b32 true 5 3 (some 1) 0) small) 0x06 0 = true := by decide +kernel
/-- Two lines from offset 128 on, as a window on the data page (R158). -/
def mapArg : State := small.writeS me0 7 { val := 0x0000010000000080 }
theorem test_stash_map : leavesS (exec (.stashMap 20 4 7 0) mapArg) 20 0 = true ∧
    goesTo (exec (.stashMap 20 4 7 0) mapArg) (fun u => (kvFind u.crews 1).any (fun c => c.body.pad.absent == [1, 2] &&
      c.body.pad.wins == [(0, { va := 0x100000, off := 128, len := 256 })])) = true := by decide +kernel
/-- Line 1 of a mapped window is filled, and its byte 128 has been stored to. -/
def stashed : State := mapArg.modCrew 1 (fun c => { c with body := { c.body with pad := { c.body.pad with
  wins := [(0, { va := 0x100000, off := 128, len := 256 })], absent := [2], filled := [(1, 0x4000)], dirty := [128]
  bytes := [(128, 0xAB)] } } })
theorem test_stash_flush : leavesS (exec (.stashFlush 20 4 5 0) (stashed.writeS me0 5 { val := 256 })) 20 1 = true ∧
    crewByte (exec (.stashFlush 20 4 5 0) (stashed.writeS me0 5 { val := 256 })) 0x200000 0xAB = true := by decide +kernel
theorem test_stash_unmap : leavesS (exec (.stashUnmap 20 4 7 0) stashed) 20 1 = true ∧
    leavesS (exec (.stashUnmap 20 4 7 128) stashed) 20 0xFFFFFFFFFFFFFFFF = true := by decide +kernel
theorem test_spwait : standsAt (exec (.spwait 63 63 128) stashed) 0x110000 1 0xF = true ∧
    goesTo (exec (.spwait 63 63 256) stashed) (fun u => (u.thread? me0).any (fun th => th.park == .line)) = true := by decide +kernel
theorem test_vpref : standsAt (exec (.vpref false 3 none 0) small) 0x110000 1 0xF = true := by decide +kernel

/-! ### Atomics (R222 to R229) -/

theorem test_red : goesTo (exec (.red .i32 .dev .rlx .uniform .add 4 1 8) (withMem [(0x200008, 5)])) (fun u =>
    u.homeNat 0x200008 4 == 15) = true := by decide +kernel
theorem test_atom : leavesV (exec (.atom 0 .n32 .dev .rlx .uniform .max 5 4 1 8) (withMem [(0x200008, 3)])) 5 [3, 3, 3, 3] = true ∧
    goesTo (exec (.atom 0 .n32 .dev .rlx .uniform .max 5 4 1 8) (withMem [(0x200008, 3)])) (fun u => u.homeNat 0x200008 4 == 4) = true := by
  decide +kernel
theorem test_atomc : goesTo (exec (.atomc 0 .dev .rlx .uniform 1 4 2 8) (withMem [(0x200008, 2)])) (fun u =>
    u.homeNat 0x200008 4 == 20) = true ∧
    leavesV (exec (.atomc 0 .dev .rlx .uniform 1 4 2 8) (withMem [(0x200008, 2)])) 1 [2, 2, 20, 20] = true := by decide +kernel
theorem test_satom : leavesS (exec (.satom 0 true .dev .rlx .min 7 4 3 8) (withMem [(0x200008, 3)])) 7 3 = true ∧
    goesTo (exec (.satom 0 true .dev .rlx .min 7 4 3 8) (withMem [(0x200008, 3)])) (fun u =>
      u.homeNat 0x200008 8 == 0xFFFFFFFFFFFFFFFF) = true := by decide +kernel

/-! ### Synchronisation and claims (R160 to R163, R230 to R239) -/

/-- The crew holds a byte uncommitted on the data page. -/
def holding : State := withCrew (fun c => { c with unc := [{ win := 0, pa := 0x200000, val := 9 }] })
theorem test_fence : goesTo (exec (.fence .dev .rel) holding) (fun u => (kvFind u.crews 1).any (fun c => c.unc == []) && kvFind (u.l1 0 0).dirty 0x200000 == some 9) = true ∧
    goesTo (exec (.fence .core .rel) holding) (fun u => (kvFind u.crews 1).any (fun c => c.unc.length == 1)) = true := by decide +kernel
theorem test_fencex : goesTo (exec (.fencex .sys .rel 1) holding) (fun u => u.homeByte 0x200000 == 9) = true := by decide +kernel
theorem test_ckpt : goesTo (exec .ckpt holding) (fun u => (kvFind u.crews 1).any (fun c => c.unc == [] && c.lastCommit == 100 &&
    (kvFind c.saved.teams 0).any (fun t => (kvFind t.frags 0).any (fun th => th.slot == 1)))) = true := by decide +kernel
/-- The walk of R233's example: a barrier of a crew of one team with a reload count of 2. -/
def bar2 : State := withCrew (fun c => { c with body := { c.body with bars := [(2, { rld := 2, cnt := 2 })] } })
def barrier (o : Host.Outcome State Fault Refusal) (p : NBar → Bool) : Bool :=
  goesTo o (fun u => (kvFind u.crews 1).any (fun c => (kvFind c.body.bars 2).any p))
theorem test_bara : barrier (exec (.bara 2) bar2) (fun b => b.cnt == 1 && !b.ph) = true := by decide +kernel
theorem test_baraw : barrier (exec (.baraw 2) bar2) (fun b => b.cnt == 1) = true ∧
    goesTo (exec (.baraw 2) bar2) (fun u => (u.thread? me0).any (fun th => th.park == .bar 2)) = true ∧
    barrier (exec (.baraw 2) (bar2.modCrew 1 (fun c => { c with body := { c.body with bars := [(2, { rld := 2, cnt := 1 })] } })))
      (fun b => b.cnt == 2 && b.ph) = true := by decide +kernel
theorem test_barw : standsAt (exec (.barw 2) (bar2.modCrew 1 (fun c => { c with body := { c.body with
      bars := [(2, { ph := true, rld := 2, cnt := 2, ap := [(0, false)] })] } }))) 0x110000 1 0xF = true ∧
    goesTo (exec (.barw 2) bar2) (fun u => (u.thread? me0).any (fun th => th.park == .bar 2)) = true := by decide +kernel
theorem test_bari : barrier (exec (.bari 2 1) bar2) (fun b => b.cnt == 7 && b.rld == 7) = true ∧
    barrier (exec (.bari 2 63) bar2) (fun b => b.rld == 4096) = true := by decide +kernel
/-- A barrier word in the scratchpad at offset 64: count 1, reload 3 (R160). -/
def padWord (v : Nat) : State := (withCrew (fun c => { c with body := { c.body with pad := { c.body.pad with
  bytes := (numBytes 64 4 v).foldl (fun m e => kvPut 0 m e.1 e.2) [] } } })).writeS me0 4 { val := 0x700040 }
def padNat (o : Host.Outcome State Fault Refusal) (off v : Nat) : Bool :=
  goesTo o (fun u => (kvFind u.crews 1).any (fun c => c.body.pad.nat off 4 == v))
theorem test_wbara : padNat (exec (.wbara .core 4 63 0) (padWord (bwMake false false 0 3 1))) 64 (bwMake false true 0 3 3) = true := by
  decide +kernel
theorem test_wbari : padNat (exec (.wbari .core 1 4 63 0) (padWord 0)) 64 7 = true := by decide +kernel
theorem test_wbarw : leavesS (exec (.wbarw .core false 7 4 63 0) (padWord (bwMake true true 5 3 3))) 7 69 = true ∧
    goesTo (exec (.wbarw .core true 7 4 63 0) (padWord (bwMake true true 5 3 3))) (fun u =>
      (u.thread? me0).any (fun th => th.park == .word)) = true := by decide +kernel

/-- A reserving cast of one item, whose team is in a phase. -/
def launch0 : Launch :=
  { entry := 0x110000, crews := 1, teams := 1, lanes := 4, vregs := 32, spad := 1024, nbar := 4, prio := 1, reserving := true
    ordered := false, paired := false, slack := 0, extx := 1, exty := 1, extz := 1, resid := 0, done := 0, waits := []
    clear := 3, amode := 0, amask := 0, args := [] }
def cast0 : Cast := { queue := 1, seq := 0, record := 0, launch := launch0, st := .draining, gate := true, next := 1, waves := 1
                      items := [(0, { isSealed := true, wave := 1 })] }
def reserving (ph : Phase) : State :=
  (withTeam (fun t => { t with phase := ph })).modCtx 0 (fun c => { c with casts := [(0, cast0)] })
theorem test_clm : goesTo (exec (.clm false 4 (some 1) 0) (reserving .claim)) (fun u => (kvFind u.crews 1).any (fun c =>
      c.body.claims == 4 && decide (c.body.sig ≠ 0))) = true ∧ traps (exec (.clm false 4 (some 1) 0) small) 0x01 3 = true := by
  decide +kernel
theorem test_clmseal : goesTo (exec .clmseal (reserving .claim)) (fun u => (u.thread? me0).any (fun th => th.park == .admission) &&
    (u.team? 1 0).any (fun t => t.phase == .sealed)) = true := by decide +kernel
theorem test_clmdone : goesTo (exec .clmdone (reserving .commit)) (fun u => (u.team? 1 0).any (fun t => t.phase == .done) &&
    (u.cast? 0 0).any (fun k => (k.item 0).finished)) = true := by decide +kernel
theorem test_clmq : leavesS (exec (.clmq 0 7) (reserving .commit)) 7 0x0000000100000001 = true := by decide +kernel

/-! ### Labels and scopes (R64 to R66, R114 to R122) -/

def labelled : State := withTeam (fun t => { t with
  v := [(32, word4 1 2 3 4 1), (64, word4 1 2 3 4 3)], clear := 3, auth := 3
  s := t.s ++ [(9, { val := 3 }), (10, { val := 2 })] })
theorem test_lget : leavesS (exec (.lget 7 2) labelled) 7 3 = true ∧
    goesTo (exec (.lget 7 2) labelled) (fun u => (u.readS me0 7).lab == 0) = true := by decide +kernel
theorem test_lchk : leavesS (exec (.lchk 7 1 9) labelled) 7 1 = true ∧ leavesS (exec (.lchk 7 1 10) labelled) 7 0 = true ∧
    leavesS (exec (.lchk 7 1 3) labelled) 7 0 = true := by decide +kernel
theorem test_lraise : goesTo (exec (.lraise 9 4 11 0) (labelled.writeS me0 11 { val := 128 })) (fun u =>
      u.granLab 0x4000 == 3 && u.granLab 0x4001 == 0) = true ∧
    traps (exec (.lraise 9 4 11 0) (labelled.writeS me0 11 { val := 64 })) 0x1B 0 = true := by decide +kernel
theorem test_endorse : goesTo (exec (.endorse 7 2) labelled) (fun u => (u.ctx 0).endorse.map (fun e => (e.site, e.owner, e.count)) ==
      [(7, 0, 2), (7, 1, 2)]) = true ∧ traps (exec (.endorse 7 2) small) 0x0F 0 = true := by decide +kernel
theorem test_decl : goesTo (exec (.decl 5 1 7 0) (labelled.modCtx 0 (fun c => { c with endorse := [{ site := 7, owner := 0, count := 1 }] })))
      (fun u => (u.team? 1 0).any (fun t => t.vlab 5 0 == 0 && t.lane 5 3 == 4) && endorseCount (u.ctx 0).endorse 7 0 == 0) = true ∧
    traps (exec (.decl 5 1 7 0) labelled) 0x0E 0 = true := by decide +kernel
theorem test_lspan : goesTo (exec (.lspan 4 2 1) small) (fun u => (u.thread? me0).any (fun th =>
      th.armed == some { vlo := 4, vn := 2, smask := 7 })) = true ∧ traps (exec (.lspan 4 2 6) small) 0x0D 0 = true := by decide +kernel

theorem test_scopeo : goesTo (exec (.scopeo 4 40) (withTeam (fun t => { t with reserve := 5 }))) (fun u => (u.team? 1 0).any (fun t =>
    t.scopes == [(40, 4), (0, 32)] && t.reserve == 1)) = true := by decide +kernel
theorem test_scopec : goesTo (exec .scopec (withTeam (fun t => { t with scopes := [(40, 4), (0, 32)] }))) (fun u =>
    (u.team? 1 0).any (fun t => t.scopes == [(0, 32)])) = true := by decide +kernel
theorem test_rgrow : goesTo (exec (.rgrow 6) small) (fun u => (u.team? 1 0).any (fun t => t.reserve == 6)) = true := by decide +kernel
theorem test_rshrink : goesTo (exec (.rshrink 2) (withTeam (fun t => { t with reserve := 5 }))) (fun u => (u.team? 1 0).any (fun t =>
    t.reserve == 3)) = true := by decide +kernel

/-! ### Engines (R284 to R304) -/

theorem test_fork : goesTo (exec (.fork 63 63 5) small) (fun u => (kvFind u.crews 1).any (fun c => c.body.grant.any (fun g =>
      g.team == 0 && g.tiles.length == 2 && g.mseq == none))) = true ∧
    goesTo (exec (.fork 7 63 6) (small.writeS me0 7 { val := 0x110080 })) (fun u => (kvFind u.crews 1).any (fun c =>
      (kvFind c.body.seqs 0).any (fun q => q.kind == .matrix && q.th.pc == 0x110080 && kvGet {} q.s 2 == { val := 5 }))) = true := by
  decide +kernel
/-- A grant of one tile with a matrix stream, at its clause's first instruction. -/
def tile0 : Tile := { elems := [(0, 0x3F800000), (129, 0x40000000)] }
def granted : State := withCrew (fun c => { c with body := { c.body with
  grant := some { team := 0, tiles := [tile0], mseq := some 0, cseq := none }
  seqs := [(0, { kind := .matrix, team := 0, th := { pc := 0x110100, clause := [0], eng := .matrix }
                 s := [(4, { val := 0x40000000 }), (6, { val := 0x700040 })] })], nextSeq := 1 } })
def streaming : State := { granted with cur := some (.seq 1 0) }
def tileAt (o : Host.Outcome State Fault Refusal) (p : Tile → Bool) : Bool :=
  goesTo o (fun u => (kvFind u.crews 1).any (fun c => (c.tile 0).any p))
theorem test_rdv : goesTo (exec .rdv granted) (fun u => (u.thread? me0).any (fun th => th.park == .rdv)) = true ∧
    standsAt (exec .rdv small) 0x110000 1 0xF = true := by decide +kernel
theorem test_mzero : tileAt (exec (.mzero 0) streaming) (fun t => t.elems == []) = true ∧
    goesTo (exec (.mzero 0) streaming) (fun u => u.homeByte 0x270003 == 0x3F && u.homeByte 0x270207 == 0x40) = true := by
  decide +kernel
theorem test_mrscl : tileAt (exec (.mrsclUniform 0 4) streaming) (fun t => t.at 0 0 == 0x40000000 && t.at 1 1 == 0x40800000) = true ∧
    tileAt (exec (.mrsclVector 0 3) (granted.modTeam 1 0 (fun t => { t with v := [(96, word4 0x40000000 0x3F000000 0 0)] })))
      (fun t => t.at 0 0 == 0x40000000 && t.at 1 1 == 0x3F800000) = true := by decide +kernel
theorem test_mdrain : leavesV (exec (.mdrain 0 .f32 .rn 5 0 63) granted) 5 [0x3F800000, 0, 0, 0] = true := by decide +kernel
theorem test_mfill : tileAt (exec (.mfill .f32 0 1 5) granted) (fun t => t.at 3 2 == 4 && t.at 0 0 == 0x3F800000) = true := by
  decide +kernel
def queue1 (o : Host.Outcome State Fault Refusal) (copy : Bool) (k : CmdKind) : Bool :=
  goesTo o (fun u => (if copy then (u.cluster 0).cq else (u.cluster 0).mq).map Cmd.kind == [k])
theorem test_mma : queue1 (exec (.mma .sm8 true 0 4 8 6) streaming) false (.mma .sm8 true 0) = true ∧
    queue1 (exec (.mma .sm8 true 1 4 8 6) streaming) false (.mma .sm8 true 1) = false := by decide +kernel
theorem test_tcopy_xfer : queue1 (exec (.tcopy 4 8 6) (small.writeS me0 6 { val := 0x700040 })) true .tcopy = true ∧
    queue1 (exec (.xfer true 4 8 6) (small.writeS me0 6 { val := 0x700040 })) true (.xfer true) = true ∧
    traps (exec (.tcopy 4 8 6) small) 0x1B 0 = true := by decide +kernel
/-- A shape record of rank 1 at the data page: b32, extent, stride and box of 4 (R92). One of rank 0 fails the third check of
R286. -/
theorem test_shape : leavesS (exec (.shape 7 4) (withMem [(0x200000, 0x100000), (0x200008, 0x100), (0x200010, 4), (0x200020, 4),
      (0x200040, 4)])) 7 0x400000000 = true ∧ leavesS (exec (.shape 7 4) (withMem [])) 7 3 = true := by decide +kernel
/-- Queue 0 is enabled with a ring of 16 packets of which three have been appended; queue 1 is not enabled (R173). -/
def queues : State := (withMem [(0x220000, 0x121000), (0x220008, 0x0104), (0x220010, 3)]).modCtx 0 (fun c => { c with lqt := 0x120000 })
theorem test_cast : leavesS (exec (.cast 4) queues) 4 3 = true ∧ goesTo (exec (.cast 4) queues) (fun u =>
    u.home64 0x221030 == 0x100000 && u.home64 0x221038 == 3 && u.home64 0x220010 == 4) = true := by decide +kernel
theorem test_qput : leavesS (exec (.qput 7 4 0x40) (queues.writeS me0 7 { val := 0x120000 })) 4 0x8000000000000001 = true ∧
    leavesS (exec (.qput 7 4 0) (queues.writeS me0 7 { val := 0x120000 })) 4 0x8000000000000004 = true := by decide +kernel

/-! ### System instructions (R111, R350 to R358) -/

def asSup (p : Priv) (s : State) : State := s.modThread me0 (fun th => { th with priv := p })
theorem test_sysr : leavesS (exec (.sysr 7 0x000) small) 7 100 = true ∧ leavesS (exec (.sysr 7 0x003) labelled) 7 3 = true ∧
    traps (exec (.sysr 7 0x020) small) 0x1C 0 = true := by decide +kernel
theorem test_sysw : goesTo (exec (.sysw 0x010 1) (asSup .ctxSup small)) (fun u => (u.ctx 0).tvec == 0) = true ∧
    traps (exec (.sysw 0x010 1) small) 0x1C 0 = true := by decide +kernel
theorem test_pkeyw : goesTo (exec (.pkeyw 1) small) (fun u => (u.team? 1 0).any (fun t => t.pkr == 7)) = true ∧
    traps (exec (.pkeyw 6) small) 0x0D 0 = true := by decide +kernel
def withTlb : State := small.modCluster 0 (fun c => { c with tlb :=
  [{ vf := 0, page := 0x10, pte := 0x30080, entry := 0x200005, large := false },
   { vf := 0, page := 0x11, pte := 0x30088, entry := 0x210009, large := false },
   { vf := 1, page := 0x10, pte := 0x30080, entry := 0x200005, large := false }] })
def tlbIs (o : Host.Outcome State Fault Refusal) (xs : List (Nat × Nat)) : Bool :=
  goesTo o (fun u => (u.cluster 0).tlb.map (fun e => (e.vf, e.page)) == xs)
theorem test_tlbinv : tlbIs (exec (.tlbinvPage 4) (asSup .ctxSup withTlb)) [(0, 0x11), (1, 0x10)] = true ∧
    tlbIs (exec (.tlbinvCtx 63) (asSup .ctxSup withTlb)) [(1, 0x10)] = true ∧
    tlbIs (exec (.tlbinvAll 63) (asSup .devSup withTlb)) [] = true ∧ traps (exec (.tlbinvPage 4) withTlb) 0x1C 0 = true := by
  decide +kernel
theorem test_frinv : standsAt (exec (.frinv 4 63) (asSup .devSup small)) 0x110000 1 0xF = true ∧
    traps (exec (.frinv 4 1) (asSup .devSup small)) 0x1B 0 = true ∧ traps (exec (.frinv 4 63) small) 0x1C 0 = true := by decide +kernel
theorem test_faultr : leavesS (exec (.faultr .code 7) handling) 7 0x21 = true ∧ leavesS (exec (.faultr .info 7) handling) 7 5 = true ∧
    leavesM (exec (.faultr .mask 3) handling) 3 3 = true ∧ traps (exec (.faultr .code 7) small) 0x1C 0 = true := by decide +kernel
theorem test_pgmap : standsAt (exec (.pgmap 4) (asSup .ctxSup small)) 0x110000 1 0xF = true ∧
    goesTo (exec (.pgmap 7) ((asSup .ctxSup (small.writeS me0 7 { val := 0x140000 })).modCtx 0 (fun c => { c with pool := [0x300000] })))
      (fun u => u.home64 (0x30000 + 8 * 0x14) == 0x300005 && (u.ctx 0).pool == []) = true := by decide +kernel

end Sys2Proof.Tests
end

