-- ==== Sys2Proof/Tests/Witnesses.lean ====
section
/-! SUPPORT. Witnesses: for each statement, states and operands that meet its hypotheses together, with its conclusion there. -/

namespace Sys2Proof.Tests
open Sys2Proof.Machine
set_option Elab.async false

/-- A computation answers a value and a state. -/
def okIs {α : Type} [DecidableEq α] (r : EStateM.Result Stop State α) (a : α) (s : State) : Bool :=
  match r with | .ok b t => decide (b = a) && decide (t = s) | .error _ _ => false
theorem ok_of {α : Type} [DecidableEq α] {r : EStateM.Result Stop State α} {a : α} {s : State} (h : okIs r a s = true) :
    r = .ok a s := by
  cases r with
  | ok b t =>
    simp only [okIs, Bool.and_eq_true, decide_eq_true_eq] at h
    rw [h.1, h.2]
  | error e t => simp [okIs] at h

/-! ### Uniform instructions, masks, vectors -/

theorem witness_UniformResults :
    uniResult (.smulh true 7 3 1) (fun r => (small.readS me0 r).val) = some (7, [3, 1], 0xFFFFFFFFFFFFFFFF) ∧
    small.Turn me0 thread0 ∧ small.mayIssue me0 thread0 ([3, 1].map .s) [.s 7] = true ∧
    small.joined me0 ([3, 1].map (fun r => (small.readS me0 r).lab) ++ [thread0.pcl]) = some (0, [0, 1, 2, 3]) ∧
    isNext (exec (.smulh true 7 3 1) small) (small.finish ((small.setLabels (small.ctxOf me0) [0, 1, 2, 3]).writeS me0 7
      { val := 0xFFFFFFFFFFFFFFFF, lab := 0 }) me0 {}) = true := by
  dsimp only [State.Turn]
  decide +kernel

theorem witness_UniformOtherResults_smovh :
    small.Turn me0 thread0 ∧ small.mayIssue me0 thread0 [.s 6] [.s 6] = true ∧
    small.joined me0 [thread0.pcl, (small.readS me0 6).lab] = some (1, [0, 1, 2, 3]) ∧
    isNext (exec (.smovh 6 9) small) (small.finish ((small.setLabels (small.ctxOf me0) [0, 1, 2, 3]).writeS me0 6
      { val := (9 : BitVec 32) ++ (small.readS me0 6).val.extractLsb' 0 32, lab := 1 }) me0 {}) = true := by
  dsimp only [State.Turn]
  decide +kernel
theorem witness_UniformOtherResults_slane :
    small.AtFrag 1 0 0 crew0 team0 thread0 ∧ small.mayIssue me0 thread0 [.v 2, .s 5] [.s 7] = true ∧
    small.joined me0 ((mgroups thread0.exm).map (fun g => team0.vlab 2 g) ++ [(small.readS me0 5).lab, thread0.pcl]) =
      some (0, [0, 1, 2, 3]) ∧ encode (.slane 7 2 5) = some 0x2700001C08140000 ∧
    isNext (exec (.slane 7 2 5) small) (small.finish ((small.setLabels 0 [0, 1, 2, 3]).writeS me0 7 { val := 30, lab := 0 }) me0 {}) =
      true := by
  dsimp only [State.AtFrag]
  decide +kernel
theorem witness_UniformOtherResults_vred :
    small.AtFrag 1 0 0 crew0 team0 thread0 ∧ thread0.exm ≠ 0 ∧ small.mayIssue me0 thread0 [.v 2] [.s 7] = true ∧
    small.joined me0 ((mgroups thread0.exm).map (fun g => team0.vlab 2 g) ++ [thread0.pcl]) = some (0, [0, 1, 2, 3]) ∧
    isNext (exec (.vred 1 .i32 false .rn .add 7 2) small) (small.finish (((small.setLabels 0 [0, 1, 2, 3]).writeS me0 7
      { val := 59, lab := 0 }).opened me0 [.s 7] (some (1, classTr))) me0 {}) = true := by
  dsimp only [State.AtFrag]
  decide +kernel
/-- The small machine with no lane active. -/
def idle : State := withThread (fun th => { th with exm := 0 })
def thread1 : Thread := { thread0 with exm := 0 }
def team1 : Team := { team0 with frags := [(0, thread1)] }
def crew1 : Crew := { crew0 with body := { crew0.body with teams := [(0, team1)] } }
theorem idle_at : idle.AtFrag 1 0 0 crew1 team1 thread1 := ⟨rfl, rfl, rfl, rfl⟩
theorem small_at : small.AtFrag 1 0 0 crew0 team0 thread0 := ⟨rfl, rfl, rfl, rfl⟩
theorem small_turn : small.Turn me0 thread0 := ⟨rfl, rfl⟩
theorem idle_turn : idle.Turn me0 thread1 := ⟨rfl, rfl⟩
theorem witness_UniformOtherResults_vred_idle : idle.AtFrag 1 0 0 crew1 team1 thread1 ∧ thread1.exm = 0 ∧
    idle.mayIssue me0 thread1 [.v 2] [] = true ∧
    isNext (exec (.vred 1 .i32 false .rn .add 7 2) idle) (idle.finish (idle.opened me0 [.s 7] (some (1, classTr))) me0 {}) = true :=
  ⟨idle_at, by decide +kernel⟩
theorem witness_UniformFrame : uniResult (.sadd false false 7 1 2) (fun r => (small.readS me0 r).val) = some (7, [1, 2], 12) ∧
    small.AtFrag 1 0 0 crew0 team0 thread0 ∧ thread0.pend.any (fun p => p.held.isSome) = false ∧
    small.mayIssue me0 thread0 ([1, 2].map .s) [.s 7] = true ∧
    small.joined me0 ([1, 2].map (fun r => (small.readS me0 r).lab) ++ [thread0.pcl]) = some (0, [0, 1, 2, 3]) :=
  ⟨by decide +kernel, small_at, by decide +kernel⟩

theorem witness_MaskResults : small.AtFrag 1 0 0 crew0 team0 thread0 ∧
    maskResult (.mset 3 63 5) small me0 team0 thread0 = some (3, [.s 63, .s 5], [0, 0], 0x3) ∧ thread0.exm ≠ 0 ∧
    small.mayIssue me0 thread0 [.s 63, .s 5] [.m 3] = true ∧
    small.maskLabel me0 team0 3 thread0.exm [0, 0, 0] = some (0, [0, 1, 2, 3]) ∧
    isNext (exec (.mset 3 63 5) small) (small.finish ((small.setLabels 0 [0, 1, 2, 3]).putMask 1 0 0 team0 3 thread0.exm 0x3 0) me0 {}) =
      true := ⟨small_at, by decide +kernel⟩
theorem witness_MaskResults_exm : small.AtFrag 1 0 0 crew0 team0 thread0 ∧
    maskResult (.mnot 0 1) small me0 team0 thread0 = some (0, [.m 1], [0], ~~~0x5) ∧
    small.mayIssue me0 thread0 [.m 1] [.m 0] = true ∧ small.maskLabel me0 team0 0 thread0.exm [0, 0] = some (0, [0, 1, 2, 3]) ∧
    ((small.setLabels 0 [0, 1, 2, 3]).ctx 0).dominates thread0.pcl 0 = true ∧
    isNext (exec (.mnot 0 1) small) (small.finish ((small.setLabels 0 [0, 1, 2, 3]).putMask 1 0 0 team0 0 thread0.exm (~~~0x5) 0) me0
      {}) = true := ⟨small_at, by decide +kernel⟩
theorem witness_MaskResults_idle : idle.AtFrag 1 0 0 crew1 team1 thread1 ∧ thread1.exm = 0 ∧
    idle.mayIssue me0 thread1 [.m 1] [] = true ∧ isNext (exec (.melect 3 1) idle) (idle.finish idle me0 {}) = true :=
  ⟨idle_at, by decide +kernel⟩
theorem witness_MaskMoves : small.AtFrag 1 0 0 crew0 team0 thread0 ∧ small.mayIssue me0 thread0 [.m 1] [.s 7] = true ∧
    small.joined me0 [maskLbl team0 thread0 1, thread0.pcl] = some (0, [0, 1, 2, 3]) ∧
    small.mayIssue me0 thread0 [.m 1, .s 5] [.s 7] = true ∧
    small.joined me0 [maskLbl team0 thread0 1, (small.readS me0 5).lab, thread0.pcl] = some (0, [0, 1, 2, 3]) ∧
    small.mayIssue me0 thread0 [.m 1] [] = true ∧ (small.ctx 0).dominates thread0.pcl (maskLbl team0 thread0 1) = true ∧
    small.mayIssue me0 thread0 [.m 0] [] = true ∧ small.mayIssue me0 thread0 [] [.m 0] = true ∧
    small.mayIssue me0 thread0 [] [.m 1] = true ∧ small.maskLabel me0 team0 1 thread0.f [thread0.pcl] = some (0, [0, 1, 2, 3]) ∧
    isNext (exec (.exmw 1) small) (small.finish (small.modThread me0 (fun x => { x with exm := 0x5 })) me0 {}) = true ∧
    isNext (exec (.exmr 1) small) (small.finish ((small.setLabels 0 [0, 1, 2, 3]).putMask 1 0 0 team0 1 0xF 0xF 0) me0 {}) = true :=
  ⟨small_at, by decide +kernel⟩
/-- The fragment of the small machine with m1 under label 1. -/
def team2 : Team := { team0 with m := [(1, { bits := 5, lab := 1 })] }
def owned : State := withTeam (fun t => { t with m := [(1, { bits := 5, lab := 1 })] })
def crew2 : Crew := { crew0 with body := { crew0.body with teams := [(0, team2)] } }
theorem owned_at : owned.AtFrag 1 0 0 crew2 team2 thread0 := ⟨rfl, rfl, rfl, rfl⟩
theorem witness_MaskMoves_span : owned.AtFrag 1 0 0 crew2 team2 thread0 ∧ owned.mayIssue me0 thread0 [.m 1] [] = true ∧
    (owned.ctx 0).dominates thread0.pcl (maskLbl team2 thread0 1) = false ∧
    traps (exec (.exmw 1) owned) 0x0D 0 = true :=
  ⟨owned_at, by decide +kernel⟩
theorem witness_MaskFrame : small.AtFrag 1 0 0 crew0 team0 thread0 ∧
    maskResult (.mlog .andn 3 1 2) small me0 team0 thread0 = some (3, [.m 1, .m 2], [0, 0], 0x1) ∧
    thread0.pend.any (fun p => p.held.isSome) = false ∧ small.mayIssue me0 thread0 [.m 1, .m 2] [.m 3] = true ∧
    small.maskLabel me0 team0 3 thread0.exm [0, 0, 0] = some (0, [0, 1, 2, 3]) := ⟨small_at, by decide +kernel⟩

/-- The result of VADD on the small machine. -/
def added : VecResult := intResult team0 .i32 false 5 [1, 2] (fun x => argI x 0 + argI x 1)
theorem witness_VectorResults : vecResult (.vadd .i32 false 5 1 2) small me0 team0 thread0 = some added ∧
    small.AtFrag 1 0 0 crew0 team0 thread0 ∧ small.mayIssue me0 thread0 added.names [.v 5] = true ∧
    wordLabels team0 thread0.exm 5 (fun g => added.labs g ++ [thread0.pcl]) (mgroups thread0.exm) small = .ok [(0, 0)] small ∧
    crew0.wordsFit 0 5 thread0.exm = true ∧
    isNext (exec (.vadd .i32 false 5 1 2) small) (small.finish (((small.logged 1 (crew0.wordsNew 0 5 thread0.exm)).putVec 1 0 5 thread0.exm [(0, 0)] added.lane).opened me0 [.v 5] added.win) me0 {}) = true :=
  ⟨rfl, small_at, by decide +kernel, ok_of (by decide +kernel), by decide +kernel, by decide +kernel⟩
theorem witness_VectorResults_idle : idle.AtFrag 1 0 0 crew1 team1 thread1 ∧ idle.hasName me0 (.v 5) = true ∧
    idle.mayIssue me0 thread1 [.v 1] [] = true ∧
    isNext (exec (.vfrcp 3 .rn 5 1) idle) (idle.finish (idle.opened me0 [.v 5] (some (3, classTr))) me0 {}) = true :=
  ⟨idle_at, by decide +kernel⟩
theorem witness_VectorFrame : vecResult (.vadd .i32 false 5 1 2) small me0 team0 thread0 = some added ∧
    small.AtFrag 1 0 0 crew0 team0 thread0 ∧ thread0.pend.any (fun p => p.held.isSome) = false ∧ thread0.exm ≠ 0 ∧
    small.mayIssue me0 thread0 added.names [.v 5] = true ∧
    wordLabels team0 thread0.exm 5 (fun g => added.labs g ++ [thread0.pcl]) (mgroups thread0.exm) small = .ok [(0, 0)] small ∧
    crew0.wordsFit 0 5 thread0.exm = true :=
  ⟨rfl, small_at, by decide +kernel, by decide +kernel, by decide +kernel, ok_of (by decide +kernel), by decide +kernel⟩

/-! ### Control -/

def coded : State := withMem []
theorem coded_at : coded.AtFrag 1 0 0 crew0 team0 thread0 := ⟨rfl, rfl, rfl, rfl⟩
theorem coded_turn : coded.Turn me0 thread0 := ⟨rfl, rfl⟩
/-- The state after the read of some headers. -/
def readAt (s : State) (vas : List Int) : State := (s.headersAt me0 vas).getD small
theorem witness_ControlMoves_nop : small.Turn me0 thread0 ∧ small.mayIssue me0 thread0 [] [] = true ∧ thread0.heldFree = true ∧
    isNext (exec .nop small) (small.finish (small.closed me0 thread0) me0 {}) = true ∧
    isNext (exec .yield small) (small.finish (small.closed me0 thread0) me0 {}) = true := ⟨small_turn, by decide +kernel⟩
theorem witness_ControlMoves_jumps : coded.Turn me0 thread0 ∧ coded.mayIssue me0 thread0 [] [.s 62] = true ∧
    coded.headersAt me0 [targetOf thread0 15] = some (readAt coded [0x110080]) ∧
    isNext (exec (.bra 15) coded) (coded.finish ((readAt coded [0x110080]).closed me0 thread0) me0 { ctl := .jump 0x110080 }) = true ∧
    isNext (exec (.call 15) coded) (coded.finish (((readAt coded [0x110080]).closed me0 thread0).writeS me0 62
      { val := 0x110018, lab := 0 }) me0 { ctl := .jump 0x110080 }) = true := ⟨coded_turn, by decide +kernel⟩
/-- lnk holds the address of the header at 0x110088. -/
def linked : State := coded.writeS me0 62 { val := 0x110088 }
theorem witness_ControlMoves_ret : linked.Turn me0 thread0 ∧ linked.mayIssue me0 thread0 [.s 62] [] = true ∧
    linked.headersAt me0 [((linked.readS me0 62).val.toNat : Int)] = some (readAt linked [0x110088]) ∧
    (linked.ctx (linked.ctxOf me0)).dominates thread0.pcl (linked.readS me0 62).lab = true ∧
    isNext (exec .ret linked) (linked.finish ((readAt linked [0x110088]).closed me0 thread0) me0 { ctl := .jump 0x110088 }) = true ∧
    linked.unlabelled me0 thread0 (linked.readS me0 62).lab = true ∧
    isNext (exec (.brx 62) linked) (linked.finish ((readAt linked [0x110088]).moved me0 thread0 true) me0 { ctl := .jump 0x110088 }) =
      true := ⟨⟨rfl, rfl⟩, by decide +kernel⟩
theorem witness_ConditionalBranches_nz : coded.Turn me0 thread0 ∧ coded.mayIssue me0 thread0 [.s 1] [] = true ∧
    coded.unlabelled me0 thread0 (coded.readS me0 1).lab = true ∧ coded.regTest me0 .nz 1 = true ∧ thread0.heldFree = true ∧
    coded.headersAt me0 [targetOf thread0 15, targetOf thread0 16] = some (readAt coded [0x110080, 0x110088]) ∧
    isNext (exec (.brc .nz 1 15 16) coded) (coded.finish ((readAt coded [0x110080, 0x110088]).moved me0 thread0 true) me0
      { ctl := .jump 0x110080 }) = true := ⟨coded_turn, by decide +kernel⟩
theorem witness_ConditionalBranches_z : coded.Turn me0 thread0 ∧ coded.mayIssue me0 thread0 [.s 1] [] = true ∧
    coded.unlabelled me0 thread0 (coded.readS me0 1).lab = true ∧ coded.regTest me0 .z 1 = false ∧
    coded.headersAt me0 [] = some coded ∧
    isNext (exec (.brc .z 1 15 0) coded) (coded.finish (coded.moved me0 thread0 false) me0 { ctl := .next }) = true :=
  ⟨coded_turn, by decide +kernel⟩
theorem witness_ConditionalBranches_mask : coded.AtFrag 1 0 0 crew0 team0 thread0 ∧ coded.mayIssue me0 thread0 [.m 1] [] = true ∧
    coded.unlabelled me0 thread0 (maskLbl team0 thread0 1) = true ∧ (coded.brTest me0 team0 thread0 .any 1).1 = true ∧
    (coded.brTest me0 team0 thread0 .all 1).1 = false ∧
    isNext (exec (.brc .any 1 15 0) coded) (coded.finish ((readAt coded [0x110080]).moved me0 thread0 true) me0
      { ctl := .jump 0x110080 }) = true ∧
    isNext (exec (.brc .all 1 15 0) coded) (coded.finish (coded.moved me0 thread0 false) me0 { ctl := .next }) = true :=
  ⟨coded_at, by decide +kernel⟩
/-- A span for v4 and v5 is armed, s6 and m1 carry label 1, and the clearance is label 3. -/
def span45 : Span := { vlo := 4, vn := 2, smask := 0 }
def thread3 : Thread := { thread0 with armed := some span45 }
def team3 : Team := { team2 with frags := [(0, thread3)], clear := 3 }
def crew3 : Crew := { crew0 with body := { crew0.body with teams := [(0, team3)] } }
def armed : State := { coded with crews := [(1, crew3)] }
theorem armed_at : armed.AtFrag 1 0 0 crew3 team3 thread3 := ⟨rfl, rfl, rfl, rfl⟩
theorem witness_LabelledBranches : armed.AtFrag 1 0 0 crew3 team3 thread3 ∧ armed.mayIssue me0 thread3 [brName .nz 6] [] = true ∧
    thread3.heldFree = true ∧ armed.headersAt me0 [targetOf thread3 15, targetOf thread3 16] =
      some (readAt armed [0x110080, 0x110088]) ∧
    (armed.ctx 0).dominates team3.clear (armed.brTest me0 team3 thread3 .nz 6).2 = true ∧
    (armed.ctx 0).dominates thread3.pcl (armed.brTest me0 team3 thread3 .nz 6).2 = false ∧ thread3.armed = some span45 ∧
    thread3.openSpan = none ∧ armed.joined me0 [thread3.pcl, (armed.brTest me0 team3 thread3 .nz 6).2] = some (1, [0, 1, 2, 3]) ∧
    isNext (exec (.brc .nz 6 15 16) armed) (armed.finish
      (((((readAt armed [0x110080, 0x110088]).setLabels 0 [0, 1, 2, 3]).closed me0 thread3).modTeam 1 0 (fun x =>
        { x with nextSid := 1 })).spanOpened me0 0 0x110088 1 { span := span45, cond := 1, groups := [0] } true) me0
      { ctl := .jump 0x110080 }) = true := ⟨armed_at, by decide +kernel⟩
theorem witness_LabelledBranches_faults : owned.AtFrag 1 0 0 crew2 team2 thread0 ∧
    owned.mayIssue me0 thread0 [brName .z 6] [] = true ∧ (owned.brTest me0 team2 thread0 .z 6).1 = false ∧
    owned.headersAt me0 [] = some owned ∧
    (owned.ctx 0).dominates team2.clear (owned.brTest me0 team2 thread0 .z 6).2 = false ∧
    traps (exec (.brc .z 6 15 0) owned) 0x0B 0 = true ∧
    traps (exec (.brc .z 6 15 0) { armed with hbm := owned.hbm }) 0x0D 0 = true := ⟨owned_at, by decide +kernel⟩
theorem witness_ConditionalBranches_loop : coded.Turn me0 thread0 ∧ coded.mayIssue me0 thread0 [.s 5] [.s 5] = true ∧
    (coded.readS me0 5).val ≠ 1 ∧ thread0.heldFree = true ∧
    coded.headersAt me0 [targetOf thread0 15] = some (readAt coded [0x110080]) ∧
    (readAt coded [0x110080]).joined me0 [((readAt coded [0x110080]).readS me0 5).lab, thread0.pcl] = some (0, [0, 1, 2, 3]) ∧
    ((readAt coded [0x110080]).setLabels (coded.ctxOf me0) [0, 1, 2, 3]).unlabelled me0 thread0 0 = true ∧
    isNext (exec (.loop 5 15 0) coded) (coded.finish ((((readAt coded [0x110080]).closed me0 thread0).writeS me0 5
      { val := 1, lab := 0 }).modThread me0 (fun x => { x with armed := none })) me0 { ctl := .jump 0x110080 }) = true :=
  ⟨coded_turn, by decide +kernel⟩
theorem witness_ConditionalBranches_loop_end : (coded.writeS me0 9 { val := 1 }).Turn me0 thread0 ∧
    ((coded.writeS me0 9 { val := 1 }).readS me0 9).val = 1 ∧
    (coded.writeS me0 9 { val := 1 }).mayIssue me0 thread0 [.s 9] [.s 9] = true ∧
    isNext (exec (.loop 9 15 0) (coded.writeS me0 9 { val := 1 })) ((coded.writeS me0 9 { val := 1 }).finish
      ((coded.writeS me0 9 { val := 0, lab := 0 }).modThread me0 (fun x => { x with armed := none })) me0 { ctl := .next }) = true :=
  ⟨⟨rfl, rfl⟩, by decide +kernel⟩
theorem witness_BrvResult : coded.AtFrag 1 0 0 crew0 team0 thread0 ∧ coded.mayIssue me0 thread0 [.m 1] [] = true ∧
    (readAt coded [0x110080, 0x110088]).splitsFull crew0 team0 = false ∧
    thread0.exm &&& maskVal team0 thread0 1 ≠ 0 ∧ thread0.exm &&& maskVal team0 thread0 1 ≠ thread0.exm ∧
    coded.headersAt me0 [targetOf thread0 15, targetOf thread0 16] = some (readAt coded [0x110080, 0x110088]) ∧
    coded.unlabelled me0 thread0 (maskLbl team0 thread0 1) = true ∧
    isNext (exec (.brv 1 15 16) coded) (coded.finish (((readAt coded [0x110080, 0x110088]).closed me0 thread0).split 1 0 0 crew0 team0
      thread0 0x110080 0x110088 (maskVal team0 thread0 1) none 0) me0 { ctl := .stay }) = true ∧
    isNext (exec (.brv 3 15 16) coded) (coded.finish ((readAt coded [0x110088]).moved me0 thread0 false) me0 { ctl := .next }) = true ∧
    isNext (exec (.brv 0 15 16) coded) (coded.finish ((readAt coded [0x110080, 0x110088]).moved me0 thread0 true) me0
      { ctl := .jump 0x110080 }) = true := ⟨coded_at, by decide +kernel⟩
theorem witness_BrvResult_span : armed.AtFrag 1 0 0 crew3 team3 thread3 ∧ armed.mayIssue me0 thread3 [.m 1] [] = true ∧
    (armed.ctx 0).dominates team3.clear (maskLbl team3 thread3 1) = true ∧
    (armed.ctx 0).dominates thread3.pcl (maskLbl team3 thread3 1) = false ∧
    armed.joined me0 [thread3.pcl, maskLbl team3 thread3 1] = some (1, [0, 1, 2, 3]) ∧
    isNext (exec (.brv 1 15 16) armed) (armed.finish ((((readAt armed [0x110080, 0x110088]).setLabels 0 [0, 1, 2, 3]).closed me0
      thread3).split 1 0 0 crew3 team3 thread3 0x110080 0x110088 (maskVal team3 thread3 1)
      (some { span := span45, cond := 1, groups := [0] }) 1) me0 { ctl := .stay }) = true := ⟨armed_at, by decide +kernel⟩

/-- Two of four lanes are active. -/
def thread4 : Thread := { thread0 with exm := 0x3 }
def team4 : Team := { team0 with frags := [(0, thread4)] }
def crew4 : Crew := { crew0 with body := { crew0.body with teams := [(0, team4)] } }
def partly : State := { coded with crews := [(1, crew4)] }
theorem partly_at : partly.AtFrag 1 0 0 crew4 team4 thread4 := ⟨rfl, rfl, rfl, rfl⟩
theorem witness_ExitResults_some : partly.AtFrag 1 0 0 crew4 team4 thread4 ∧ partly.mayIssue me0 thread4 [] [] = true ∧
    thread4.heldFree = true ∧ thread4.f &&& ~~~thread4.exm ≠ 0 ∧
    isNext (exec .exit partly) (partly.finish (((partly.closed me0 thread4).lanesGone 1 0 0x3).modThread me0 (fun x =>
      { x with f := 0xC, exm := 0xC })) me0 {}) = true := ⟨partly_at, by decide +kernel⟩
theorem witness_ExitResults_all : small.AtFrag 1 0 0 crew0 team0 thread0 ∧ thread0.f &&& ~~~thread0.exm = 0 ∧
    team0.phase ≠ .claim ∧ team0.phase ≠ .commit ∧ crew0.copy = .solo ∧
    isNext (exec .exit small) (small.finish (({ ((small.closed me0 thread0).lanesGone 1 0 0xF).endFrag 1 0 0 with
      cur := none }.endGrant 1).retireCrew 1) me0 { ctl := .stay }) = true := ⟨small_at, by decide +kernel⟩
/-- The stream of a grant. -/
def seq0 : SeqCtx := { kind := .matrix, team := 0, th := { pc := 0x110100, clause := [0], eng := .matrix }
                       s := [(4, { val := 0x40000000 }), (6, { val := 0x700040 })] }
def grant0 : Grant := { team := 0, tiles := [tile0], mseq := some 0, cseq := none }
def crew5 : Crew := { crew0 with body := { crew0.body with grant := some grant0, seqs := [(0, seq0)], nextSeq := 1 } }
theorem streaming_at : streaming.AtSeq 1 0 crew5 seq0 := ⟨rfl, rfl, rfl⟩
theorem granted_at : granted.AtFrag 1 0 0 crew5 team0 thread0 := ⟨rfl, rfl, rfl, rfl⟩
theorem witness_ExitResults_stream : streaming.AtSeq 1 0 crew5 seq0 ∧ streaming.mayIssue (.seq 1 0) seq0.th [] [] = true ∧
    seq0.th.heldFree = true ∧ crew5.copy = .solo ∧
    isNext (exec .exit streaming) (streaming.finish (({ (streaming.closed (.seq 1 0) seq0.th).modCrew 1 (fun c => c.modBody (fun b =>
      ({ b with seqs := kvModify b.seqs 0 (fun q => { q with ended := true, rdv := true }) } : Body).arriveRdv (.seq 1 0)))
      with cur := none }.endGrant 1).retireCrew 1) (.seq 1 0) { ctl := .stay }) = true := ⟨streaming_at, by decide +kernel⟩
/-- Supervisor core 3 has the turn. -/
def thread5 : Thread := { pc := 0x1000, clause := [0, 0], eng := .supervisor, priv := .devSup }
def supervised : State := { small with cur := some (.sup 3), sups := [(3, { th := thread5, s := [(1, { val := 0x1007 })] })] }
theorem supervised_turn : supervised.Turn (.sup 3) thread5 := ⟨rfl, rfl⟩
theorem witness_ExitResults_sup : supervised.Turn (.sup 3) thread5 ∧ supervised.mayIssue (.sup 3) thread5 [] [] = true ∧
    thread5.heldFree = true ∧
    isNext (exec .exit supervised) (supervised.finish (supervised.closed (.sup 3) thread5) (.sup 3) {}) = true :=
  ⟨supervised_turn, by decide +kernel⟩

/-! ### Exceptions -/

theorem witness_TrapsAndHalt : small.AtFrag 1 0 0 crew0 team0 thread0 ∧ small.mayIssue me0 thread0 [] [] = true ∧
    thread0.handler = false ∧ team0.frame = none ∧ thread0.heldFree = true ∧ (small.ctx crew0.vf).breakpoints = false ∧
    traps (exec (.trap 0x1FFFFFF) small) 0x21 0 = true ∧
    traps (exec (.bkpt 1) small) 0x20 0 = true ∧
    traps (exec .halt small) 0x1C 0 = true := ⟨small_at, by decide +kernel⟩
theorem witness_TrapsAndHalt_debugger : ((small.modCtx 0 (fun c => { c with breakpoints := true })).ctx crew0.vf).breakpoints = true ∧
    isNext (exec (.bkpt 1) (small.modCtx 0 (fun c => { c with breakpoints := true })))
      ((small.modCtx 0 (fun c => { c with breakpoints := true })).parkThread me0 .debugger) = true ∧
    thread5.heldFree = true ∧ isNext (exec .halt supervised) ((supervised.closed (.sup 3) thread5).parkThread (.sup 3) .halted) =
      true := by decide +kernel
theorem witness_HandlerEntries_local : ∀ k, k < 0x2200 → small.refused (lineOf (0x250000 + k)) = false :=
  fun _ _ => small.refused_local _ (by omega)
theorem witness_HandlerEntries : small.AtFrag 1 0 0 crew0 team0 thread0 ∧ crew0.copy = .solo ∧ (small.ctx crew0.vf).tvec ≠ 0 ∧
    small.poolAddr crew0.vf (teamArea (small.ctx crew0.vf) crew0.block 0) = some 0x250000 ∧
    goesTo (.next (small.enterHandler 1 0 0 { code := 0x0C, sub := 2, lanes := 0x6 })) (fun u =>
      u.home64 0x250000 == 0x110000 && u.homeByte 0x250009 == 0x0C && u.homeByte 0x25000A == 2 && u.homeByte 0x250030 == 0xF &&
      u.homeByte 0x250100 == 6 && u.homeByte 0x252200 == 0) = true := ⟨small_at, by decide +kernel⟩
theorem witness_HandlerEntries_none : ((small.modCtx 0 (fun c => { c with tvec := 0 })).ctx crew0.vf).tvec = 0 ∧
    isNext (.next ((small.modCtx 0 (fun c => { c with tvec := 0 })).enterHandler 1 0 0 { code := 0x0C, lanes := 1 }))
      ((small.modCtx 0 (fun c => { c with tvec := 0 })).abortCrew 1 0x0C 0x110000) = true := by decide +kernel
/-- The handler of the tests, part by part. -/
def frame0 : TrapFrame := frameOf 0 { thread0 with exm := 7 } { code := 0x21, sub := 1, lanes := 3, info := some 5 }
def thread6 : Thread := { thread0 with pc := 0x500840, clause := [0], exm := 3, priv := .ctxSup, handler := true }
def team6 : Team := { team0 with frags := [(0, thread6)], frame := some frame0 }
def crew6 : Crew := { crew0 with body := { crew0.body with teams := [(0, team6)] } }
theorem handling_at : handling.AtFrag 1 0 0 crew6 team6 thread6 := ⟨rfl, rfl, rfl, rfl⟩
theorem witness_TrapReturns : handling.AtFrag 1 0 0 crew6 team6 thread6 ∧ team6.frame = some frame0 ∧ frame0.frag = 0 ∧
    thread6.handler = true ∧ thread6.heldFree = true ∧ frame0.slot ≠ 16 ∧
    isNext (exec .tretSkip handling) (handling.finish { ((handling.closed me0 thread6).modTeam 1 0 (fun x => { x with frame := none })).modThread me0
      (fun x => { restoreThread frame0 x with pc := 0x110000, slot := 1, active := false, count := x.count + 1 })
      with cur := none } me0 { ctl := .stay }) = true := ⟨handling_at, by decide +kernel⟩
/-- A handler of a fault of the header at 0x110080. -/
def frame7 : TrapFrame := frameOf 0 { thread0 with pc := 0x110080, clause := [] } { code := 0x02, sub := 1, lanes := 3, header := true }
def team7 : Team := { team6 with frame := some frame7 }
def crew7 : Crew := { crew0 with body := { crew0.body with teams := [(0, team7)] } }
def atHeader : State := { coded with crews := [(1, crew7)] }
theorem witness_TrapReturns_header : atHeader.AtFrag 1 0 0 crew7 team7 thread6 ∧ team7.frame = some frame7 ∧ frame7.slot = 16 ∧
    goesTo (exec .tretSkip atHeader) (fun u => (u.thread? me0).any (fun th => th.pc == 0x110090 && th.slot == 0)) = true ∧
    goesTo (exec .tretRetry atHeader) (fun u => (u.thread? me0).any (fun th => th.pc == 0x110080 && th.slot == 0)) = true :=
  ⟨⟨rfl, rfl, rfl, rfl⟩, by decide +kernel⟩
theorem witness_ProgramCounter : small.AtFrag 1 0 0 crew0 team0 thread0 ∧ thread0.pend.any (fun p => p.held.isSome) = false ∧
    small.thread? me0 = some thread0 ∧ (Ctl.next ≠ Ctl.stay) ∧ thread0.slot + 1 < thread0.clause.length ∧
    ¬ thread4.slot + 2 < thread4.clause.length := ⟨small_at, by decide +kernel⟩

end Sys2Proof.Tests
end

