-- ==== Sys2Proof/Tests/WitnessesMemory.lean ====
section
/-! SUPPORT. Witnesses for the statements about loads, stores, the scratchpad and atomics: states and operands that meet their
hypotheses together, with their conclusions there. -/

namespace Sys2Proof.Tests
open Sys2Proof.Machine
set_option Elab.async false

/-- What a computation that goes well answers, and the state that it leaves. -/
def okR {α : Type} (r : EStateM.Result Stop State α) : Bool := match r with | .ok _ _ => true | .error _ _ => false
def valOf {α : Type} [Inhabited α] (r : EStateM.Result Stop State α) : α := match r with | .ok a _ => a | .error _ _ => default
def stOf {α : Type} (r : EStateM.Result Stop State α) : State := match r with | .ok _ s => s | .error _ s => s
theorem ok_self {α : Type} [Inhabited α] {r : EStateM.Result Stop State α} (h : okR r = true) : r = .ok (valOf r) (stOf r) := by
  cases r with
  | ok a s => rfl
  | error e s => simp [okR] at h

/-! ### Uniform loads and stores -/

def loading : State := withMem [(0x200000, 0x8899AABBCCDDEEFF)]
def loadAcc : Acc := loading.uniAccess me0 2 4 63 0
def loadChk : EStateM.Result Stop State (List Loc) := checkAcc .load loadAcc loading
def loadVal : EStateM.Result Stop State (List Nat) := loadAll .core .rlx 2 (valOf loadChk) ((stOf loadChk).setLabels 0 [0, 1, 2, 3])
theorem loading_turn : loading.Turn me0 thread0 := ⟨rfl, rfl⟩
theorem witness_UniformLoads : loading.Turn me0 thread0 ∧ loadChk = .ok (valOf loadChk) (stOf loadChk) ∧
    loadVal = .ok (valOf loadVal) (stOf loadVal) ∧ loading.mayIssue me0 thread0 [.s 4, .s 63] [.s 7] = true ∧
    (stOf loadChk).ctxOf me0 = 0 ∧ (stOf loadVal).cur = some me0 ∧
    (stOf loadChk).joined me0 ((valOf loadChk).map (fun x => (stOf loadChk).granLab x.line) ++ loadAcc.alab ++ [thread0.pcl]) =
      some (0, [0, 1, 2, 3]) ∧
    isNext (exec (.sld 0 .i16 .core .rlx 7 4 63 0) loading) (loading.finish (((stOf loadVal).writeS me0 7
      { val := 0xFFFFFFFFFFFFEEFF, lab := 0 }).opened me0 [.s 7] (some (0, classLd))) me0 {}) = true :=
  ⟨loading_turn, ok_self (by decide +kernel), ok_self (by decide +kernel), by decide +kernel⟩
/-- The location of the data page's first bytes. -/
def loc0 : Loc := { lane := 0, va := 0x100000, pa := 0x200000, pte := 0x30080, entry := 0x200005, large := false }
def readLoc : EStateM.Result Stop State Nat := loadLoc .core .rlx 2 loc0 loading
theorem witness_RelaxedLoadReads : loading.Turn me0 thread0 ∧ agentCid me0 = some 1 ∧ kvFind loading.crews 1 = some crew0 ∧
    loading.plainLoc 1 crew0 loc0 = true ∧ okIs readLoc 0xEEFF (loading.readBy crew0 true loc0) = true :=
  ⟨loading_turn, rfl, rfl, by decide +kernel⟩
def storeAcc : Acc := small.uniAccess me0 8 4 63 8
def storeChk : EStateM.Result Stop State (List Loc) := checkAcc .store storeAcc small
def storeLab : EStateM.Result Stop State Lbl := joinAll ([(small.readS me0 3).lab] ++ storeAcc.alab ++ [thread0.pcl]) (stOf storeChk)
theorem store_granted : GrantedU .store storeAcc ([(small.readS me0 3).lab] ++ storeAcc.alab ++ [thread0.pcl]) small (valOf storeChk)
    (valOf storeLab) (stOf storeLab) :=
  ⟨stOf storeChk, ok_self (by decide +kernel), ok_of (by decide +kernel), ok_self (by decide +kernel), ok_of (by decide +kernel)⟩
def storeDone : EStateM.Result Stop State Done :=
  storeLocs .core .rlx 8 (fun _ => 0) ((valOf storeChk).map (fun x => (x, 0xFFFFFFFFFFFFFFFF))) (stOf storeLab)
theorem witness_UniformStores : small.Turn me0 thread0 ∧ storeDone = .ok {} (stOf storeDone) ∧
    small.mayIssue me0 thread0 [.s 4, .s 63, .s 3] [] = true ∧
    isNext (exec (.sst .i64 .core .rlx 3 4 63 8) small) (small.finish (stOf storeDone) me0 {}) = true :=
  ⟨small_turn, ok_of (by decide +kernel), by decide +kernel⟩
theorem witness_StoresHeld : small.AtFrag 1 0 0 crew0 team0 thread0 ∧ crew0.copy = .solo ∧ thread0.relNext = none ∧
    small.plainLocs 1 crew0 [loc0, loc0] = true ∧ small.linesFit crew0 [loc0.line, loc0.line] = true ∧
    okIs (storeLocs .core .rlx 4 (fun _ => 0) [(loc0, 5), (loc0, 6)] small) {} (((((small.touched 1 crew0 loc0).touched 1 crew0 loc0).modCrew 1
      (fun c => c.hold (storeBytes 4 [(loc0, 5), (loc0, 6)]))).l1Trim 0 0).modThread me0 (fun th => { th with outSt := th.outSt + 1 })) = true ∧
    storeBytes 4 [(loc0, 5), (loc0, 6)] = [(0x200000, 6), (0x200001, 0), (0x200002, 0), (0x200003, 0)] :=
  ⟨small_at, by decide +kernel⟩
theorem witness_StoresHeld_read : (([(0x200000, 6), (0x200001, 0)] : List (Nat × Byte)).map Prod.fst).Nodup ∧
    (kvKeys crew0.body.pad.filled).Nodup := by decide +kernel
/-- The location that the witness of the frame stores to. -/
def loc8 : Loc := { loc0 with va := 0x100008, pa := 0x200008 }
theorem witness_UniformStoreFrame : small.AtFrag 1 0 0 crew0 team0 thread0 ∧ crew0.copy = .solo ∧ thread0.relNext = none ∧
    thread0.pend.any (fun p => p.held.isSome) = false ∧ small.mayIssue me0 thread0 [.s 4, .s 63, .s 3] [] = true ∧
    valOf storeChk = [loc8] ∧ (stOf storeLab).plainLoc 1 crew0 loc8 = true ∧ (stOf storeLab).linesFit crew0 [loc8.line] = true ∧
    (kvKeys crew0.body.pad.filled).Nodup ∧
    (stOf storeLab).l1Size 0 0 + 1 + (crew0.body.pad.hits loc8.line).length ≤ Config.l1Lines ∧
    (stOf storeLab).crews.all (fun e => e.1 == 1) = true :=
  ⟨small_at, by decide +kernel⟩

/-! ### Vector loads and stores -/

def vload : Acc × (Nat → List Lbl) := loading.laneAccess me0 team0 thread0 2 4 (some 1) true (-2)
def vloadChk : EStateM.Result Stop State (List Loc) := checkAcc .load vload.1 loading
def vloadFmt : EStateM.Result Stop State PUnit := checkFormat vload.1 .i16 (valOf vloadChk) (stOf vloadChk)
def vloadLab (g : Nat) : List Lbl :=
  ((valOf vloadChk).filter (fun l => l.lane / 32 == g)).map (fun l => (stOf vloadFmt).granLab l.line) ++ vload.2 g
def vloadPre : EStateM.Result Stop State PUnit := prepareV 5 vloadLab (stOf vloadFmt)
def vloadVal : EStateM.Result Stop State (List Nat) := loadAll .core .rlx 2 (valOf vloadChk) (stOf vloadPre)
def vloadCrew : Crew := (kvFind (stOf vloadVal).crews 1).getD crew0
def vloadWords : EStateM.Result Stop State (List (Nat × Lbl)) :=
  wordLabels team0 thread0.exm 5 (fun g => vloadLab g ++ [thread0.pcl]) (mgroups thread0.exm) (stOf vloadVal)
theorem witness_VectorLoads : loading.AtFrag 1 0 0 crew0 team0 thread0 ∧ thread0.exm ≠ 0 ∧
    vloadChk = .ok (valOf vloadChk) (stOf vloadChk) ∧ vloadFmt = .ok (valOf vloadFmt) (stOf vloadFmt) ∧
    vloadPre = .ok (valOf vloadPre) (stOf vloadPre) ∧ vloadVal = .ok (valOf vloadVal) (stOf vloadVal) ∧
    vloadWords = .ok (valOf vloadWords) (stOf vloadWords) ∧ (stOf vloadVal).AtFrag 1 0 0 vloadCrew team0 thread0 ∧
    loading.mayIssue me0 thread0 ([.s 4] ++ idxName (some 1)) [.v 5] = true ∧
    vloadCrew.wordsFit 0 5 thread0.exm = true ∧
    isNext (exec (.vld 0 .i16 .core .rlx true 5 4 (some 1) (-2)) loading) (loading.finish ((((stOf vloadWords).logged 1
      (vloadCrew.wordsNew 0 5 thread0.exm)).putVec 1 0 5 thread0.exm (valOf vloadWords) (fun k => loadLane .i16
      (laneVal (((valOf vloadChk).zip (valOf vloadVal)).map (fun e => (e.1.lane, decodeLane (stOf vloadVal) .i16 e.1 e.2))) k))).opened
      me0 [.v 5] (some (0, classLd))) me0 {}) = true :=
  ⟨⟨rfl, rfl, rfl, rfl⟩, by decide +kernel, ok_self (by decide +kernel), ok_self (by decide +kernel), ok_self (by decide +kernel),
    ok_self (by decide +kernel), ok_self (by decide +kernel), by dsimp only [State.AtFrag]; decide +kernel, by decide +kernel,
    by decide +kernel, by decide +kernel⟩
theorem witness_VectorLoads_idle : idle.AtFrag 1 0 0 crew1 team1 thread1 ∧ thread1.exm = 0 ∧ idle.hasName me0 (.v 5) = true ∧
    idle.mayIssue me0 thread1 [.v 1, .v 2] [] = true ∧
    isNext (exec (.vldx 3 .b32 .core .rlx 5 1 0) idle) (idle.finish (idle.opened me0 [.v 5] (some (3, classLd))) me0 {}) = true :=
  ⟨idle_at, by decide +kernel⟩
def vstore : Acc × (Nat → List Lbl) := small.laneAccess me0 team0 thread0 2 4 (some 1) true 0
def vstoreChk : EStateM.Result Stop State (List Loc) := checkAcc .store vstore.1 small
def vstoreLab : EStateM.Result Stop State (List (Nat × Lbl)) :=
  groupLabels (mgroups thread0.exm) (fun g => [team0.vlab 2 g] ++ vstore.2 g ++ [thread0.pcl]) (stOf vstoreChk)
theorem vstore_granted : Granted .store vstore.1 (mgroups thread0.exm) (fun g => [team0.vlab 2 g] ++ vstore.2 g ++ [thread0.pcl]) small
    (valOf vstoreChk) (valOf vstoreLab) (stOf vstoreLab) :=
  ⟨stOf vstoreChk, ok_self (by decide +kernel), ok_of (by decide +kernel), ok_self (by decide +kernel), ok_of (by decide +kernel)⟩
def vstoreDone : EStateM.Result Stop State Done := storeLocs .core .rlx 2 (fun l => team0.vlab 2 (l / 32))
  ((valOf vstoreChk).map (fun l => (l, (team0.lane 2 l.lane).toNat % 2 ^ 16))) (stOf vstoreLab)
theorem witness_VectorStores : small.AtFrag 1 0 0 crew0 team0 thread0 ∧ vstoreDone = .ok {} (stOf vstoreDone) ∧
    small.mayIssue me0 thread0 ([.s 4] ++ idxName (some 1) ++ [.v 2]) [] = true ∧ thread0.exm ≠ 0 ∧
    isNext (exec (.vst .i16 .core .rlx true 2 4 (some 1) 0) small) (small.finish (stOf vstoreDone) me0 {}) = true :=
  ⟨small_at, ok_of (by decide +kernel), by decide +kernel⟩
theorem witness_VectorStores_idle : idle.AtFrag 1 0 0 crew1 team1 thread1 ∧ thread1.exm = 0 ∧
    idle.mayIssue me0 thread1 [.v 8, .v 9, .v 2] [] = true ∧
    isNext (exec (.vstx .b32 .core .rlx 2 8 0) idle) (idle.finish idle me0 {}) = true := ⟨idle_at, by decide +kernel⟩

/-! ### Faults of uniform accesses -/

/-- The small machine with an address in s4. -/
def aimed (v : Word) : State := small.writeS me0 4 { val := v }
theorem aimed_turn (v : Word) : (aimed v).Turn me0 thread0 := ⟨rfl, rfl⟩
theorem witness_UniformAccessFaults : (aimed 0x0100000000000000).Turn me0 thread0 ∧
    ((aimed 0x0100000000000000).uniAccess me0 4 4 63 0).eas = [(0, 0x0100000000000000)] ∧ canonical 0x0100000000000000 = false ∧
    (aimed 0x0100000000000000).mayIssue me0 thread0 [.s 4, .s 63] [.s 7] = true ∧
    traps (exec (.sld 0 .b32 .core .rlx 7 4 63 0) (aimed 0x0100000000000000)) 0x05 0 = true :=
  ⟨aimed_turn _, by decide +kernel⟩
theorem witness_UniformAccessFaults_half : (aimed 0x00FFFFFFFFFFFFFE).Turn me0 thread0 ∧ canonical 0x00FFFFFFFFFFFFFE = true ∧
    crosses 0x00FFFFFFFFFFFFFE 4 = true ∧ inAperture (small.apOf me0) 0x700000 4 = true ∧
    traps (exec (.sld 0 .b32 .core .rlx 7 4 63 0) (aimed 0x00FFFFFFFFFFFFFE)) 0x06 0 = true ∧
    traps (exec (.sst .b32 .core .rlx 1 4 63 0) (aimed 0x700000)) 0x06 0 = true := ⟨aimed_turn _, by decide +kernel⟩
theorem witness_UniformAccessFaults_aligned : (aimed 0x100002).Turn me0 thread0 ∧
    (aimed 0x100002).translate 0 (some 0) 0x100002 = .leaf 0x30080 0x200005 false ∧
    paReserved (pteAddr 0x200005 false 0x100002) = false ∧ small.egressOk 0 (small.normPa (pteAddr 0x200005 false 0x100002)) 4 true false = true ∧
    (0x100002 : Int) % 4 ≠ 0 ∧
    traps (exec (.sld 0 .b32 .core .rlx 7 4 63 0) (aimed 0x100002)) 0x1B 0 = true := ⟨aimed_turn _, by decide +kernel⟩
theorem witness_UniformAccessFaults_absent : (aimed 0x140000).Turn me0 thread0 ∧
    (aimed 0x140000).translate 0 (some 0) 0x140000 = .absent 0 ∧
    traps (exec (.sst .b32 .core .rlx 1 4 63 0) (aimed 0x140000)) 0x07 0 = true := ⟨aimed_turn _, by decide +kernel⟩

/-! ### The scratchpad -/

/-- The stash window's first line is in the scratchpad, and its second is not. -/
def crew8 : Crew := (kvFind stashed.crews 1).getD crew0
def team8 : Team := (kvFind crew8.body.teams 0).getD team0
theorem stashed_at : stashed.AtFrag 1 0 0 crew8 team8 thread0 := by dsimp only [State.AtFrag]; decide +kernel
def padAcc : Acc × (Nat → List Lbl) := stashed.laneAccess me0 team8 thread0 4 63 (some 1) true 128
def padChk : EStateM.Result Stop State (List (Nat × Loc)) := checkPad .load padAcc.1 stashed
def padLabs (g : Nat) : List Lbl :=
  (padAcc.1.eas.filter (fun e => e.1 / 32 == g)).map (fun e => match farLane (valOf padChk) e.1 with
    | some l => (stOf padChk).granLab l.line
    | none => crew8.body.pad.lab (padLine e.2.toNat)) ++ padAcc.2 g
def padPre : EStateM.Result Stop State PUnit := prepareV 5 padLabs (stOf padChk)
def crew9 : Crew := (kvFind (stOf padPre).crews 1).getD crew0
def padWords : EStateM.Result Stop State (List (Nat × Lbl)) :=
  wordLabels team8 thread0.exm 5 (fun g => padLabs g ++ [thread0.pcl]) (mgroups thread0.exm) (stOf padPre)
theorem witness_ScratchpadAccesses_load : stashed.AtFrag 1 0 0 crew8 team8 thread0 ∧ padChk = .ok (valOf padChk) (stOf padChk) ∧
    (stOf padChk).AtFrag 1 0 0 crew8 team8 thread0 ∧ padPre = .ok (valOf padPre) (stOf padPre) ∧
    (stOf padPre).AtFrag 1 0 0 crew9 team8 thread0 ∧ padWords = .ok (valOf padWords) (stOf padWords) ∧ thread0.exm ≠ 0 ∧
    stashed.mayIssue me0 thread0 ([.s 63] ++ idxName (some 1)) [.v 5] = true ∧
    checkPoisons (((valOf padChk).filter (fun w => w.2.ms)).map Prod.snd) (stOf padChk) = .ok ⟨⟩ (stOf padChk) ∧
    (padAcc.1.eas.filter (fun e => crew8.body.pad.absent.contains (padLine e.2.toNat) && (farLane (valOf padChk) e.1).isNone)) = [] ∧
    crew8.body.pad.holdsAll padAcc.1 ∧
    crew9.wordsFit 0 5 thread0.exm = true ∧
    isNext (exec (.vlds 2 .b32 true 5 63 (some 1) 128) stashed) (stashed.finish ((((stOf padWords).logged 1
      (crew9.wordsNew 0 5 thread0.exm)).putVec 1 0 5 thread0.exm (valOf padWords) (fun k => loadLane .b32
      (crew8.body.pad.nat (((padAcc.1.eas.find? (fun e => e.1 == k)).map (fun e => e.2.toNat)).getD 0) 4))).opened me0 [.v 5]
      (some (2, classSp))) me0 {}) = true :=
  ⟨stashed_at, ok_self (by decide +kernel), by dsimp only [State.AtFrag]; decide +kernel, ok_self (by decide +kernel),
    by dsimp only [State.AtFrag]; decide +kernel, ok_self (by decide +kernel), by decide +kernel, by decide +kernel, ok_of (by decide +kernel),
    by decide +kernel, by dsimp only [Pad.holdsAll]; decide +kernel, by decide +kernel⟩
theorem witness_ScratchpadAccesses_idle : idle.AtFrag 1 0 0 crew1 team1 thread1 ∧ thread1.exm = 0 ∧
    idle.mayIssue me0 thread1 [.s 63] [] = true ∧ idle.mayIssue me0 thread1 [.s 63, .v 2] [] = true ∧
    isNext (exec (.vlds 2 .b32 true 5 63 none 0) idle) (idle.finish (idle.opened me0 [.v 5] (some (2, classSp))) me0 {}) = true ∧
    isNext (exec (.vsts .b32 true 2 63 none 0) idle) (idle.finish idle me0 {}) = true := ⟨idle_at, by decide +kernel⟩
def heldAcc : Acc × (Nat → List Lbl) := stashed.laneAccess me0 team8 thread0 4 63 (some 1) true 252
def heldChk : EStateM.Result Stop State (List (Nat × Loc)) := checkPad .load heldAcc.1 stashed
def heldPre : EStateM.Result Stop State PUnit := prepareV 5 (fun g => (heldAcc.1.eas.filter (fun e => e.1 / 32 == g)).map (fun e =>
  crew8.body.pad.lab (padLine e.2.toNat)) ++ heldAcc.2 g) (stOf heldChk)
theorem witness_ScratchpadAccesses_held : heldChk = .ok (valOf heldChk) (stOf heldChk) ∧ heldPre = .ok (valOf heldPre) (stOf heldPre) ∧
    (stOf heldChk).AtFrag 1 0 0 crew8 team8 thread0 ∧ (∀ w ∈ valOf heldChk, w.2.ms = false) ∧
    (heldAcc.1.eas.filter (fun e => crew8.body.pad.absent.contains (padLine e.2.toNat) && (farLane (valOf heldChk) e.1).isNone)) ≠ [] ∧
    goesTo (exec (.vlds 2 .b32 true 5 63 (some 1) 252) stashed) (fun u => (u.thread? me0).any (fun th => th.pend.any (fun p =>
      p.dsts == [.v 5] && p.held.any (fun h => h.mask == 0xF && h.offs == [(0, 256), (1, 260), (2, 264), (3, 268)] && h.need == [2]))) &&
      (kvFind u.crews 1).any (fun c => c.body.pad.wanted == [(2, 0x4001)])) = true :=
  ⟨ok_self (by decide +kernel), ok_self (by decide +kernel), by dsimp only [State.AtFrag]; decide +kernel, by decide +kernel⟩
def padStAcc : Acc × (Nat → List Lbl) := small.laneAccess me0 team0 thread0 4 63 (some 1) true 0
def padStLab : EStateM.Result Stop State (List (Nat × Lbl)) :=
  groupLabels (mgroups thread0.exm) (fun g => [team0.vlab 2 g] ++ padStAcc.2 g ++ [thread0.pcl]) small
theorem witness_ScratchpadAccesses_store : small.AtFrag 1 0 0 crew0 team0 thread0 ∧ (stOf padStLab).AtFrag 1 0 0 crew0 team0 thread0 ∧
    crew0.body.pad.holdsAll padStAcc.1 ∧ padStLab = .ok (valOf padStLab) (stOf padStLab) ∧
    checkClaims padStAcc.1 (padStAcc.1.eas.filterMap (fun e => (crew0.body.pad.global e.2.toNat).map (fun g => (e.1, g.toNat)))) small =
      .ok ⟨⟩ small ∧
    checkFlow padStAcc.1 (padStAcc.1.eas.map (fun e => (e.1, crew0.body.pad.lab (padLine e.2.toNat)))) (fun l =>
      labOf (valOf padStLab) (l / 32)) (stOf padStLab) = .ok ⟨⟩ (stOf padStLab) ∧
    small.mayIssue me0 thread0 ([.s 63] ++ idxName (some 1) ++ [.v 2]) [] = true ∧
    (stOf padStLab).padFit crew0 (padStAcc.1.eas.map (fun e => padLine e.2.toNat)) = true ∧
    isNext (exec (.vsts .b32 true 2 63 (some 1) 0) small) (small.finish (((stOf padStLab).padStored 1 crew0 4
      (padStAcc.1.eas.map (fun e => (e.2.toNat, (team0.lane 2 e.1).toNat % 2 ^ 32)))).modThread me0 (fun y =>
        { y with outSt := y.outSt + 1 })) me0 {}) = true :=
  ⟨small_at, by dsimp only [State.AtFrag]; decide +kernel, by dsimp only [Pad.holdsAll]; decide +kernel, ok_self (by decide +kernel),
    ok_of (by decide +kernel), ok_of (by decide +kernel), by decide +kernel⟩
/-- A scratchpad whose second line a copy has still to fill. -/
def awaited : State := withCrew (fun c => c.modBody (fun b => { b with pad := { b.pad with absent := [1] } }))
theorem witness_ScratchpadAccesses_wait : awaited.mayIssue me0 thread0 ([.s 63] ++ idxName (some 1) ++ [.v 2]) [] = true ∧
    (∀ e ∈ (awaited.laneAccess me0 team0 thread0 4 63 (some 1) true 124).1.eas, 0 ≤ e.2 ∧ e.2 + 4 ≤ 1024 ∧ e.2 % 4 = 0) ∧
    (∃ e ∈ (awaited.laneAccess me0 team0 thread0 4 63 (some 1) true 124).1.eas, [1].contains (padLine e.2.toNat) = true) ∧
    isNext (exec (.vsts .b32 true 2 63 (some 1) 124) awaited) (awaited.parkThread me0 (keepPair thread0.park .line)) = true := by
  decide +kernel

def mapCrew : Crew := (kvFind mapArg.crews 1).getD crew0
def mapTeam : Team := (kvFind mapCrew.body.teams 0).getD team0
theorem mapArg_at : mapArg.AtFrag 1 0 0 mapCrew mapTeam thread0 := by dsimp only [State.AtFrag]; decide +kernel
theorem witness_StashAndPrefetch_map : mapArg.AtFrag 1 0 0 mapCrew mapTeam thread0 ∧
    mapArg.mayIssue me0 thread0 [.s 4, .s 7] [.s 20] = true ∧ ((mapArg.readS me0 4).val.toNat : Int) + 0 = 0x100000 ∧
    mapArg.joined me0 [(mapArg.readS me0 4).lab, (mapArg.readS me0 7).lab, thread0.pcl] = some (0, [0, 1, 2, 3]) ∧
    ((mapArg.readS me0 7).val.extractLsb' 0 32).toNat = 128 ∧ ((mapArg.readS me0 7).val.extractLsb' 32 32).toNat = 256 ∧
    128 + 256 ≤ mapCrew.body.pad.size ∧ mapCrew.body.pad.wins = [] ∧ lowestFree (kvKeys mapCrew.body.pad.wins) 8 = some 0 ∧
    isNext (exec (.stashMap 20 4 7 0) mapArg) (mapArg.finish (((mapArg.setLabels 0 [0, 1, 2, 3]).modCrew 1 (fun c => c.modBody (fun y =>
      { y with pad := { y.pad with
        wins := kvSet y.pad.wins 0 { va := 0x100000, off := 128, len := 256 }
        absent := [1, 2] } }))).writeS me0 20 { val := 0, lab := 0 }) me0 {}) = true ∧
    isNext (exec (.stashUnmap 20 4 7 0) mapArg) (mapArg.finish ((mapArg.setLabels 0 [0, 1, 2, 3]).writeS me0 20
      { val := allOnes, lab := 0 }) me0 {}) = true := ⟨mapArg_at, by decide +kernel⟩
/-- Eight windows are open. -/
def eightWins : State := mapArg.modCrew 1 (fun c => c.modBody (fun y => { y with pad := { y.pad with
  wins := (List.range 8).map (fun n => (n, { va := 0x200000 + 128 * n, off := 512 + 128 * n, len := 128 })), size := 8192 } }))
theorem witness_StashAndPrefetch_full : lowestFree ((List.range 8).map id) 8 = none ∧
    (List.range 8).all (fun n => !meets 128 256 (512 + 128 * n) 128 && !meets 0x100000 256 (0x200000 + 128 * n) 128) = true ∧
    isNext (exec (.stashMap 20 4 7 0) eightWins) (eightWins.finish ((eightWins.setLabels 0 [0, 1, 2, 3]).writeS me0 20
      { val := allOnes, lab := 0 }) me0 {}) = true := by decide +kernel
/-- A state in which the crew's access to the window's dirty line has been prepared. -/
def touch1 (s : State) : EStateM.Result Stop State PUnit := touchStash crew8.body.pad [1] (s.setLabels 0 [0, 1, 2, 3])
theorem witness_StashAndPrefetch_unmap : stashed.AtFrag 1 0 0 crew8 team8 thread0 ∧
    crew8.body.pad.wins.find? (fun e => e.2 == { va := 0x100000, off := 128, len := 256 }) =
      some (0, { va := 0x100000, off := 128, len := 256 }) ∧
    crew8.body.pad.dirtyLines.filter (fun k => decide (128 / 128 ≤ k) && decide (k < (128 + 256) / 128)) = [1] ∧
    okR (touch1 stashed) = true ∧ (stOf (touch1 stashed)).linesFit crew8 ([1].filterMap (kvFind crew8.body.pad.filled)) = true ∧
    decide (kvFind (stOf (touch1 stashed)).crews 1 = some crew8 ∧ (stOf (touch1 stashed)).cur = some me0) = true ∧
    isNext (exec (.stashUnmap 20 4 7 0) stashed) (stashed.finish ((((stOf (touch1 stashed)).flushed 1 crew8 [1]).modCrew 1 (fun c => c.modBody (fun y => { y with pad := { y.pad with
        wins := [], filled := [], wanted := [] } }))).writeS me0 20 { val := 1, lab := 0 }) me0 {}) = true :=
  ⟨stashed_at, by decide +kernel⟩
theorem witness_StashAndPrefetch_flush : (stashed.writeS me0 5 { val := 256 }).mayIssue me0 thread0 [.s 4, .s 5] [.s 20] = true ∧
    (crew8.body.pad.dirtyLines.filter (fun k => match crew8.body.pad.global (128 * k) with
      | some g => decide (0x100000 ≤ g) && decide (g < 0x100000 + 256)
      | none => false)) = [1] ∧
    isNext (exec (.stashFlush 20 4 5 0) (stashed.writeS me0 5 { val := 256 })) ((stashed.writeS me0 5 { val := 256 }).finish
      (((stOf (touch1 (stashed.writeS me0 5 { val := 256 }))).flushed 1 crew8 [1]).writeS me0 20
        { val := 1, lab := 0 }) me0 {}) = true ∧
    isNext (exec (.stashFlush 20 4 5 0) idle) (idle.finish idle me0 {}) = true := by decide +kernel
theorem witness_StashAndPrefetch_wait : stashed.Turn me0 thread0 ∧ stashed.mayIssue me0 thread0 [.s 63, .s 63] [] = true ∧
    crew8.body.pad.failed.contains 1 = false ∧ crew8.body.pad.absent.contains 1 = false ∧ crew8.body.pad.absent.contains 2 = true ∧
    isNext (exec (.spwait 63 63 128) stashed) (stashed.finish stashed me0 {}) = true ∧
    isNext (exec (.spwait 63 63 256) stashed) (stashed.parkThread me0 (keepPair thread0.park .line)) = true ∧
    isNext (exec (.vpref false 3 none 0) small) (small.finish ((small.laneAccess me0 team0 thread0 4 3 none false 0).1.eas.foldl (fun u e =>
      prefetch 0 0 0 (small.apOf me0) team0.pkr u e.2) small) me0 {}) = true ∧
    goesTo (exec (.vpref false 4 (some 1) 0) small) (fun u => u != small) = true :=
  ⟨by dsimp only [State.Turn]; decide +kernel, by decide +kernel⟩

/-! ### Atomics -/

/-- The old values that some operations have answered, and how the instruction ends. -/
def rmwOf (r : EStateM.Result Stop State (List Word × Done)) : List Word × Done :=
  match r with | .ok a _ => a | .error _ _ => ([], {})
theorem ok_rmw {r : EStateM.Result Stop State (List Word × Done)} (h : okR r = true) : r = .ok (rmwOf r) (stOf r) := by
  cases r with
  | ok a s => rfl
  | error e s => simp [okR] at h

theorem witness_AtomicUpdates : loading.AtFrag 1 0 0 crew0 team0 thread0 ∧ loading.bad loc0.line = false ∧
    (loading.l1 0 0).poison = [] ∧ loading.storable loc0.line = true ∧ loading.wtReady 0 0 [] = true ∧
    (loading.crews.all (fun e => e.2.body.pad.dirty.isEmpty && e.2.closed.isEmpty)) = true ∧
    okIs (rmwLoc true false 4 loc0 (fun v => some (v + 1)) loading) 0xCCDDEEFF ((loading.held 1 crew0
      (numBytes 0x200000 4 0xCCDDEF00)).unclean 0 0 loc0.line) = true ∧
    (stOf (rmwLoc false false 4 loc0 (fun v => some (v + 1)) loading)).homeNat 0x200000 4 = 0xCCDDEF00 ∧
    (stOf (rmwLoc false true 4 loc0 (fun _ => none) loading)).hbm = loading.hbm :=
  ⟨⟨rfl, rfl, rfl, rfl⟩, by decide +kernel⟩
def atom : Acc × (Nat → List Lbl) := loading.laneAccess me0 team0 thread0 4 4 none false 8
def atomChk : EStateM.Result Stop State (List Loc) := checkAcc .atomic atom.1 loading
def atomLab : EStateM.Result Stop State (List (Nat × Lbl)) :=
  groupLabels (mgroups thread0.exm) (fun g => [team0.vlab 1 g] ++ atom.2 g ++ [thread0.pcl]) (stOf atomChk)
theorem atom_granted : Granted .atomic atom.1 (mgroups thread0.exm) (fun g => [team0.vlab 1 g] ++ atom.2 g ++ [thread0.pcl]) loading
    (valOf atomChk) (valOf atomLab) (stOf atomLab) :=
  ⟨stOf atomChk, ok_self (by decide +kernel), ok_of (by decide +kernel), ok_self (by decide +kernel), ok_of (by decide +kernel)⟩
def redRun : EStateM.Result Stop State (List Word × Done) := rmwLocs .dev .rlx 4 false ((valOf atomChk).map (fun l =>
  { loc := l, f := fun old => some (combine .add .i32 old (team0.lane 1 l.lane)), operand := (team0.lane 1 l.lane).toNat
    lab := team0.vlab 1 (l.lane / 32) })) (stOf atomLab)
theorem witness_VectorAtomics_red : loading.AtFrag 1 0 0 crew0 team0 thread0 ∧ redRun = .ok (rmwOf redRun) (stOf redRun) ∧
    loading.mayIssue me0 thread0 (atomNames .uniform 4 ++ [.v 1]) [] = true ∧ thread0.exm ≠ 0 ∧
    ((stOf redRun).thread? me0).any (fun th => decide (th.exm ≠ 0)) = true ∧ (stOf redRun).cur = some me0 ∧
    isNext (exec (.red .i32 .dev .rlx .uniform .add 4 1 8) loading) (loading.finish ((stOf redRun).modThread me0
      (fun y => { y with outAt := y.outAt + 1 })) me0 (rmwOf redRun).2) = true :=
  ⟨⟨rfl, rfl, rfl, rfl⟩, ok_rmw (by decide +kernel), by decide +kernel⟩
theorem witness_VectorAtomics_idle : idle.AtFrag 1 0 0 crew1 team1 thread1 ∧ thread1.exm = 0 ∧
    idle.mayIssue me0 thread1 [.v 8, .v 9, .v 1] [] = true ∧
    isNext (exec (.red .i32 .dev .rlx .pair .add 8 1 0) idle) (idle.finish idle me0 {}) = true ∧
    isNext (exec (.atom 1 .i32 .dev .rlx .pair .add 5 8 1 0) idle) (idle.finish (idle.opened me0 [.v 5] (some (1, classAt))) me0 {}) =
      true ∧
    isNext (exec (.atomc 1 .dev .rlx .pair 5 8 1 0) idle) (idle.finish (idle.opened me0 [.v 5] (some (1, classAt))) me0 {}) =
      true := ⟨idle_at, by decide +kernel⟩
def casLab : EStateM.Result Stop State (List (Nat × Lbl)) :=
  groupLabels (mgroups thread0.exm) (fun g => ([2, 1] : List Nat).map (fun r => team0.vlab r g) ++ atom.2 g ++ [thread0.pcl])
    (stOf atomChk)
def casLabs (g : Nat) : List Lbl :=
  ((valOf atomChk).filter (fun l => l.lane / 32 == g)).map (fun l => (stOf casLab).granLab l.line) ++ [labOf (valOf casLab) g]
def casPre : EStateM.Result Stop State PUnit := prepareV 1 casLabs (stOf casLab)
def casRun : EStateM.Result Stop State (List Word × Done) := rmwLocs .dev .rlx 4 true ((valOf atomChk).map (fun l =>
  { loc := l, f := fun old => if old = (team0.lane 1 l.lane).toNat then some (team0.lane 2 l.lane).toNat else none
    operand := (team0.lane 2 l.lane).toNat, lab := team0.vlab 2 (l.lane / 32) })) (stOf casPre)
def casCrew : Crew := (kvFind (stOf casRun).crews 1).getD crew0
def casTeam : Team := (kvFind casCrew.body.teams 0).getD team0
def casThread : Thread := (kvFind casTeam.frags 0).getD thread0
def casWords : EStateM.Result Stop State (List (Nat × Lbl)) :=
  wordLabels casTeam thread0.exm 1 (fun g => casLabs g ++ [casThread.pcl]) (mgroups thread0.exm) (stOf casRun)
theorem casWords_ok : casWords = .ok (valOf casWords) (stOf casWords) := ok_self (by decide +kernel)
theorem witness_VectorAtomics_atomc : loading.AtFrag 1 0 0 crew0 team0 thread0 ∧
    loading.mayIssue me0 thread0 (atomNames .uniform 4 ++ ([2, 1] : List Nat).map .v) [.v 1] = true ∧
    Granted .atomic atom.1 (mgroups thread0.exm) (fun g => ([2, 1] : List Nat).map (fun r => team0.vlab r g) ++ atom.2 g ++ [thread0.pcl])
      loading (valOf atomChk) (valOf casLab) (stOf casLab) ∧ casPre = .ok ⟨⟩ (stOf casPre) ∧ casRun = .ok (rmwOf casRun) (stOf casRun) ∧
    (stOf casRun).AtFrag 1 0 0 casCrew casTeam casThread ∧ casWords = .ok (valOf casWords) (stOf casWords) ∧ (casThread.exm == thread0.exm) = true ∧
    casCrew.wordsFit 0 1 thread0.exm = true ∧
    isNext (exec (.atomc 2 .dev .rlx .uniform 1 4 2 8) loading) (loading.finish ((((stOf casWords).logged 1
      (casCrew.wordsNew 0 1 thread0.exm)).putVec 1 0 1 thread0.exm (valOf casWords)
      (fun k => BitVec.ofNat 32 (laneVal (((valOf atomChk).zip (rmwOf casRun).1).map (fun e => (e.1.lane, e.2.toNat))) k))).opened me0 [.v 1]
      (some (2, classAt))) me0 (rmwOf casRun).2) = true :=
  ⟨⟨rfl, rfl, rfl, rfl⟩, by decide +kernel, ⟨stOf atomChk, ok_self (by decide +kernel), ok_of (by decide +kernel),
    ok_self (by decide +kernel), ok_of (by decide +kernel)⟩, ok_of (by decide +kernel), ok_rmw (by decide +kernel),
    by dsimp only [State.AtFrag]; decide +kernel, casWords_ok, by decide +kernel⟩
def satAcc : Acc := { uni := true, size := 8, eas := [(0, eaUniform (loading.readS me0 4).val 0 8)]
                      alab := [(loading.readS me0 4).lab] ++ loading.claimLabs me0 }
def satChk : EStateM.Result Stop State (List Loc) := checkAcc .atomic satAcc loading
def satLab : EStateM.Result Stop State Lbl := joinAll ([(loading.readS me0 3).lab] ++ satAcc.alab ++ [thread0.pcl]) (stOf satChk)
def satRun : EStateM.Result Stop State (List Word × Done) := rmwLocs .dev .rlx 8 true ((valOf satChk).map (fun y =>
  { loc := y, f := fun old => some (combine64 .min true old (loading.readS me0 3).val), operand := (loading.readS me0 3).val.toNat
    lab := (loading.readS me0 3).lab })) ((stOf satLab).setLabels 0 [0, 1, 2, 3])
theorem witness_UniformAtomics : loading.Turn me0 thread0 ∧ loading.mayIssue me0 thread0 [.s 4, .s 3] [.s 7] = true ∧
    GrantedU .atomic satAcc ([(loading.readS me0 3).lab] ++ satAcc.alab ++ [thread0.pcl]) loading (valOf satChk) (valOf satLab)
      (stOf satLab) ∧ satRun = .ok (rmwOf satRun) (stOf satRun) ∧ (stOf satLab).Turn me0 thread0 ∧
    (stOf satLab).joined me0 ((valOf satChk).map (fun y => (stOf satLab).granLab y.line) ++ [valOf satLab]) =
      some (0, [0, 1, 2, 3]) ∧ (stOf satRun).cur = some me0 ∧
    isNext (exec (.satom 1 true .dev .rlx .min 7 4 3 8) loading) (loading.finish (((stOf satRun).writeS me0 7
      { val := (rmwOf satRun).1.headD 0, lab := 0 }).opened me0 [.s 7] (some (1, classAt))) me0 (rmwOf satRun).2) = true :=
  ⟨loading_turn, by decide +kernel, ⟨stOf satChk, ok_self (by decide +kernel), ok_of (by decide +kernel), ok_self (by decide +kernel),
    ok_of (by decide +kernel)⟩, ok_rmw (by decide +kernel), by dsimp only [State.Turn]; decide +kernel, by decide +kernel⟩

end Sys2Proof.Tests
end

