-- ==== Sys2Proof/Tests/WitnessesSync.lean ====
section
/-! SUPPORT. Witnesses for the statements about synchronisation, claims, labels, scopes, encoding and the step: states and
operands that meet their hypotheses together, with their conclusions there. -/

namespace Sys2Proof.Tests
open Sys2Proof.Machine
set_option Elab.async false

/-! ### Fences, CKPT and barriers -/

def crewH : Crew := { crew0 with unc := [{ win := 0, pa := 0x200000, val := 9 }] }
theorem holding_at : holding.AtFrag 1 0 0 crewH team0 thread0 := ⟨rfl, rfl, rfl, rfl⟩
theorem holding_turn : holding.Turn me0 thread0 := ⟨rfl, rfl⟩
/-- The core's L1 holds a clean line and a committed byte. -/
def cached : State := holding.modL1 0 0 (fun l => { l with clean := [(0x4001, [])], dirty := [(0x200100, 3)], writers := [(0x4002, [1])] })
def uncached : State := cached.modL1 0 0 (fun l => { l with clean := [] })
theorem cached_at : cached.AtFrag 1 0 0 crewH team0 thread0 := ⟨rfl, rfl, rfl, rfl⟩
theorem witness_FencesAndCkpt_acquire : cached.AtFrag 1 0 0 crewH team0 thread0 ∧ cached.mayIssue me0 thread0 [] [] = true ∧
    isAcq .acq = true ∧ isRel .acq = false ∧
    isNext (exec (.fence .dev .acq) cached) (cached.finish uncached me0 {}) = true := ⟨cached_at, by decide +kernel⟩
/-- A release by the fragment of the tests can be performed now. -/
theorem may_release {s : State} {c : Crew} {th : Thread} (hp : th.park = .run) (hc : kvFind s.crews 1 = some c) (h : (s.mayCommit 1 c &&
    !s.coreHeld c.cl c.core c.openLines && decide (((s.commitNow 1).wtCoreOf 1).cur = s.cur)) = true) : s.mayRelease me0 th := by
  simp only [Bool.and_eq_true, Bool.not_eq_true', decide_eq_true_eq] at h
  exact ⟨fun _ hw => Park.noConfusion (hp.symm.trans hw), c, hc, h.1.1, h.1.2, h.2⟩
theorem witness_FencesAndCkpt_core : isRel .ar = true ∧ cached.mayIssue me0 thread0 [] [] = true ∧
    isNext (exec (.fence .core .ar) cached) (cached.finish (cached.modThread me0 (fun x => { x with relNext := some .core })) me0 {}) =
      true ∧
    isNext (exec (.fencex .core .rel 1) cached) (cached.finish (cached.modThread me0 (fun x => { x with relNext := some .core })) me0
      {}) = true := by decide +kernel
/-- What a release that writes through, and acquires, leaves. -/
def released : State := ((cached.commitNow 1).wtCoreOf 1).modL1 0 0 (fun l => { l with clean := [] })
theorem witness_FencesAndCkpt_release : cached.mayRelease me0 thread0 ∧ cached.mayCommit 1 crewH = true ∧
    isNext (exec (.fence .sys .rel) cached) (cached.finish ((cached.commitNow 1).modThread me0 (fun x =>
      { x with relNext := some .sys })) me0 { past := true }) = true ∧
    isNext (exec (.fence .sys .ar) cached) (cached.finish (released.modThread me0 (fun x =>
      { x with relNext := some .sys })) me0 { past := true }) = true ∧ released.homeByte 0x200100 = 3 ∧
    isNext (exec (.fencex .clus .acq 3) cached) (cached.finish released me0 { past := true }) = true ∧
    isNext (exec (.fencex .clus .rel 2) cached) (cached.finish (((cached.commitNow 1).wtCoreOf 1).modThread me0 (fun x =>
      { x with relNext := some .clus })) me0 { past := true }) = true := ⟨may_release rfl rfl (by decide +kernel), by decide +kernel⟩
theorem witness_FencesAndCkpt_ckpt : holding.Turn me0 thread0 ∧ kvFind holding.crews 1 = some crewH ∧
    holding.mayIssue me0 thread0 [] [] = true ∧ holding.mayCommit 1 crewH = true ∧
    isNext (exec .ckpt holding) (holding.finish (holding.commitNow 1) me0 { past := true }) = true :=
  ⟨holding_turn, rfl, by decide +kernel⟩

/-- A thread that parks at barrier 2, and one that has passed it. -/
def crewB : Crew := { crew0 with body := { crew0.body with bars := [(2, { rld := 2, cnt := 2 })] } }
theorem bar2_at : bar2.AtFrag 1 0 0 crewB team0 thread0 := ⟨rfl, rfl, rfl, rfl⟩
theorem witness_NamedBarriers : bar2.AtFrag 1 0 0 crewB team0 thread0 ∧ bar2.mayIssue me0 thread0 [] [] = true ∧ thread0.park = .run ∧
    kvGet (crewB.body.bar (bar2.teamsOf crewB) 2).ph (crewB.body.bar (bar2.teamsOf crewB) 2).ap 0 =
      (crewB.body.bar (bar2.teamsOf crewB) 2).ph ∧ 1 < (crewB.body.bar (bar2.teamsOf crewB) 2).cnt ∧
    isNext (exec (.bara 2) bar2) (bar2.finish (bar2.barArrived 1 1 me0 2) me0 {}) = true ∧
    isNext (exec (.barw 2) bar2) (bar2.parkThread me0 (.bar 2)) = true ∧
    isNext (exec (.baraw 2) bar2) ((bar2.barArrived 1 1 me0 2).parkThread me0 (.bar 2)) = true :=
  ⟨bar2_at, by decide +kernel⟩
/-- Barrier 2 stands before its last arrival, and beside it barrier 3 has flipped since the team's arrival. -/
def bar3 : State := bar2.modCrew 1 (fun c => c.modBody (fun b => { b with
  bars := [(2, { rld := 2, cnt := 1 }), (3, { ph := true, rld := 2, cnt := 2, ap := [(0, false)] })] }))
theorem witness_NamedBarriers_last : bar3.mayIssue me0 thread0 [] [] = true ∧
    isNext (exec (.baraw 2) bar3) (bar3.finish (bar3.barArrived 1 1 me0 2) me0 {}) = true ∧
    isNext (exec (.barw 3) bar3) (bar3.finish bar3 me0 {}) = true ∧
    goesTo (.next (bar3.barArrived 1 1 me0 2)) (fun u => (kvFind u.crews 1).any (fun c =>
      kvFind c.body.bars 2 == some { ph := true, rld := 2, cnt := 2, ap := [(0, false)] })) = true := by decide +kernel
def passed : State := bar2.modThread me0 (fun th => { th with park := .passed 2 })
theorem witness_NamedBarriers_passed : isNext (exec (.barw 2) passed) (passed.finish passed me0 {}) = true ∧
    isNext (exec (.baraw 2) passed) (passed.finish passed me0 {}) = true ∧ thread1.exm = 0 ∧
    isNext (exec (.baraw 2) idle) (idle.finish idle me0 {}) = true ∧ isNext (exec (.bara 2) idle) (idle.finish idle me0 {}) = true := by
  decide +kernel
theorem witness_NamedBarriers_bari : bar2.mayIssue me0 thread0 [.s 63] [] = true ∧
    isNext (exec (.bari 2 63) bar2) (bar2.finish (bar2.modCrew 1 (fun c => c.modBody (fun b => { b with
      bars := [(2, { rld := 4096, cnt := 4096 })] }))) me0 {}) = true ∧
    isNext (exec (.bari 2 1) bar3) (bar3.finish (bar3.modCrew 1 (fun c => c.modBody (fun b => { b with
      bars := kvSet b.bars 2 { rld := 7, cnt := 1 } }))) me0 {}) = true ∧
    isNext (exec (.bari 2 1) idle) (idle.finish idle me0 {}) = true := by decide +kernel

/-! ### Barrier words -/

theorem witness_BarrierWordUpdates : bwArrive none (bwMake true false 63 4095 2) = bwMake true false 63 4095 1 ∧
    bwArrive none (bwMake true false 63 4095 1) = bwMake true true 63 4095 4095 ∧
    bwArrive none (bwMake false true 0 5 0) = bwMake false false 0 5 5 ∧
    bwArrive (some 63) (bwMake false false 0 5 4) = bwMake true true 63 5 5 ∧
    bwArrive (some 3) (bwMake true false 9 5 4) = bwMake true true 9 5 5 := by decide +kernel
/-- The barrier word of the crew's scratchpad, with one arrival missing. -/
def word1 : State := padWord (bwMake false false 0 3 1)
def crewW : Crew := (kvFind word1.crews 1).getD crew0
def wordAcc : Acc := word1.uniAccess me0 4 4 63 0
def wordAt : WordAt := .pad 64
theorem word1_turn : word1.Turn me0 thread0 := ⟨rfl, rfl⟩
def word1Upd : EStateM.Result Stop State Done := updateWord .atomic .core .rel wordAcc 0 (bwArrive none) wordAt
  (word1.setLabels 0 [0, 1, 2, 3])
theorem witness_BarrierWordUpdates_pad : word1.Turn me0 thread0 ∧ kvFind word1.crews 1 = some crewW ∧
    word1.padFit crewW [padLine 64] = true ∧ crewW.body.pad.filled = [] ∧ word1.l1Has crewW 1 = true ∧ word1.notices = [] ∧ word1Upd = .ok {} (stOf word1Upd) ∧
    ((kvFind (stOf word1Upd).crews 1).any (fun c => c.body.pad.nat 64 4 == bwMake false true 0 3 3)) = true :=
  ⟨word1_turn, rfl, by decide +kernel, by decide +kernel, by decide +kernel, rfl, ok_of (by decide +kernel), by decide +kernel⟩
/-- A word in memory, updated in the core's L1; one on a line that its own core does not hold, updated at its home behind a commit
point; and one updated by a supervisor core. -/
def memUpd (sc : Scope) (s : State) : EStateM.Result Stop State Done :=
  updateWord .atomic sc .rel (s.uniAccess me0 4 4 63 0) 0 (bwArrive none) (.mem loc0) s
def inMem : State := withMem [(0x200000, bwMake false false 0 3 2)]
theorem witness_BarrierWordUpdates_l1 : inMem.AtFrag 1 0 0 crew0 team0 thread0 ∧ crew0.copy = .solo ∧ thread0.relNext = none ∧
    inMem.plainLoc 1 crew0 loc0 = true ∧ loc0.outside = false ∧ loc0.pa % 4 = 0 ∧ inMem.linesFit crew0 [loc0.line] = true ∧
    inMem.noticesFit [loc0.line] = true ∧ (kvKeys crew0.body.pad.filled).Nodup ∧
    inMem.l1Has crew0 (1 + (crew0.body.pad.hits loc0.line).length) = true ∧ okR (memUpd .core inMem) = true ∧
    ((kvFind (stOf (memUpd .core inMem)).crews 1).any (fun c => (stOf (memUpd .core inMem)).coreNat c false 0x200000 4 ==
      bwMake false false 0 3 1)) = true ∧ (stOf (memUpd .core inMem)).homeNat 0x200000 4 = bwMake false false 0 3 2 :=
  ⟨⟨rfl, rfl, rfl, rfl⟩, by decide +kernel⟩
theorem witness_BarrierWordUpdates_home : inMem.Turn me0 thread0 ∧ inMem.plainLoc 1 crew0 loc0 = true ∧ coreScope me0 .dev = false ∧
    (inMem.touched 1 crew0 loc0).mayRelease me0 thread0 ∧ ((inMem.touched 1 crew0 loc0).commitNow 1).cur = some me0 ∧
    ((kvFind ((inMem.touched 1 crew0 loc0).commitNow 1).crews 1).any (fun c => c.cl == 0 && c.core == 0)) = true ∧
    inMem.storable loc0.line = true ∧ ((inMem.touched 1 crew0 loc0).commitNow 1).storable loc0.line = true ∧
    ((inMem.touched 1 crew0 loc0).commitNow 1).bad loc0.line = false ∧
    ((inMem.touched 1 crew0 loc0).commitNow 1).refused loc0.line = false ∧
    (((inMem.touched 1 crew0 loc0).commitNow 1).l1 0 0).poison = [] ∧ ((inMem.touched 1 crew0 loc0).commitNow 1).l1Lines 0 0 = [] ∧
    (((inMem.touched 1 crew0 loc0).commitNow 1).crews.all (fun e => e.2.body.pad.dirty.isEmpty && e.2.closed.isEmpty)) = true ∧
    okR (memUpd .dev inMem) = true ∧ (stOf (memUpd .dev inMem)).homeNat 0x200000 4 = bwMake false false 0 3 1 :=
  ⟨⟨rfl, rfl⟩, by decide +kernel, by decide +kernel, by dsimp only [State.mayRelease]; exact ⟨nofun, crew0, by decide +kernel⟩,
    by decide +kernel⟩
/-- A barrier word is found in the scratchpad, or in memory. -/
def padIs (r : EStateM.Result Stop State WordAt) (off : Nat) (s : State) : Bool :=
  match r with | .ok (.pad o) t => decide (o = off) && decide (t = s) | _ => false
theorem pad_of {r : EStateM.Result Stop State WordAt} {off : Nat} {s : State} (h : padIs r off s = true) : r = .ok (.pad off) s := by
  cases r with
  | ok w t => cases w with
    | pad o =>
      simp only [padIs, Bool.and_eq_true, decide_eq_true_eq] at h
      rw [h.1, h.2]
    | mem l => simp [padIs] at h
  | error e t => simp [padIs] at h
def memIs (r : EStateM.Result Stop State WordAt) (l : Loc) : Bool :=
  match r with | .ok (.mem x) _ => decide (x = l) | _ => false
theorem mem_of {r : EStateM.Result Stop State WordAt} {l : Loc} (h : memIs r l = true) : r = .ok (.mem l) (stOf r) := by
  cases r with
  | ok w t => cases w with
    | mem x =>
      simp only [memIs, decide_eq_true_eq] at h
      rw [h]
      rfl
    | pad o => simp [memIs] at h
  | error e t => simp [memIs] at h
theorem witness_BarrierWords_pad : word1.Turn me0 thread0 ∧
    checkWord .atomic wordAcc (some (joinAll (wordAcc.alab ++ [thread0.pcl]))) word1 = .ok (.pad 64) (word1.setLabels 0 [0, 1, 2, 3]) ∧
    word1Upd = .ok {} (stOf word1Upd) ∧ checkWord .load wordAcc none word1 = .ok (.pad 64) word1 ∧ Acts me0 thread0 ∧
    word1.mayIssue me0 thread0 [.s 4, .s 63] [] = true ∧ word1.joined me0 (wordAcc.alab ++ [thread0.pcl]) = some (0, [0, 1, 2, 3]) ∧
    word1.joined me0 [crewW.body.pad.lab (padLine 64), thread0.pcl] = some (0, [0, 1, 2, 3]) ∧
    isNext (exec (.wbara .core 4 63 0) word1) (word1.finish (stOf word1Upd) me0 {}) = true ∧
    isNext (exec (.wbarw .core true 7 4 63 0) word1) (word1.finish ((word1.setLabels 0 [0, 1, 2, 3]).writeS me0 7
      { val := 0, lab := 0 }) me0 {}) = true ∧
    isNext (exec (.wbarw .core false 7 4 63 0) word1) ((word1.setLabels 0 [0, 1, 2, 3]).parkThread me0
      (keepPair thread0.park .word)) = true :=
  ⟨word1_turn, pad_of (by decide +kernel), ok_of (by decide +kernel), pad_of (by decide +kernel), by dsimp only [Acts, me0]; decide +kernel,
    by decide +kernel⟩
theorem witness_BarrierWords_idle : idle.Turn me0 thread1 ∧ ¬ Acts me0 thread1 ∧ idle.mayIssue me0 thread1 [.s 4, .s 63, .s 1] [] = true ∧
    isNext (exec (.wbara .core 4 63 0) idle) (idle.finish idle me0 {}) = true ∧
    isNext (exec (.wbari .core 1 4 63 0) idle) (idle.finish idle me0 {}) = true :=
  ⟨idle_turn, by dsimp only [Acts, me0]; decide +kernel, by decide +kernel⟩
def initUpd : EStateM.Result Stop State Done := updateWord .store .core .rlx wordAcc 7 (fun _ => 7) wordAt
  (word1.setLabels 0 [0, 1, 2, 3])
theorem witness_BarrierWords_init :
    checkWord .store wordAcc (some (joinAll ([(word1.readS me0 1).lab] ++ wordAcc.alab ++ [thread0.pcl]))) word1 =
      .ok (.pad 64) (word1.setLabels 0 [0, 1, 2, 3]) ∧
    initUpd = .ok {} (stOf initUpd) ∧ word1.mayIssue me0 thread0 [.s 4, .s 63, .s 1] [] = true ∧
    isNext (exec (.wbari .core 1 4 63 0) word1) (word1.finish (stOf initUpd) me0 {}) = true :=
  ⟨pad_of (by decide +kernel), ok_of (by decide +kernel), by decide +kernel⟩
/-- A barrier word in memory, in phase 1 with an error. -/
def word2 : State := withMem [(0x200000, bwMake true true 5 3 3)]
theorem word2_turn : word2.Turn me0 thread0 := ⟨rfl, rfl⟩
def word2Chk : EStateM.Result Stop State WordAt := checkWord .load (word2.uniAccess me0 4 4 63 0) none word2
def word2Val : EStateM.Result Stop State Nat := loadLoc .clus .acq 4 loc0 ((stOf word2Chk).setLabels 0 [0, 1, 2, 3])
theorem witness_BarrierWords_memory : word2.Turn me0 thread0 ∧ word2Chk = .ok (.mem loc0) (stOf word2Chk) ∧
    (stOf word2Chk).Turn me0 thread0 ∧ word2Val = .ok (bwMake true true 5 3 3) (stOf word2Val) ∧
    recordHere 2 [BitVec.ofNat 64 (bwMake true true 5 3 3)] (stOf word2Val) = .ok ⟨⟩ (stOf word2Val) ∧
    word2.mayIssue me0 thread0 [.s 4, .s 63] [.s 7] = true ∧
    (stOf word2Chk).joined me0 [(stOf word2Chk).granLab loc0.line, thread0.pcl] = some (0, [0, 1, 2, 3]) ∧
    ((kvFind (stOf word2Chk).crews 1).any (fun c => c.copy == .solo)) = true ∧
    isNext (exec (.wbarw .clus false 7 4 63 0) word2) (word2.finish ((stOf word2Val).writeS me0 7 { val := 69, lab := 0 }) me0 {}) =
      true ∧
    isNext (exec (.wbarw .clus true 7 4 63 0) word2) ((stOf word2Val).parkThread me0 (keepPair ((stOf word2Val).parkOf me0) .word)) =
      true :=
  ⟨word2_turn, mem_of (by decide +kernel), by dsimp only [State.Turn]; decide +kernel, ok_of (by decide +kernel),
    ok_of (by decide +kernel), by decide +kernel⟩

/-! ### Claims -/

def claiming : State := reserving .claim
def teamC : Team := { team0 with phase := .claim }
def crewC : Crew := { crew0 with body := { crew0.body with teams := [(0, teamC)] } }
theorem claiming_at : claiming.AtFrag 1 0 0 crewC teamC thread0 := ⟨rfl, rfl, rfl, rfl⟩
def claimAcc : Acc × (Nat → List Lbl) := claiming.laneAccess me0 teamC thread0 4 4 (some 1) false 0
def claimLab : EStateM.Result Stop State (List (Nat × Lbl)) := groupLabels (mgroups thread0.exm) claimAcc.2 claiming
theorem witness_ClaimInstructions_clm : claiming.AtFrag 1 0 0 crewC teamC thread0 ∧ claimLab = .ok (valOf claimLab) (stOf claimLab) ∧
    (stOf claimLab).AtFrag 1 0 0 crewC teamC thread0 ∧ crewC.copy = .solo ∧ teamC.phase = .claim ∧ thread0.exm ≠ 0 ∧
    claiming.mayIssue me0 thread0 ([.s 4] ++ idxName (some 1)) [] = true ∧
    (∀ e ∈ claimAcc.1.eas, canonical e.2 = true ∧ crosses e.2 4 = false) ∧ crewC.body.claims + claimAcc.1.eas.length ≤ 64 ∧
    (stOf claimLab).joined me0 ([crewC.body.clab] ++ claimAcc.1.alab) = some (0, [0, 1, 2, 3]) ∧
    isNext (exec (.clm false 4 (some 1) 0) claiming) (claiming.finish (((stOf claimLab).setLabels 0 [0, 1, 2, 3]).modCrew 1 (fun c =>
      c.modBody (fun b => { b with
        sig := claimAcc.1.eas.foldl (fun m e => m ||| claimBits (e.2.toNat / 16)) b.sig
        claims := 4, clab := 0 }))) me0 {}) = true :=
  ⟨claiming_at, ok_self (by decide +kernel), by dsimp only [State.AtFrag]; decide +kernel, by decide +kernel⟩
def idleClaim : State := claiming.modThread me0 (fun th => { th with exm := 0 })
theorem witness_ClaimInstructions_idle : idleClaim.mayIssue me0 thread1 [.s 4] [] = true ∧
    isNext (exec (.clm false 4 none 0) idleClaim) (idleClaim.finish idleClaim me0 {}) = true := by decide +kernel
/-- What CLMSEAL does to a body: the team is sealed, and its thread waits for admission. -/
def sealBody (b : Body) : Body := b.modTeam 0 (fun tm => { tm with
  phase := .sealed, frags := kvModify tm.frags 0 (fun th => { th with park := .admission, pend := [] }) })
theorem witness_ClaimInstructions_seal : teamC.frags.length = 1 ∧ thread0.park = .run ∧ claiming.mayIssue me0 thread0 [] [] = true ∧
    thread0.pend = [] ∧ claiming.mayCommit 1 crewC = true ∧
    isNext (exec .clmseal claiming) ((((claiming.commitNow 1).modCrew 1 (fun c => { c with
      body := sealBody c.body, saved := sealBody c.saved })).sealItem 1).parkThread me0 .admission) = true := by decide +kernel
def committing : State := reserving .commit
theorem witness_ClaimInstructions_done : (committing.team? 1 0).any (fun tm => tm.phase == .commit && tm.frags.length == 1) = true ∧
    committing.mayIssue me0 thread0 [] [] = true ∧
    isNext (exec .clmdone committing) (committing.finish ((((committing.commitNow 1).wtCoreOf 1).modTeam 1 0 (fun x =>
      { x with phase := .done })).finishItem 1) me0 { past := true }) = true ∧
    committing.mayIssue me0 thread0 [] [.s 7] = true ∧ committing.joined me0 [thread0.pcl, 0] = some (0, [0, 1, 2, 3]) ∧
    (committing.setLabels 0 [0, 1, 2, 3]).cast? 0 0 = some cast0 ∧
    isNext (exec (.clmq 3 7) committing) (committing.finish (((committing.setLabels 0 [0, 1, 2, 3]).writeS me0 7
      { val := 0x100000001, lab := 0 }).opened me0 [.s 7] (some (3, 6))) me0 {}) = true :=
  by decide +kernel
theorem witness_ClaimInstructions_release : committing.mayRelease me0 thread0 := may_release (c := (kvFind committing.crews 1).getD crew0) rfl rfl (by decide +kernel)

/-! ### Labels and scopes -/

def teamL : Team := { team0 with
  v := [(32, word4 1 2 3 4 1), (64, word4 1 2 3 4 3)], clear := 3, auth := 3
  s := team0.s ++ [(9, { val := 3 }), (10, { val := 2 })] }
def crewL : Crew := { crew0 with body := { crew0.body with teams := [(0, teamL)] } }
theorem labelled_at : labelled.AtFrag 1 0 0 crewL teamL thread0 := ⟨rfl, rfl, rfl, rfl⟩
theorem witness_LabelInstructions_read : labelled.AtFrag 1 0 0 crewL teamL thread0 ∧ labelled.mayIssue me0 thread0 [.v 2] [.s 7] = true ∧
    labelled.joined me0 ((mgroups thread0.exm).map (fun g => teamL.vlab 2 g)) = some (3, [0, 1, 2, 3]) ∧
    isNext (exec (.lget 7 2) labelled) (labelled.finish ((labelled.setLabels 0 [0, 1, 2, 3]).writeS me0 7 { val := 3, lab := 0 }) me0 {}) =
      true ∧
    labelled.mayIssue me0 thread0 [.v 1, .s 9] [.s 7] = true ∧
    labelled.joined me0 [(labelled.readS me0 9).lab, thread0.pcl] = some (0, [0, 1, 2, 3]) ∧
    isNext (exec (.lchk 7 1 9) labelled) (labelled.finish ((labelled.setLabels 0 [0, 1, 2, 3]).writeS me0 7 { val := 1, lab := 0 }) me0
      {}) = true := ⟨labelled_at, by decide +kernel⟩
def raising : State := labelled.writeS me0 11 { val := 256 }
theorem raising_turn : raising.Turn me0 thread0 := ⟨rfl, rfl⟩
def raiseAcc2 : Acc := { uni := true, size := 128, eas := granules 0x100000 256, alab := [(raising.readS me0 4).lab] }
def raiseChk : EStateM.Result Stop State (List Loc) := checkAcc .store raiseAcc2 raising
def raiseCrew : Crew := (kvFind raising.crews 1).getD crew0
theorem witness_LabelInstructions_raise : raising.Turn me0 thread0 ∧ raiseChk = .ok (valOf raiseChk) (stOf raiseChk) ∧
    checkClaims raiseAcc2 ((valOf raiseChk).flatMap (fun l => (List.range 8).map (fun k => (l.lane, l.va + 16 * k)))) (stOf raiseChk) =
      .ok ⟨⟩ (stOf raiseChk) ∧ kvFind raising.crews 1 = some raiseCrew ∧
    raising.mayIssue me0 thread0 [.s 4, .s 11, .s 9] [] = true ∧ (raising.readS me0 11).val.toNat % 128 = 0 ∧
    (stOf raiseChk).joined me0 [(raising.readS me0 4).lab, (raising.readS me0 11).lab, (raising.readS me0 9).lab, thread0.pcl] =
      some (0, [0, 1, 2, 3]) ∧
    (∀ l ∈ valOf raiseChk, ((stOf raiseChk).setLabels 0 [0, 1, 2, 3]).pins.contains l.line = false) ∧
    (raising.readS me0 9).val.toNat = 3 ∧ 3 < (((stOf raiseChk).setLabels 0 [0, 1, 2, 3]).ctx 0).labels.length ∧
    (((stOf raiseChk).setLabels 0 [0, 1, 2, 3]).ctx 0).dominates 3 0 = true ∧
    (∀ l ∈ valOf raiseChk, (((stOf raiseChk).setLabels 0 [0, 1, 2, 3]).ctx 0).dominates 3 (((stOf raiseChk).setLabels 0 [0, 1, 2, 3]).granLab
      l.line) = true) ∧
    ((stOf raiseChk).setLabels 0 [0, 1, 2, 3]).mayCommit 1 raiseCrew = true ∧
    isNext (exec (.lraise 9 4 11 0) raising) (raising.finish (setLabels 3 (valOf raiseChk)
      (((stOf raiseChk).setLabels 0 [0, 1, 2, 3]).commitNow 1)) me0 { past := true }) = true ∧
    isNext (exec (.lraise 9 4 63 0) raising) (raising.finish raising me0 {}) = true :=
  ⟨raising_turn, ok_self (by decide +kernel), ok_of (by decide +kernel), rfl, by decide +kernel⟩
theorem witness_LabelInstructions_span : small.AtFrag 1 0 0 crew0 team0 thread0 ∧
    small.mayIssue me0 thread0 ([.s 1] ++ (List.range 2).map (fun k => .v (4 + k))) [] = true ∧
    (small.ctx 0).dominates thread0.pcl (small.readS me0 1).lab = true ∧
    isNext (exec (.lspan 4 2 1) small) (small.finish (small.modThread me0 (fun x => { x with
      armed := some { vlo := 4, vn := 2, smask := 7 } })) me0 {}) = true ∧
    (small.ctx 0).dominates thread0.pcl (small.readS me0 6).lab = false ∧
    traps (exec (.lspan 4 2 6) small) 0x0D 0 = true := ⟨small_at, by decide +kernel⟩

theorem witness_Declassification_endorse : labelled.AtFrag 1 0 0 crewL teamL thread0 ∧ crewL.copy = .solo ∧
    labelled.mayIssue me0 thread0 [] [] = true ∧ thread0.exm ≠ 0 ∧ teamL.auth ≠ 0 ∧
    (labelled.ctx 0).owners thread0.pcl &&& ~~~teamL.auth = 0 ∧ labelled.mayCommit 1 crewL = true ∧
    addCounts 7 2 (bitsOf teamL.auth) (labelled.ctx 0).endorse = some [{ site := 7, owner := 0, count := 2 }, { site := 7, owner := 1, count := 2 }] ∧
    ((labelled.commitNow 1).ctx 0).endorse = (labelled.ctx 0).endorse ∧
    isNext (exec (.endorse 7 2) labelled) (labelled.finish ((labelled.commitNow 1).modCtx 0 (fun x => { x with
      endorse := [{ site := 7, owner := 0, count := 2 }, { site := 7, owner := 1, count := 2 }] })) me0 { past := true }) = true ∧
    traps (exec (.endorse 7 2) small) 0x0F 0 = true ∧
    isNext (exec (.endorse 7 2) idle) (idle.finish idle me0 {}) = true := ⟨labelled_at, by decide +kernel⟩
/-- A count for owner 0 stands at site 7. -/
def endorsed : State := labelled.modCtx 0 (fun c => { c with endorse := [{ site := 7, owner := 0, count := 1 }] })
theorem endorsed_at : endorsed.AtFrag 1 0 0 crewL teamL thread0 := ⟨rfl, rfl, rfl, rfl⟩
def declPre : EStateM.Result Stop State PUnit := prepareV 5 (fun _ => [0]) (endorsed.setLabels 0 [0, 1, 2, 3])
def declCrew : Crew := (kvFind (stOf declPre).crews 1).getD crew0
def declEnd : EStateM.Result Stop State PUnit := writeV 5 (fun _ => [0]) (teamL.lane 1) (((stOf declPre).commitNow 1).modCtx 0 (fun x =>
  { x with endorse := [0].foldl (fun e k => takeCount e 7 k) ((stOf declPre).ctx 0).endorse }))
theorem witness_Declassification_decl : endorsed.AtFrag 1 0 0 crewL teamL thread0 ∧ declPre = .ok ⟨⟩ (stOf declPre) ∧
    (stOf declPre).AtFrag 1 0 0 declCrew teamL thread0 ∧ declEnd = .ok ⟨⟩ (stOf declEnd) ∧
    endorsed.hasName me0 (.v 5) = true ∧ endorsed.mayIssue me0 thread0 [.v 1] [.v 5] = true ∧ 0 < (endorsed.ctx 0).labels.length ∧
    (endorsed.ctx 0).dominates 0 thread0.pcl = true ∧ thread0.exm ≠ 0 ∧
    endorsed.joined me0 ((mgroups thread0.exm).map (fun g => teamL.vlab 1 g) ++ [thread0.pcl]) = some (1, [0, 1, 2, 3]) ∧
    bitsOf ((endorsed.ctx 0).owners 1 &&& ~~~((endorsed.ctx 0).owners 0)) = [0] ∧ declCrew.copy = .solo ∧ declCrew.vf = 0 ∧
    endorseCount ((stOf declPre).ctx 0).endorse 7 0 ≠ 0 ∧ (stOf declPre).mayCommit 1 declCrew = true ∧
    (((stOf declPre).commitNow 1).ctx 0).endorse = ((stOf declPre).ctx 0).endorse ∧
    isNext (exec (.decl 5 1 7 0) endorsed) (endorsed.finish (stOf declEnd) me0 { past := true }) = true :=
  ⟨endorsed_at, ok_of (by decide +kernel), by dsimp only [State.AtFrag]; decide +kernel, ok_of (by decide +kernel), by decide +kernel⟩
def deniedPre : EStateM.Result Stop State PUnit := prepareV 5 (fun _ => [0]) (labelled.setLabels 0 [0, 1, 2, 3])
def freePre : EStateM.Result Stop State PUnit := prepareV 5 (fun _ => [1]) (labelled.setLabels 0 [0, 1, 2, 3])
def freeEnd : EStateM.Result Stop State PUnit := writeV 5 (fun _ => [1]) (teamL.lane 1) (stOf freePre)
theorem witness_Declassification_denied :
    ([0] : List Nat).find? (fun k => endorseCount ((stOf deniedPre).ctx 0).endorse 7 k == 0) = some 0 ∧
    traps (exec (.decl 5 1 7 0) labelled) 0x0E 0 = true ∧
    (labelled.ctx 0).labels.length ≤ 9 ∧
    traps (exec (.decl 5 1 7 9) labelled) 0x0E 1 = true ∧
    traps (exec (.decl 5 1 7 2) (labelled.modThread me0 (fun th => { th with pcl := 1 }))) 0x0E 2 = true ∧
    bitsOf ((labelled.ctx 0).owners 1 &&& ~~~((labelled.ctx 0).owners 1)) = [] ∧ okR freeEnd = true ∧
    isNext (exec (.decl 5 1 7 1) labelled) (labelled.finish (stOf freeEnd) me0 {}) = true ∧
    isNext (exec (.decl 5 1 7 0) idle) (idle.finish idle me0 {}) = true := by decide +kernel

/-- The team's reserve holds five words, and two scopes are open. -/
def nested : State := withTeam (fun t => { t with reserve := 5, scopes := [(40, 4), (0, 32)] })
def teamS : Team := { team0 with reserve := 5, scopes := [(40, 4), (0, 32)] }
def crewS : Crew := { crew0 with body := { crew0.body with teams := [(0, teamS)] } }
theorem nested_at : nested.AtFrag 1 0 0 crewS teamS thread0 := ⟨rfl, rfl, rfl, rfl⟩
theorem witness_ScopeInstructions : nested.AtFrag 1 0 0 crewS teamS thread0 ∧ teamS.frags.length = 1 ∧
    nested.mayIssue me0 thread0 [] [] = true ∧ thread0.openSpan = none ∧ teamS.scopes.length < 8 ∧
    (∀ e ∈ teamS.scopes, meets 252 4 e.1 e.2 = false) ∧ 4 * teamS.groups ≤ teamS.reserve ∧
    ¬ 4 * teamS.groups ≤ team0.reserve ∧ nested.grantable 1 0 (8 * teamS.groups - teamS.reserve) = true ∧
    isNext (exec (.scopeo 4 252) nested) (nested.finish (nested.modTeam 1 0 (fun x => { x with
      reserve := 1, scopes := [(252, 4), (40, 4), (0, 32)] })) me0 {}) = true ∧
    isNext (exec (.scopeo 8 48) nested) (nested.finish ((nested.giveWords 1 0 3).modTeam 1 0 (fun x => { x with
      reserve := 0, scopes := [(48, 8), (40, 4), (0, 32)] })) me0 {}) = true ∧
    isNext (exec .scopec nested) (nested.finish ((nested.modTeam 1 0 (fun x => { x with scopes := [(0, 32)] })).modCrew 1 (fun c =>
      { c with held := [(0, 4)] })) me0 {}) = true ∧
    isNext (exec (.rgrow 6) nested) (nested.finish (nested.giveWords 1 0 6) me0 {}) = true ∧
    isNext (exec (.rshrink 5) nested) (nested.finish ((nested.modTeam 1 0 (fun x => { x with reserve := 0 })).modCrew 1 (fun c =>
      { c with held := [(0, 5)] })) me0 {}) = true := ⟨nested_at, by decide +kernel⟩
def grown : State := nested.modThread me0 (fun th => { th with park := .granted })
theorem witness_ScopeInstructions_waits : nested.grantable 1 0 9000 = false ∧
    isNext (exec (.rgrow 9000) nested) (nested.parkThread me0 (.grow 9000)) = true ∧
    isNext (exec (.rgrow 9000) grown) (grown.finish grown me0 {}) = true := by decide +kernel
/-- The team is two fragments. -/
def twoFrags : State := withTeam (fun t => { t with frags := [(0, thread4), (1, { thread4 with exm := 0xC })] })
theorem witness_ScopeInstructions_frags :
    traps (exec (.scopeo 4 40) twoFrags) 0x01 9 = true ∧
    traps (exec .scopec twoFrags) 0x01 9 = true ∧
    traps (exec (.rgrow 1) twoFrags) 0x01 9 = true ∧
    traps (exec (.rshrink 1) twoFrags) 0x01 9 = true := by decide +kernel

/-! ### Encoding, and the step -/

theorem witness_EncodeDecode : wf (.smovi 24 1) = true ∧ encode (.smovi 24 1) = some 0x1100006000000001 := by decide +kernel
theorem witness_DecodeExact : decode .team 0x1100006000000001 = .ok (.smovi 24 1) := by decide +kernel
/-- The small machine at a word of a clause. -/
def atWord (w : Word) : State := withThread (fun th => { th with clause := [w, 0] })
theorem witness_StepRunsDecoded : (atWord 0x1100006000000001).agenda = [] ∧ (atWord 0x1100006000000001).cur = some me0 ∧
    ((atWord 0x1100006000000001).thread? me0).any (fun th => decide (th.clause ≠ []) && (atWord 0x1100006000000001).mayGo me0 th &&
      decide (decode th.eng (hereWord th) = .ok (.smovi 24 1))) = true ∧
    leavesS (step (atWord 0x1100006000000001)) 24 1 = true ∧ traps (step (atWord 0xD000005000000007)) 0x01 6 = true := by
  decide +kernel
theorem witness_StepRunsDecoded_event : encode .coolantLoss = none ∧
    ({ small with agenda := [some .coolantLoss] } : State).agenda = some .coolantLoss :: [] ∧
    goesTo (step { small with agenda := [some .coolantLoss] }) (fun u => u.agenda == []) = true := by decide +kernel
/-- A word that names SMOVI runs as the first instruction after reset. -/
theorem test_first_instruction : decodeTableWord 64 0x1100006000000001 = some (.smovi 24 1) ∧
    goesTo (step (State.reset.withFetchWord 64 0x1100006000000001)) (fun u =>
      (u.readS (.frag 0 0 0) 24).val == 1) = true := by decide +kernel
theorem witness_MemoryCanonical : small.Inv ∧ goesTo (step (atWord 0x1100006000000001)) (fun u => u.hbm == small.hbm) = true := by
  dsimp only [State.Inv, memoryWf]
  decide +kernel

end Sys2Proof.Tests
end

