-- ==== Sys2Proof/Tests/WitnessesEngines.lean ====
section
/-! SUPPORT. Witnesses for the statements about grants, engine commands, tiles, queues, system registers, translations and
handlers: states and operands that meet their hypotheses together, with their conclusions there. -/

namespace Sys2Proof.Tests
open Sys2Proof.Machine
set_option Elab.async false

/-! ### Grants -/

/-- s7 names code; the crew has no grant. -/
def forking : State := small.writeS me0 7 { val := 0x110080 }
def teamF : Team := { team0 with s := kvPut {} team0.s 7 { val := 0x110080 } }
def crewF : Crew := { crew0 with body := { crew0.body with teams := [(0, teamF)] } }
theorem forking_at : forking.AtFrag 1 0 0 crewF teamF thread0 := ⟨rfl, rfl, rfl, rfl⟩
/-- What FORK leaves of the body: one tile, and both streams. -/
def forked : Body := { crewF.body with
  grant := some { team := 0, tiles := [{}], mseq := some 0, cseq := some 1 }
  seqs := [(0, startSeq teamF 0 0 0 .matrix 0x110080), (1, startSeq teamF 0 0 0 .copy 0x110080)]
  nextSeq := 2 }
theorem witness_GrantInstructions_fork : forking.AtFrag 1 0 0 crewF teamF thread0 ∧
    forking.mayIssue me0 thread0 [.s 7, .s 7, .s 6] [] = true ∧ thread0.park = .run ∧ thread0.exm ≠ 0 ∧ crewF.body.grant = none ∧
    (forking.readS me0 6).val.toNat = 1 ∧ teamF.frags.length = 1 ∧ canonical 0x110080 = true ∧
    forking.forkFits 0 1 0x110080 0x110080 = true ∧
    isNext (exec (.fork 7 7 6) forking) (forking.finish (forking.setCrew 1 { crewF with body := { forked with
      seqs := forked.seqs.map (fun e => (e.1, { e.2 with th := { e.2.th with ready := 100 } })) } }) me0 {}) = true ∧
    isNext (exec (.fork 7 7 6) idle) (idle.finish idle me0 {}) = true ∧
    isNext (exec (.fork 7 7 6) grown) (grown.finish grown me0 {}) = true ∧
    traps (exec (.fork 63 63 6) granted) 0x01 3 = true :=
  ⟨forking_at, by decide +kernel⟩
/-- Another crew of the cluster holds every tile. -/
def crowded : State := { forking with crews := forking.crews ++ [(2, { crew0 with body := { crew0.body with
  grant := some { team := 0, tiles := List.replicate Config.tiles {}, mseq := none, cseq := none } } })] }
theorem witness_GrantInstructions_waits : crowded.forkFits 0 1 0x110080 0 = false ∧
    isNext (exec (.fork 7 63 6) crowded) (crowded.parkThread me0 .fork) = true := by decide +kernel
/-- A grant without streams. -/
def grantA : Grant := { team := 0, tiles := [tile0], mseq := none, cseq := none }
def alone : State := withCrew (fun c => { c with body := { c.body with grant := some grantA } })
def crewA : Crew := { crew0 with body := { crew0.body with grant := some grantA } }
theorem alone_at : alone.AtFrag 1 0 0 crewA team0 thread0 := ⟨rfl, rfl, rfl, rfl⟩
theorem witness_GrantInstructions_rdv : alone.AtFrag 1 0 0 crewA team0 thread0 ∧ granted.AtFrag 1 0 0 crew5 team0 thread0 ∧
    team0.frags.length = 1 ∧ alone.mayIssue me0 thread0 [] [] = true ∧
    ((crewA.body.arriveRdv me0).grant.any (fun g => g.met)) = true ∧ ((crew5.body.arriveRdv me0).grant.any (fun g => !g.met)) = true ∧
    isNext (exec .rdv alone) (alone.finish ((alone.setCrew 1 { crewA with body := crewA.body.arriveRdv me0 }).endGrant 1) me0 {}) =
      true ∧
    isNext (exec .rdv granted) ((granted.setCrew 1 { crew5 with body := crew5.body.arriveRdv me0 }).parkThread me0 .rdv) = true ∧
    isNext (exec .rdv small) (small.finish small me0 {}) = true := ⟨alone_at, granted_at, by decide +kernel⟩
/-- The team has arrived, and its stream has the turn. -/
def meeting : State := streaming.setCrew 1 { crew5 with body := crew5.body.arriveRdv me0 }
def crewM : Crew := { crew5 with body := crew5.body.arriveRdv me0 }
theorem meeting_at : meeting.AtSeq 1 0 crewM seq0 := ⟨rfl, rfl, rfl⟩
/-- The stream has met its grant's team before. -/
def metBefore : State := streaming.modCrew 1 (fun c => c.modBody (fun b => b.rdvDone 0))
theorem witness_GrantInstructions_stream : meeting.AtSeq 1 0 crewM seq0 ∧ streaming.AtSeq 1 0 crew5 seq0 ∧
    streaming.mayIssue (.seq 1 0) seq0.th [] [] = true ∧ seq0.rdv = false ∧
    ((crewM.body.arriveRdv (.seq 1 0)).grant.any (fun g => g.met)) = true ∧
    ((crew5.body.arriveRdv (.seq 1 0)).grant.any (fun g => !g.met)) = true ∧
    isNext (exec .rdv meeting) (meeting.finish (((meeting.setCrew 1 { crewM with body := crewM.body.arriveRdv (.seq 1 0) }).modCrew 1
      (fun c => c.modBody (fun b => b.rdvDone 0))).endGrant 1) (.seq 1 0) {}) = true ∧
    isNext (exec .rdv streaming) ((streaming.setCrew 1 { crew5 with body := crew5.body.arriveRdv (.seq 1 0) }).parkThread (.seq 1 0)
      .rdv) = true ∧
    isNext (exec .rdv metBefore) (metBefore.finish metBefore (.seq 1 0) {}) = true :=
  ⟨meeting_at, streaming_at, by decide +kernel⟩
theorem witness_GrantInstructions_arrival : crew5.body.grant = some grant0 ∧
    ((crew5.body.arriveRdv me0).grant.any (fun g => g.arrived == [me0] && !g.met)) = true := ⟨rfl, by decide +kernel⟩

/-! ### Commands and tiles -/

/-- Records of four b32 elements in memory and in the scratchpad; s6 names a completion word there. -/
def copying : State := (withMem [(0x200000, 0x100000), (0x200008, 0x100), (0x200010, 4), (0x200020, 4), (0x200040, 4),
  (0x200080, 0x700080), (0x200088, 0x100), (0x200090, 4), (0x2000A0, 4), (0x2000C0, 4)]).writeS me0 6 { val := 0x700040 }
def crewQ : Crew := (kvFind copying.crews 1).getD crew0
def ctChk : EStateM.Result Stop State PUnit := checkCt (copying.readS me0 6) copying
theorem copying_turn : copying.Turn me0 thread0 := ⟨rfl, rfl⟩
theorem witness_EngineCommands : copying.Turn me0 thread0 ∧ kvFind copying.crews 1 = some crewQ ∧ ctChk = .ok ⟨⟩ (stOf ctChk) ∧
    (stOf ctChk).Turn me0 thread0 ∧ Acts me0 thread0 ∧ kvFind (stOf ctChk).crews 1 = some crewQ ∧ crewQ.copy = .solo ∧
    copying.mayIssue me0 thread0 ((cmdRegs 4 8 6).map .s) [] = true ∧ ((stOf ctChk).cluster 0).cq.length < 64 ∧
    (match ((stOf ctChk).engRecord 0 0 ((stOf ctChk).apOf me0) ((stOf ctChk).pkrOf me0) (fun _ => true)
        (((stOf ctChk).readS me0 4).val.toNat + 128)).1 with
      | .ok d => inAperture ((stOf ctChk).apOf me0) (d.base : Int) 1 && destLines ((stOf ctChk).apOf me0) d == [1]
      | .error _ => false) = true ∧
    (stOf ctChk).mayCommit 1 crewQ = true ∧ ((stOf ctChk).commitNow 1).cur = some me0 ∧ thread0.park = .run ∧
    isNext (exec (.tcopy 4 8 6) copying) (copying.finish (((stOf ctChk).modCrew 1 (fun c => c.modPads ((stOf ctChk).commandOf me0 1
      thread0 ((stOf ctChk).pkrOf me0) .tcopy 4 8 6 false) (fun p => p.clearLines [1]))).pushed me0 crewQ true
      { (stOf ctChk).commandOf me0 1 thread0 ((stOf ctChk).pkrOf me0) .tcopy 4 8 6 false with todo := [1] }) me0 {}) = true ∧
    isNext (exec (.xfer true 4 8 6) copying) (copying.finish (((stOf ctChk).commitNow 1).pushed me0 crewQ true
      { ((stOf ctChk).commitNow 1).commandOf me0 1 thread0 ((stOf ctChk).pkrOf me0) (.xfer true) 4 8 6 true with alone := true }) me0
      { past := true }) = true :=
  ⟨copying_turn, by decide +kernel, ok_of (by decide +kernel), by dsimp only [State.Turn]; decide +kernel,
    by dsimp only [Acts, me0]; decide +kernel, by decide +kernel⟩
def queueFull : State := copying.modCluster 0 (fun q => { q with
  cq := List.replicate 64 (copying.commandOf me0 1 thread0 0 .tcopy 4 8 6 false) })
theorem witness_EngineCommands_full : idle.Turn me0 thread1 ∧ ¬ Acts me0 thread1 ∧
    idle.mayIssue me0 thread1 ((cmdRegs 4 8 6).map .s) [] = true ∧ 64 ≤ (queueFull.cluster 0).cq.length ∧
    okR (checkCt (queueFull.readS me0 6) queueFull) = true ∧
    isNext (exec (.tcopy 4 8 6) queueFull) ((stOf (checkCt (queueFull.readS me0 6) queueFull)).parkThread me0
      (keepPair thread0.park .engine)) = true ∧
    isNext (exec (.xfer false 4 8 6) queueFull) ((stOf (checkCt (queueFull.readS me0 6) queueFull)).parkThread me0
      (keepPair thread0.park .engine)) = true ∧
    isNext (exec (.tcopy 4 8 6) idle) (idle.finish idle me0 {}) = true ∧
    isNext (exec (.xfer false 4 8 6) idle) (idle.finish idle me0 {}) = true :=
  ⟨idle_turn, by dsimp only [Acts, me0]; decide +kernel, by decide +kernel⟩
def mmaChk : EStateM.Result Stop State PUnit := checkCt (streaming.readS (.seq 1 0) 6) streaming
theorem witness_EngineCommands_mma : streaming.AtSeq 1 0 crew5 seq0 ∧ mmaChk = .ok ⟨⟩ (stOf mmaChk) ∧
    (stOf mmaChk).AtSeq 1 0 crew5 seq0 ∧ crew5.body.grant = some grant0 ∧ grant0.mseq = some 0 ∧ 0 < grant0.tiles.length ∧
    streaming.mayIssue (.seq 1 0) seq0.th ((cmdRegs 4 8 6).map .s) [] = true ∧
    isNext (exec (.mma .sm8 true 0 4 8 6) streaming) (streaming.finish ((stOf mmaChk).pushed (.seq 1 0) crew5 false
      ((stOf mmaChk).commandOf (.seq 1 0) 1 seq0.th ((stOf mmaChk).pkrOf (.seq 1 0)) (.mma .sm8 true 0) 4 8 6 false)) (.seq 1 0) {}) =
      true :=
  ⟨streaming_at, ok_of (by decide +kernel), by dsimp only [State.AtSeq]; decide +kernel, rfl, by decide +kernel⟩

/-- An MMA to the tile is queued. -/
def busy (s : State) : State := s.pushed (.seq 1 0) crew5 false (s.commandOf (.seq 1 0) 1 seq0.th 0 (.mma .sm8 true 0) 4 8 6 false)
def poisoned : State := granted.putTile 1 0 { tile0 with poison := true }
def drainWords : EStateM.Result Stop State (List (Nat × Lbl)) := wordLabels team0 thread0.exm 5 (fun _ => [tile0.lab, (granted.readS me0
  63).lab] ++ [thread0.pcl]) (mgroups thread0.exm) granted
theorem witness_TileInstructions_stream : streaming.AtSeq 1 0 crew5 seq0 ∧ crew5.body.grant = some grant0 ∧ grant0.mseq = some 0 ∧
    grant0.tiles[0]? = some tile0 ∧ streaming.tileLogs 1 0 = true ∧ streaming.mayIssue (.seq 1 0) seq0.th [.s 4] [] = true ∧ streaming.tileBusy 1 0 = false ∧
    (busy streaming).tileBusy 1 0 = true ∧ tile0.poison = false ∧
    streaming.joined (.seq 1 0) [tile0.lab, (streaming.readS (.seq 1 0) 4).lab, seq0.th.pcl] = some (0, [0, 1, 2, 3]) ∧
    isNext (exec (.mzero 0) streaming) (streaming.finish (streaming.putTile 1 0 { lab := 0 }) (.seq 1 0) {}) = true ∧
    goesTo (exec (.mzero 0) (busy streaming)) (fun u => (u.thread? (.seq 1 0)).any (fun th => th.park == .engine)) = true :=
  ⟨streaming_at, rfl, by decide +kernel⟩
theorem witness_TileInstructions_team : granted.AtFrag 1 0 0 crew5 team0 thread0 ∧ drainWords = .ok (valOf drainWords) (stOf drainWords) ∧
    crew5.body.grant = some grant0 ∧ grant0.met = false ∧ granted.hasName me0 (.v 5) = true ∧ thread0.exm ≠ 0 ∧
    (granted.setLabels 0 [0, 1, 2, 3]).tileLogs 1 0 = true ∧
    granted.mayIssue me0 thread0 [.s 63] [.v 5] = true ∧ granted.tileBusy 1 0 = false ∧ (busy granted).tileBusy 1 0 = true ∧
    crew5.wordsFit 0 5 thread0.exm = true ∧
    isNext (exec (.mdrain 1 .f32 .rn 5 0 63) granted) (granted.finish ((((stOf drainWords).logged 1
      (crew5.wordsNew 0 5 thread0.exm)).putVec 1 0 5 thread0.exm (valOf drainWords) (fun l =>
        convert .f32 .f32 false .rn (tile0.at (l % 128) 0))).opened me0 [.v 5] (some (1, classMd))) me0 {}) = true ∧
    goesTo (exec (.mdrain 1 .f32 .rn 5 0 63) (busy granted)) (fun u => (u.thread? me0).any (fun th => th.park == .engine)) = true ∧
    traps (exec (.mdrain 1 .f32 .rn 5 0 63) poisoned) 0x15 0 = true ∧
    isNext (exec (.mfill .f32 0 1 5) granted) (granted.finish ((granted.setLabels 0 [0, 1, 2, 3]).putTile 1 0
      { (mlanes thread0.exm).foldl (fun y k => y.put (k % 128) 2 (widen .f32 (team0.lane 1 k))) tile0 with lab := 0 }) me0 {}) =
      true ∧
    isNext (exec (.mrsclVector 0 1) granted) (granted.finish ((granted.setLabels 0 [0, 1, 2, 3]).putTile 1 0
      { (mlanes thread0.exm).foldl (fun y k => y.scaleRow (k % 128) (team0.lane 1 k)) tile0 with lab := 0 }) me0 {}) = true :=
  ⟨granted_at, ok_self (by decide +kernel), rfl, by decide +kernel⟩
theorem groups0 {p : Nat → Prop} (h : p 0) : ∀ g ∈ mgroups thread0.exm, p g := by
  intro g hg
  rw [show mgroups thread0.exm = [0] by decide +kernel] at hg
  rwa [List.mem_singleton.mp hg]
theorem witness_PadAndTileCompletions_load : stashed.AtFrag 1 0 0 crew8 team8 thread0 ∧ thread0.heldFree = true ∧ thread0.exm ≠ 0 ∧
    padAcc = stashed.laneAccess me0 team8 thread0 4 63 (some 1) true 128 ∧ crew8.body.pad.holdsAll padAcc.1 ∧
    stashed.mayIssue me0 thread0 ([.s 63] ++ idxName (some 1)) [.v 5] = true ∧
    stashed.wordsJoined me0 team8 thread0 5 (fun g => (padAcc.1.eas.filter (fun e => e.1 / 32 == g)).map
      (fun e => crew8.body.pad.lab (padLine e.2.toNat)) ++ padAcc.2 g) ∧
    crew8.wordsFit 0 5 thread0.exm = true ∧
    leavesV (exec (.vlds 2 .b32 true 5 63 (some 1) 128) stashed) 5 [0, 0, 0, 0] = true ∧
    leavesV (exec (.vlds 2 .b32 true 5 63 none 128) stashed) 5 [0xAB, 0xAB, 0xAB, 0xAB] = true :=
  ⟨stashed_at, by decide +kernel, by decide +kernel, rfl, by dsimp only [Pad.holdsAll]; decide +kernel, by decide +kernel,
    groups0 ⟨0, 0, by decide +kernel, by decide +kernel⟩, by decide +kernel⟩
theorem witness_PadAndTileCompletions_store : small.AtFrag 1 0 0 crew0 team0 thread0 ∧ crew0.copy = .solo ∧
    thread0.heldFree = true ∧ thread0.exm ≠ 0 ∧ team0.phase ≠ .commit ∧
    padStAcc = small.laneAccess me0 team0 thread0 4 63 (some 1) true 0 ∧ crew0.body.pad.holdsAll padStAcc.1 ∧
    small.mayIssue me0 thread0 ([.s 63] ++ idxName (some 1) ++ [.v 2]) [] = true ∧
    (∀ g ∈ mgroups thread0.exm, small.joined me0 ([team0.vlab 2 g] ++ padStAcc.2 g ++ [thread0.pcl]) =
      some (0, (small.ctx crew0.vf).labels)) ∧
    (∀ e ∈ padStAcc.1.eas, (small.ctx crew0.vf).dominates (crew0.body.pad.lab (padLine e.2.toNat)) 0 = true) ∧
    small.padFit crew0 (padStAcc.1.eas.map (fun e => padLine e.2.toNat)) = true ∧
    goesTo (exec (.vsts .b32 true 2 63 (some 1) 0) small) (fun u => (kvFind u.crews 1).any (fun c =>
      c.body.pad.nat 4 4 == 10 && c.body.pad.nat 8 4 == 20)) = true :=
  ⟨small_at, rfl, by decide +kernel, by decide +kernel, by decide +kernel, rfl, by dsimp only [Pad.holdsAll]; decide +kernel,
    by decide +kernel, groups0 (by decide +kernel), by decide +kernel⟩
theorem witness_PadAndTileCompletions_stream : streaming.AtSeq 1 0 crew5 seq0 ∧ crew5.body.grant = some grant0 ∧
    grant0.mseq = some 0 ∧ grant0.tiles[0]? = some tile0 ∧ streaming.tileBusy 1 0 = false ∧ streaming.tileLogs 1 0 = true ∧
    streaming.mayIssue (.seq 1 0) seq0.th [] [] = true ∧ streaming.mayIssue (.seq 1 0) seq0.th [.s 4] [] = true ∧
    tile0.poison = false ∧ streaming.joined (.seq 1 0) [tile0.lab, (streaming.readS (.seq 1 0) 4).lab, seq0.th.pcl] =
      some (0, (streaming.ctx crew5.vf).labels) ∧
    tileAt (exec (.mzero 0) streaming) (fun t => t == { lab := 0 }) = true ∧
    tileAt (exec (.mrsclUniform 0 4) streaming) (fun t => t == { (List.range 128).foldl (fun t r =>
      t.scaleRow r 0x40000000) tile0 with lab := 0 }) = true := ⟨streaming_at, rfl, by decide +kernel⟩
theorem witness_PadAndTileCompletions_team : granted.AtFrag 1 0 0 crew5 team0 thread0 ∧ thread0.heldFree = true ∧ thread0.exm ≠ 0 ∧
    crew5.body.grant = some grant0 ∧ grant0.met = false ∧ grant0.tiles[0]? = some tile0 ∧ granted.tileBusy 1 0 = false ∧
    tile0.poison = false ∧ granted.tileLogs 1 0 = true ∧ granted.hasName me0 (.v 5) = true ∧
    granted.mayIssue me0 thread0 [.s 63] [.v 5] = true ∧
    granted.wordsJoined me0 team0 thread0 5 (fun _ => [tile0.lab, (granted.readS me0 63).lab]) ∧
    granted.mayIssue me0 thread0 [.v 1, .s 5] [] = true ∧
    granted.joined me0 ([tile0.lab] ++ team0.crossLab thread0.exm 1 ++ [(granted.readS me0 5).lab] ++ [thread0.pcl]) =
      some (0, (granted.ctx crew5.vf).labels) ∧
    granted.mayIssue me0 thread0 [.v 1] [] = true ∧
    granted.joined me0 ([tile0.lab] ++ team0.crossLab thread0.exm 1 ++ [thread0.pcl]) = some (0, (granted.ctx crew5.vf).labels) ∧
    leavesV (exec (.mdrain 1 .f32 .rn 5 0 63) granted) 5 [0x3F800000, 0, 0, 0] = true ∧
    tileAt (exec (.mfill .f32 0 1 5) granted) (fun t => t.at 3 2 == 4 && t.at 0 0 == 0x3F800000) = true ∧
    tileAt (exec (.mrsclVector 0 1) granted) (fun t => t.at 3 5 == 0 && t.lab == 0) = true :=
  ⟨granted_at, by decide +kernel, by decide +kernel, rfl, by decide +kernel, by decide +kernel, by decide +kernel, by decide +kernel,
    by decide +kernel, by decide +kernel, by decide +kernel, groups0 ⟨0, 0, by decide +kernel, by decide +kernel⟩, by decide +kernel⟩
def grantedIdle : State := granted.modThread me0 (fun th => { th with exm := 0 })
theorem witness_TileInstructions_idle :
    isNext (exec (.mdrain 1 .f32 .rn 5 0 63) grantedIdle) (grantedIdle.finish (grantedIdle.opened me0 [.v 5] (some (1, classMd))) me0 {}) =
      true ∧
    isNext (exec (.mfill .f32 0 1 5) grantedIdle) (grantedIdle.finish grantedIdle me0 {}) = true ∧
    isNext (exec (.mrsclVector 0 1) grantedIdle) (grantedIdle.finish grantedIdle me0 {}) = true := by decide +kernel

/-! ### Shapes and queues -/

def shapeAcc (s : State) : Acc := { uni := true, size := 128, eas := [(0, ((s.readS me0 4).val.toNat : Int))]
                                    alab := [(s.readS me0 4).lab] ++ s.claimLabs me0 }
def shapeChk : EStateM.Result Stop State (List Loc) := checkAcc .load (shapeAcc copying) copying
def shapeVal : EStateM.Result Stop State Nat := loadLoc .core .rlx 128 loc0 ((stOf shapeChk).setLabels 0 [0, 1, 2, 3])
theorem witness_ShapeResult : copying.Turn me0 thread0 ∧ shapeChk = .ok [loc0] (stOf shapeChk) ∧
    shapeVal = .ok (valOf shapeVal) (stOf shapeVal) ∧ copying.mayIssue me0 thread0 [.s 4] [.s 7] = true ∧
    (stOf shapeChk).joined me0 ([(stOf shapeChk).granLab loc0.line] ++ [(copying.readS me0 4).lab, thread0.pcl]) =
      some (0, [0, 1, 2, 3]) ∧ (stOf shapeVal).cur = some me0 ∧ shapeCheck (fun _ => true) (shapeOf (valOf shapeVal)) = none ∧
    boxCount (shapeOf (valOf shapeVal)) = 4 ∧ shapeCount (shapeOf (valOf shapeVal)) = 4 ∧
    isNext (exec (.shape 7 4) copying) (copying.finish ((stOf shapeVal).writeS me0 7 { val := 0x400000000, lab := 0 }) me0 {}) = true :=
  ⟨copying_turn, ok_of (by decide +kernel), ok_self (by decide +kernel), by decide +kernel⟩
def shapeChk0 : EStateM.Result Stop State (List Loc) := checkAcc .load (shapeAcc small) small
def shapeVal0 : EStateM.Result Stop State Nat := loadLoc .core .rlx 128 loc0 ((stOf shapeChk0).setLabels 0 [0, 1, 2, 3])
theorem witness_ShapeResult_fails : shapeChk0 = .ok [loc0] (stOf shapeChk0) ∧ shapeVal0 = .ok 0 (stOf shapeVal0) ∧
    shapeCheck (fun _ => true) (shapeOf 0) = some 3 ∧
    isNext (exec (.shape 7 4) small) (small.finish ((stOf shapeVal0).writeS me0 7 { val := 3, lab := 0 }) me0 {}) = true :=
  ⟨ok_of (by decide +kernel), ok_of (by decide +kernel), by decide +kernel⟩

/-- Queue 0 has been appended to behind a commit point and a release. -/
def queuesAt : State := queues.setLabels 0 [0, 1, 2, 3]
def appendOf (s : State) (q : Nat) (r : Word) : Append :=
  (s.released me0).append 0 q r (some ((s.released me0).authOf me0, (s.released me0).clearOf me0)) (some 0)
def appendSt (a : Append) : State := match a with | .done _ t => t | _ => small
def appendIs (a : Append) (n : Nat) : Bool := match a with | .done m _ => decide (m = n) | _ => false
theorem append_of {a : Append} {n : Nat} (h : appendIs a n = true) : a = .done n (appendSt a) := by
  cases a with
  | done m t =>
    simp only [appendIs, decide_eq_true_eq] at h
    rw [h]
    rfl
  | refused n => simp [appendIs] at h
  | flow => simp [appendIs] at h
  | held ls => simp [appendIs] at h
def castSt : State := appendSt (appendOf queuesAt 0 0x100000)
theorem queues_turn : queues.Turn me0 thread0 := ⟨rfl, rfl⟩
theorem witness_QueueAppends_cast : queues.Turn me0 thread0 ∧ appendOf queuesAt 0 0x100000 = .done 3 castSt ∧
    recordHere 8 [0x100000, 3] castSt = .ok ⟨⟩ castSt ∧ castSt.Turn me0 thread0 ∧ Acts me0 thread0 ∧
    kvFind queues.crews 1 = some crew0 ∧ queues.mayIssue me0 thread0 [.s 4] [.s 4] = true ∧
    queues.joined me0 [(queues.readS me0 4).lab, thread0.pcl] = some (0, [0, 1, 2, 3]) ∧ thread0.park = .run ∧
    queuesAt.mayCommit 1 crew0 = true ∧ queuesAt.coreHeld 0 0 [] = false ∧ ((queuesAt.commitNow 1).wtCoreOf 1).cur = queuesAt.cur ∧
    isNext (exec (.cast 4) queues) (queues.finish (castSt.writeS me0 4 { val := 3, lab := 0 }) me0 { past := true }) = true :=
  ⟨queues_turn, append_of (by decide +kernel), ok_of (by decide +kernel), by dsimp only [State.Turn]; decide +kernel,
    by dsimp only [Acts, me0]; decide +kernel, by decide +kernel⟩
/-- Every slot of queue 0 is labelled 0, and the register that names the record 1. -/
def labelQueue : State := (queues.writeS me0 4 { val := 0x100000, lab := 1 }).modTeam 1 0 (fun t => { t with clear := 3 })
theorem witness_QueueAppends_flow :
    (match ((labelQueue.released me0).append 0 0 0x100000 (some ((labelQueue.released me0).authOf me0, (labelQueue.released me0).clearOf
      me0)) (some 1)) with | .flow => true | _ => false) = true ∧
    traps (exec (.cast 4) labelQueue) 0x0C 0 = true ∧
    isNext (exec (.cast 4) idle) (idle.finish idle me0 {}) = true ∧
    isNext (exec (.qput 7 4 0) idle) (idle.finish idle me0 {}) = true := by decide +kernel
/-- s7 holds the address of the table of queues; queue 1 is enabled. -/
def putting : State := ((withMem [(0x220000, 0x121000), (0x220008, 0x0104), (0x220010, 3), (0x220040, 0x121100), (0x220048, 0x0104)]).modCtx 0
  (fun c => { c with lqt := 0x120000 })).writeS me0 7 { val := 0x120000 }
def putAcc : Acc := { uni := true, size := 64, eas := [(0, 0x120040)], alab := [(putting.readS me0 7).lab] ++ putting.claimLabs me0 }
def putChk : EStateM.Result Stop State (List Loc) := checkAcc .load putAcc putting
def putLoc : Loc := ((valOf putChk).head?).getD loc0
def puttingAt : State := (stOf putChk).setLabels 0 [0, 1, 2, 3]
theorem putting_turn : putting.Turn me0 thread0 := ⟨rfl, rfl⟩
theorem witness_QueueAppends_qput : putting.Turn me0 thread0 ∧ putChk = .ok [putLoc] (stOf putChk) ∧
    putting.mayIssue me0 thread0 [.s 7, .s 4] [.s 4] = true ∧ ((putting.readS me0 7).val.toNat : Int) + 0x40 = 0x120040 ∧
    (stOf putChk).joined me0 [(putting.readS me0 4).lab, (putting.readS me0 7).lab, thread0.pcl] = some (0, [0, 1, 2, 3]) ∧
    (puttingAt.ctx 0).lqt = 0x120000 ∧ putLoc.ms = true ∧ paLocal putLoc.pa = true ∧
    (match (puttingAt.released me0).append 0 1 0x100000 (some ((puttingAt.released me0).authOf me0, (puttingAt.released me0).clearOf
      me0)) (some 0) with
      | .refused n => n == 1
      | _ => false) = true ∧
    isNext (exec (.qput 7 4 0x40) putting) (putting.finish ((puttingAt.released me0).writeS me0 4 { val := refused 1, lab := 0 }) me0
      { past := true }) = true ∧
    isNext (exec (.qput 7 4 0) putting) (putting.finish ((stOf (checkAcc .load { putAcc with eas := [(0, 0x120000)] } putting)).released
      me0 |>.writeS me0 4 { val := refused 4, lab := 0 }) me0 { past := true }) = true :=
  ⟨putting_turn, ok_of (by decide +kernel), by decide +kernel⟩

/-! ### System registers -/

theorem witness_SystemRegisters_read : small.AtFrag 1 0 0 crew0 team0 thread0 ∧ small.mayIssue me0 thread0 [] [.s 7] = true ∧
    privOk (sysReadPriv 0x020) thread0.priv = false ∧ privOk (sysReadPriv 0x005) thread0.priv = true ∧
    fragReg small crew0 team0 thread0 0x005 = some team0.pkr ∧ team0.phase = .none ∧
    traps (exec (.sysr 7 0x020) small) 0x1C 0 = true ∧
    isNext (exec (.sysr 7 0x000) small) (small.finish ((small.recorded 1 0 4 [100]).writeS me0 7 { val := 100, lab := 0 }) me0 {}) =
      true ∧
    isNext (exec (.sysr 7 0x001) small) (small.finish (small.writeS me0 7 { val := 0, lab := 0 }) me0 {}) = true ∧
    isNext (exec (.sysr 7 0x005) small) (small.finish (small.writeS me0 7 { val := team0.pkr, lab := 0 }) me0 {}) = true :=
  ⟨small_at, by decide +kernel⟩
/-- The small machine's fragment at context-supervisor privilege. -/
def trusted : State := asSup .ctxSup small
def threadT : Thread := { thread0 with priv := .ctxSup }
def teamT : Team := { team0 with frags := [(0, threadT)] }
def crewT : Crew := { crew0 with body := { crew0.body with teams := [(0, teamT)] } }
theorem trusted_at : trusted.AtFrag 1 0 0 crewT teamT threadT := ⟨rfl, rfl, rfl, rfl⟩
theorem witness_SystemRegisters_write : trusted.AtFrag 1 0 0 crewT teamT threadT ∧ trusted.mayIssue me0 threadT [.s 1] [] = true ∧
    privOk (sysWritePriv 0x020) threadT.priv = false ∧ privOk (sysWritePriv 0x010) threadT.priv = true ∧ threadT.openSpan = none ∧
    (trusted.readS me0 1).lab = 0 ∧ (trusted.readS me0 6).lab ≠ 0 ∧
    isNext (exec (.sysw 0x020 1) trusted) (trusted.finish trusted me0 {}) = true ∧ privOk (sysReadPriv 0x021) threadT.priv = false ∧
    traps (exec (.sysw 0x030 1) trusted) 0x1C 0 = true ∧
    traps (exec (.sysw 0x010 6) trusted) 0x0D 0 = true ∧
    traps (exec (.pkeyw 6) trusted) 0x0D 0 = true ∧
    isNext (exec (.pkeyw 1) trusted) (trusted.finish (trusted.modTeam 1 0 (fun x => { x with pkr := 7 })) me0 {}) = true ∧
    isNext (exec (.sysw 0x005 1) trusted) (trusted.finish (trusted.modTeam 1 0 (fun x => { x with pkr := 7 })) me0 {}) = true ∧
    isNext (exec (.sysw 0x011 1) trusted) (trusted.finish (trusted.modCtx 0 (fun x => setCtxReg x 0x011 7)) me0 {}) = true ∧
    isNext (exec (.sysw 0x017 1) trusted) (trusted.finish trusted me0 {}) = true := ⟨trusted_at, by decide +kernel⟩
/-- Supervisor core 3 serves context 0, which has no crew. -/
def serving : State := { supervised with crews := [], sups := [(3, { th := thread5, s := [(1, { val := 0x1007 })], serving := some 0 })] }
theorem witness_SystemRegisters_sup : supervised.Turn (.sup 3) thread5 ∧ thread5.priv = .devSup ∧
    (supervised.readS (.sup 3) 1).val = 0x1007 ∧ supervised.mayIssue (.sup 3) thread5 [.s 1] [] = true ∧ thread5.openSpan = none ∧
    supVf (supervised.sup 3) = none ∧ supVf (serving.sup 3) = some 0 ∧ serving.poolHeld 0 = false ∧
    isNext (exec (.sysw 0x030 1) supervised) (supervised.finish (supervised.setSup 3 { supervised.sup 3 with ctxsel := 7 }) (.sup 3)
      {}) = true ∧
    isNext (exec (.sysw 0x031 1) supervised) (supervised.finish (supervised.setSup 3 { supervised.sup 3 with mcsel := 0x1000 }) (.sup 3)
      {}) = true ∧
    isNext (exec (.sysw 0x032 1) supervised) (supervised.finish (supervised.ctlWrite 0 0 0x1007) (.sup 3) {}) = true ∧
    isNext (exec (.sysw 0x014 1) supervised) (supervised.finish supervised (.sup 3) {}) = true ∧
    isNext (exec (.sysw 0x017 1) serving) (serving.finish (serving.modCtx 0 (fun x => setCtxReg x 0x017 0x1007)) (.sup 3) {}) = true := by
  refine ⟨supervised_turn, ?_⟩
  decide +kernel
theorem witness_SystemRegisters_sup_read : supervised.mayIssue (.sup 3) thread5 [] [.s 2] = true ∧
    isNext (exec (.sysr 2 0x000) supervised) (supervised.finish (supervised.writeS (.sup 3) 2 { val := 100, lab := 0 }) (.sup 3) {}) =
      true ∧
    isNext (exec (.sysr 2 0x030) supervised) (supervised.finish (supervised.writeS (.sup 3) 2 { val := 0, lab := 0 }) (.sup 3) {}) =
      true ∧
    isNext (exec (.sysr 2 0x006) supervised) (supervised.finish (supervised.writeS (.sup 3) 2 { val := 0, lab := 0 }) (.sup 3) {}) =
      true ∧
    isNext (exec (.sysr 2 0x010) serving) (serving.finish (serving.writeS (.sup 3) 2 { val := 0x500000, lab := 0 }) (.sup 3) {}) =
      true := by decide +kernel

/-! ### Translations and handlers -/

def cachedTlb (p : Priv) : State := asSup p withTlb
theorem witness_TranslationMaintenance : (cachedTlb .ctxSup).Turn me0 threadT ∧
    (cachedTlb .ctxSup).mayIssue me0 threadT [.s 4] [] = true ∧ threadT.priv = .ctxSup ∧ canonical 0x100000 = true ∧ threadT.park = .run ∧
    (cachedTlb .ctxSup).mayRelease me0 threadT ∧
    isNext (exec (.tlbinvPage 4) (cachedTlb .ctxSup)) ((cachedTlb .ctxSup).finish ((((cachedTlb .ctxSup).released me0).covered
      (pageCover 0 0x100000 false)).getD small) me0 { past := true }) = true ∧
    isNext (exec (.tlbinvCtx 63) (cachedTlb .ctxSup)) ((cachedTlb .ctxSup).finish ((((cachedTlb .ctxSup).released me0).covered
      (ctxCover 0)).getD small) me0 { past := true }) = true ∧
    isNext (exec (.tlbinvAll 63) (cachedTlb .devSup)) ((cachedTlb .devSup).finish ((((cachedTlb .devSup).released me0).covered
      allCover).getD small) me0 { past := true }) = true ∧
    (((cachedTlb .ctxSup).released me0).covered (pageCover 0 0x100000 false)).isSome = true ∧
    (((cachedTlb .devSup).released me0).covered allCover).isSome = true :=
  ⟨⟨rfl, rfl⟩, by decide +kernel, rfl, by decide +kernel, rfl, may_release (c := crewT) rfl rfl (by decide +kernel), by decide +kernel⟩
theorem witness_TranslationMaintenance_faults : thread0.priv = .user ∧
    traps (exec (.tlbinvPage 4) withTlb) 0x1C 0 = true ∧
    traps (exec (.tlbinvCtx 4) withTlb) 0x1C 0 = true ∧
    traps (exec (.tlbinvAll 4) (cachedTlb .ctxSup)) 0x1C 0 = true ∧
    canonical 0x0100000000000000 = false ∧
    traps (exec (.tlbinvPage 4) (asSup .ctxSup (aimed 0x0100000000000000))) 0x05 0 = true := by decide +kernel
theorem witness_TranslationMaintenance_drop :
    ((withTlb.tlbDrop (fun e => e.vf == 0) (fun m => m / 2 ^ 64 == 0)).cluster 0).tlb.map (fun e => e.vf) = [1] := by decide +kernel
/-- Supervisor core 3 with two numbers for FRINV. -/
def flushing (x n : Word) : State :=
  { supervised with sups := [(3, { th := thread5, s := [(8, { val := x }), (9, { val := n })] })] }
/-- The core's FRINV of a page has been entered. -/
def entered : State :=
  { flushing 0x200000 4096 with frinvs := [(3, (0x4000, 0x401F, (flushing 0x200000 4096).openMmas))], l2 := [(0x4000, {})] }
def inPage (k : Nat) : Bool := decide (0x4000 ≤ k) && decide (k ≤ 0x401F)
/-- A pin holds a line of the page. -/
def pinned1 : State := { flushing 0x200000 4096 with pins := [0x4001] }
theorem witness_TranslationMaintenance_frinv : (flushing 0x200000 4096).Turn (.sup 3) thread5 ∧
    (flushing 0x200000 4096).mayIssue (.sup 3) thread5 [.s 8, .s 9] [] = true ∧
    (∀ e ∈ kvFind entered.frinvs 3, ∀ m ∈ e.2.2, m ∉ entered.openMmas) ∧ (∀ k ∈ entered.pins, inPage k = false) ∧
    entered.evictLines inPage = (true, (entered.evictLines inPage).2) ∧
    isNext (exec (.frinv 8 9) { flushing 0x200000 4096 with l2 := [(0x4000, {})] }) (entered.finish
      { ((entered.evictLines inPage).2.evictStash inPage) with l2 := [], frinvs := [] } (.sup 3) {}) = true ∧
    isNext (exec (.frinv 8 9) pinned1) (({ pinned1 with frinvs := entered.frinvs }).parkThread (.sup 3) (keepPair thread5.park
      .pinned)) = true ∧
    isNext (exec (.frinv 8 9) (flushing 0x200000 0)) ((flushing 0x200000 0).finish (flushing 0x200000 0) (.sup 3) {}) = true ∧
    traps (exec (.frinv 8 9) (asSup .devSup ((small.writeS me0 8 { val := 0x200008 }).writeS me0 9 {}))) 0x1B 0 = true ∧
    traps (exec (.frinv 8 9) (asSup .devSup ((small.writeS me0 8 { val := 0xFFFFFF000 }).writeS me0 9 { val := 0x2000 }))) 0x06 0 =
      true ∧
    traps (exec (.frinv 8 9) small) 0x1C 0 = true := ⟨⟨rfl, rfl⟩, by decide +kernel⟩

def addrPre : EStateM.Result Stop State PUnit := prepareV 8 (fun _ => frame0.plbl :: frame0.alab) handling
def addrPre1 : EStateM.Result Stop State PUnit := prepareV 9 (fun _ => frame0.plbl :: frame0.alab) (stOf addrPre)
def addrLo : EStateM.Result Stop State PUnit :=
  writeV 8 (fun _ => frame0.plbl :: frame0.alab) (fun l => (frameAddr frame0 l).extractLsb' 0 32) (stOf addrPre1)
def addrHi : EStateM.Result Stop State PUnit :=
  writeV 9 (fun _ => frame0.plbl :: frame0.alab) (fun l => (frameAddr frame0 l).extractLsb' 32 32) (stOf addrLo)
theorem witness_HandlerInstructions_faultr : handling.AtFrag 1 0 0 crew6 team6 thread6 ∧ addrPre = .ok ⟨⟩ (stOf addrPre) ∧
    addrPre1 = .ok ⟨⟩ (stOf addrPre1) ∧ addrLo = .ok ⟨⟩ (stOf addrLo) ∧ addrHi = .ok ⟨⟩ (stOf addrHi) ∧ thread6.priv = .ctxSup ∧
    thread6.handler = true ∧ team6.frame = some frame0 ∧ frame0.frag = 0 ∧ thread6.exm ≠ 0 ∧
    frameField frame0 .info = some (5, [0]) ∧ handling.mayIssue me0 thread6 [] [.s 7] = true ∧
    handling.joined me0 [0] = some (0, [0, 1, 2, 3]) ∧ handling.mayIssue me0 thread6 [] [.m 3] = true ∧
    handling.maskLabel me0 team6 3 thread6.exm (frame0.plbl :: frame0.alab ++ [thread6.pcl]) = some (0, [0, 1, 2, 3]) ∧
    handling.hasName me0 (.v 8) = true ∧ handling.mayIssue me0 thread6 [] [.v 8, .v 9] = true ∧
    isNext (exec (.faultr .info 7) handling) (handling.finish ((handling.setLabels 0 [0, 1, 2, 3]).writeS me0 7 { val := 5, lab := 0 })
      me0 {}) = true ∧
    isNext (exec (.faultr .mask 3) handling) (handling.finish ((handling.setLabels 0 [0, 1, 2, 3]).putMask 1 0 0 team6 3 thread6.exm
      frame0.lanes 0) me0 {}) = true ∧
    isNext (exec (.faultr .addr 8) handling) (handling.finish (stOf addrHi) me0 {}) = true ∧
    traps (exec (.faultr .addr 8) small) 0x1C 0 = true :=
  ⟨handling_at, ok_of (by decide +kernel), ok_of (by decide +kernel), ok_of (by decide +kernel), ok_of (by decide +kernel),
    by decide +kernel⟩
def handlingIdle : State := handling.modThread me0 (fun th => { th with exm := 0 })
theorem witness_HandlerInstructions_idle :
    isNext (exec (.faultr .mask 3) handlingIdle) (handlingIdle.finish handlingIdle me0 {}) = true := by decide +kernel
/-- A page to map, with one page in the pool. -/
def mapping : State := (asSup .ctxSup (small.writeS me0 7 { val := 0x140000 })).modCtx 0 (fun c => { c with pool := [0x300000] })
def pageKeep : EStateM.Result Stop State (List Nat) := faultPages (mapping.commitNow 1)
def roomOf (r : Room) : State := match r with | .room u => u | _ => small
def isRoom (r : Room) : Bool := match r with | .room _ => true | _ => false
def mapCrewP : Crew := (kvFind mapping.crews 1).getD crew0
theorem witness_HandlerInstructions_pgmap : mapping.Turn me0 threadT ∧ pageKeep = .ok [] (mapping.commitNow 1) ∧
    mapping.mayIssue me0 threadT [.s 7] [] = true ∧ canonical 0x140000 = true ∧ mapping.mayCommit 1 mapCrewP = true ∧
    (match mapping.mapAt (mapping.ctx 0).root 0x140000 with | .missing n => n == 0 | _ => false) = true ∧
    isRoom ((mapping.commitNow 1).makeRoom 0 1 [] 1) = true ∧ (roomOf ((mapping.commitNow 1).makeRoom 0 1 [] 1)).cur = mapping.cur ∧
    threadT.began = none ∧ 1 ≤ ((mapping.commitNow 1).ctx 0).pool.length ∧
    isNext (exec (.pgmap 7) mapping) (mapping.finish (((roomOf ((mapping.commitNow 1).makeRoom 0 1 [] 1)).mapNow 0 0x140000 0
      ((mapping.commitNow 1).ctx 0).pgattr).endEscalation 0) me0
      { past := true }) = true ∧
    (match trusted.mapAt (trusted.ctx 0).root 0x100000 with | .valid => true | _ => false) = true ∧
    isNext (exec (.pgmap 4) trusted) (trusted.finish (trusted.commitNow 1) me0 { past := true }) = true ∧
    traps (exec (.pgmap 4) small) 0x1C 0 = true ∧
    traps (exec (.pgmap 4) (asSup .ctxSup (aimed 0x0100000000000000))) 0x05 0 = true :=
  ⟨⟨rfl, rfl⟩, ok_of (by decide +kernel), by decide +kernel⟩
/-- A swapped page at 0x150000, and a malformed entry at 0x160000. -/
def badPages : State := { trusted with hbm := mem64 (tables pagesHere ++ [(0x300A8, 0x2000), (0x300B0, 0x3)]) }
theorem witness_HandlerInstructions_walks :
    (match badPages.mapAt (badPages.ctx 0).root 0x150000 with | .swapped => true | _ => false) = true ∧
    (match badPages.mapAt (badPages.ctx 0).root 0x160000 with | .malformed => true | _ => false) = true ∧
    isNext (exec (.pgmap 7) (badPages.writeS me0 7 { val := 0x150000 })) ((badPages.writeS me0 7 { val := 0x150000 }).finish
      (badPages.writeS me0 7 { val := 0x150000 }) me0 {}) = true ∧
    traps (exec (.pgmap 7) (badPages.writeS me0 7 { val := 0x160000 })) 0x07 2 = true := by decide +kernel

end Sys2Proof.Tests
end

