-- ==== Sys2Proof/Tests/WitnessesEvents.lean ====
section
/-! SUPPORT. Witnesses for the statements about the events of the cores, commit points and errors, and the dispatcher. -/

namespace Sys2Proof.Tests
open Sys2Proof.Machine
set_option Elab.async false

/-! ### Events of the cores -/

/-- Line 2 of the stash window is wanted. -/
def wanting : State := stashed.modCrew 1 (fun c => c.modBody (fun b => { b with pad := { b.pad with wanted := [(2, 0x4001)] } }))
def crewWant : Crew := (kvFind wanting.crews 1).getD crew0
theorem witness_CoreEvents_fill : kvFind wanting.crews 1 = some crewWant ∧ crewWant.resident = true ∧
    kvFind crewWant.body.pad.wanted 2 = some 0x4001 ∧ wanting.bad 0x4001 = false ∧
    wanting.l1Bad 0 0 0x4001 = false ∧ wanting.l1Has crewWant 1 = true ∧ wanting.holders 0 0 0x4001 (some 1) = [] ∧
    (decide (wanting.padRoom 1 2 = (true, wanting)) = true) ∧
    ({ wanting with poison := [0x4001] } : State).storedWhole crewWant 0x4001 = false ∧
    goesTo (exec (.stashFill 1 2) { wanting with hbm := kvPut 0 wanting.hbm 0x200085 7 }) (fun u => (kvFind u.crews 1).any (fun c =>
      c.body.pad.wanted == [] && kvGet 0 c.body.pad.bytes 261 == 7 && !c.body.pad.absent.contains 2 && c.padLog == [2])) = true ∧
    isNext (exec (.stashFill 1 2) { wanting with poison := [0x4001] }) (({ wanting with poison := [0x4001] } : State).consumed 1
      0x200080) = true ∧
    isNext (exec (.stashFill 1 2) (wanting.modL1 0 0 (fun l => { l with poison := [0x4001], clean := [(0x4001, [])] })))
      ((wanting.modL1 0 0 (fun l => { l with poison := [0x4001], clean := [(0x4001, [])] })).consumed 1 0x200080) = true := ⟨by decide +kernel, by decide +kernel⟩
/-- The thread stands inside a clause that runs, or its slot has chosen it. -/
def threadR : Thread := { thread0 with active := true }
def resuming : State := withThread (fun _ => threadR)
def chosen0 : State := small.modCluster 0 (fun q => { q with running := [(0, me0)] })
theorem witness_CoreEvents_resume : resuming.thread? me0 = some threadR ∧ resuming.issuable me0 threadR = true ∧
    resuming.seqTurn me0 = true ∧ threadR.park = .run ∧ threadR.clause ≠ [] ∧
    isNext (exec (.clauseStart me0) resuming) { resuming.takesTurn me0 with cur := some me0 } = true ∧
    chosen0.thread? me0 = some thread0 ∧ chosen0.issuable me0 thread0 = true ∧ chosen0.seqTurn me0 = true ∧
    chosen0.chosen me0 = true ∧ isNext (exec (.clauseStart me0) chosen0) { chosen0.takesTurn me0 with cur := some me0 } = true := by
  decide +kernel
/-- Two siblings at the join at 0x110080, the taken side with lanes 0 and 1. -/
def refOf (taken : Bool) : SplitRef := SplitRef.mk 5 0x110080 0 none true taken 0 0
def side (taken : Bool) (m : Mask) : Thread :=
  { pc := 0x110080, clause := [], exm := m, f := m, stack := [refOf taken] }
def split2 (a b : Thread) : State := coded.modTeam 1 0 (fun t => { t with frags := [(0, a), (1, b)], nextFrag := 2 })
def joining : State := split2 (side true 3) (side false 0xC)
def teamJ : Team := { team0 with frags := [(0, side true 3), (1, side false 0xC)], nextFrag := 2 }
theorem witness_CoreEvents_join : joining.thread? me0 = some (side true 3) ∧ joining.issuable me0 (side true 3) = true ∧
    joining.seqTurn me0 = true ∧ joining.team? 1 0 = some teamJ ∧ teamJ.others 0 5 = true ∧ (refOf true).split = true ∧ (refOf true).join = (side true 3).pc ∧
    isNext (exec (.clauseStart me0) joining) ((joining.unchoose me0).parkThread me0 .join) = true := by decide +kernel
def aloneJ : State := coded.modTeam 1 0 (fun t => { t with frags := [(0, side true 3)], nextFrag := 2 })
theorem witness_CoreEvents_pass : aloneJ.thread? me0 = some (side true 3) ∧
    ((aloneJ.team? 1 0).any (fun tm => !tm.others 0 5)) = true ∧ (refOf true).span = none ∧
    aloneJ.seqTurn me0 = true ∧ goesTo (exec (.clauseStart me0) aloneJ) (fun u => (u.thread? me0).any (fun th => th.stack == [] && th.pc == 0x110080 && th.exm == 3)) =
      true := by decide +kernel
/-- The thread stands at a header that its slot has chosen it for: a clause of one instruction at 0x110090, one that names the matrix
engine at 0x110080, one that waits for loads at 0x1100A0. -/
def started (va : Nat) : State :=
  ((withMem [(0x210080, 0xF200000000000000), (0x210090, 0xF000000000000000), (0x210098, 0x1100006000000001), (0x2100A0, 0xF000800000000000),
    (0x2100A8, 0)]).modThread me0 (fun th => { th with pc := va, clause := [], outSt := 1 })).modCluster 0 (fun q => { q with
      running := [(0, me0)] })
def threadAt (va : Nat) : Thread := { thread0 with pc := va, clause := [], outSt := 1 }
def fetchOf (s : State) (va : Nat) : Word × State := match (s.takesTurn me0).fetchFor me0 va with | .ok x => x | .error _ => (0, s)
def wordsOf (s : State) (va : Nat) : List Word × State :=
  let t := (fetchOf s va).2
  match t.fetchWords (t.fetchUnit me0) (t.vfOf me0) (t.clOf me0) (t.apOf me0) (va + 8) 1 with | .ok x => x | .error _ => ([], t)
theorem witness_CoreEvents_start : (started 0x110090).thread? me0 = some (threadAt 0x110090) ∧
    (started 0x110090).issuable me0 (threadAt 0x110090) = true ∧ (started 0x110090).chosen me0 = true ∧ (started 0x110090).seqTurn me0 = true ∧
    hdrOk (fetchOf (started 0x110090) 0x110090).1 = true ∧ hdrLen (fetchOf (started 0x110090) 0x110090).1 = 1 ∧
    (wordsOf (started 0x110090) 0x110090).1 = [0x1100006000000001] ∧
    clauseFault me0 (threadAt 0x110090) (((started 0x110090).takesTurn me0).ownEng me0) (fetchOf (started 0x110090) 0x110090).1 [0x1100006000000001] = none ∧
    (started 0x110090).waitOver me0 (threadAt 0x110090) (fetchOf (started 0x110090) 0x110090).1 = true ∧
    isNext (exec (.clauseStart me0) (started 0x110090)) { (wordsOf (started 0x110090) 0x110090).2.modThread me0
      (startThread 0xF000000000000000 [0x1100006000000001] 100) with cur := some me0 } = true := by decide +kernel
theorem witness_CoreEvents_header : hdrOk (fetchOf (started 0x110098) 0x110098).1 = false ∧
    traps (exec (.clauseStart me0) (started 0x110098)) 0x02 1 = true ∧
    clauseFault me0 (threadAt 0x110080) (((started 0x110080).takesTurn me0).ownEng me0) (fetchOf (started 0x110080) 0x110080).1 (wordsOf (started 0x110080) 0x110080).1 =
      some (0x02, 3) ∧
    traps (exec (.clauseStart me0) (started 0x110080)) 0x02 3 = true ∧
    (started 0x1100A0).waitOver me0 (threadAt 0x1100A0) (fetchOf (started 0x1100A0) 0x1100A0).1 = false ∧
    isNext (exec (.clauseStart me0) (started 0x1100A0)) ((started 0x1100A0).takesTurn me0) = true := by decide +kernel
/-- A fragment is ready, and its slot has chosen none. -/
def choosing : State := { (started 0x110090).unchoose me0 with cur := none }
theorem witness_CoreEvents_choice : choosing.slotBusy 0 0 0 (choosing.slotFrags 0 0 0) = false ∧
    (choosing.slotFrags 0 0 0).map (fun c => (c.ag, c.ready)) = [(me0, true)] ∧
    goesTo (exec (.issueChoice 0 0 0) choosing) (fun u => kvFind (u.cluster 0).running 0 == some me0) = true ∧
    (choosing.slotFrags 0 0 1).any Cand.ready = false ∧ isNext (exec (.issueChoice 0 0 1) choosing) choosing = true ∧
    (started 0x110090).slotBusy 0 0 0 ((started 0x110090).slotFrags 0 0 0) = true ∧
    isNext (exec (.issueChoice 0 0 0) (started 0x110090)) (started 0x110090) = true := by decide +kernel
/-- The fragment has two instructions outstanding: a load held for line 2 of the stash window, and one that has its result. -/
def held0 : HeldLoad :=
  { pc := 0x110000, slot := 0, clause := [0, 0], ty := .b32, dst := 5, mask := 0xF, offs := [(0, 256), (1, 260), (2, 264), (3, 268)]
    alab := [(0, [0])], flab := [0], need := [2] }
/-- The same when its line has come. -/
def held1 : HeldLoad := { held0 with need := [], got := [(256, 5), (260, 6)], labs := [(2, 1)] }
def pends : List Pending := [{ dsts := [.v 5], left := 2, cls := classSp, held := some held0 }, { dsts := [.v 6], left := 1, cls := classLd }]
def outstanding : State := stashed.modThread me0 (fun th => { th with pend := pends })
def threadP : Thread := { thread0 with pend := pends }
def crewP : Crew := (kvFind outstanding.crews 1).getD crew0
/-- The line has come. -/
def arrived : State := stashed.modThread me0 (fun th => { th with pend := [{ dsts := [.v 5], left := 2, cls := classSp, held := some held1 }] })
/-- The line has failed, or has come with poison. -/
def held2 : HeldLoad := { held0 with need := [], lost := [2] }
def held3 : HeldLoad := { held1 with spoilt := [2] }
def lost (h : HeldLoad) : State :=
  stashed.modThread me0 (fun th => { th with pend := [{ dsts := [.v 5], left := 2, cls := classSp, held := some h }] })
def delivered : EStateM.Result Stop State PUnit := deliver 0 held1 { arrived with cur := some me0 }
theorem witness_CoreEvents_complete : outstanding.thread? me0 = some threadP ∧ threadP.pend[1]?.any (fun p => p.held.isNone) = true ∧
    isNext (exec (.longLatencyComplete me0 1) outstanding) (outstanding.modThread me0 (fun x => { x with pend := x.pend.eraseIdx 1 })) =
      true ∧
    held0.lostLanes = [] ∧ held0.here = false ∧ held1.here = true ∧ held1.lostLanes = [] ∧ held1.bad? = none ∧
    isNext (exec (.longLatencyComplete me0 0) outstanding) outstanding = true ∧ okR delivered = true ∧
    isNext (exec (.longLatencyComplete me0 0) arrived) { arrived.noteUndo (stOf delivered) me0 0 with cur := arrived.cur } = true ∧
    goesTo (exec (.longLatencyComplete me0 0) arrived) (fun u => (u.team? 1 0).any (fun t =>
      (List.range 4).map (t.lane 5) == [5, 6, 0, 0] && (t.word 5 0).lab == 1)) = true ∧
    held2.lostLanes = held2.offs ∧ held3.lostLanes = [] ∧ held3.here = true ∧ held3.bad? = some 256 ∧
    isNext (exec (.longLatencyComplete me0 0) (lost held3)) ((lost held3).consumedPad 1 256) = true ∧
    isNext (exec (.longLatencyComplete me0 0) (lost held2)) ((lost held2).failHeld me0 1 0 0 held2
      { code := 0x14, lanes := maskOf [0, 1, 2, 3], addrs := [(0, 256), (1, 260), (2, 264), (3, 268)], alab := [0] }) = true := by decide +kernel
theorem witness_CoreEvents_returns : (started 0x110090).thread? me0 = some (threadAt 0x110090) ∧
    goesTo (exec (.storePerformed me0) (started 0x110090)) (fun u => (u.thread? me0).any (fun th => th.outSt == 0)) = true ∧
    goesTo (exec (.redAcknowledged me0) (withThread (fun th => { th with outAt := 3 }))) (fun u =>
      (u.thread? me0).any (fun th => th.outAt == 2)) = true := by decide +kernel
/-- Both siblings wait at their join. -/
def meetJ : State := split2 { side true 3 with park := .join } { side false 0xC with park := .join }
theorem witness_CoreEvents_fusion : (meetJ.team? 1 0).any (fun tm => (tm.frags.filter (fun e => atJoinOf 5 e.2)).map Prod.fst == [0, 1]) =
      true ∧ meetJ.mayGo me0 { side true 3 with park := .join } = true ∧
    meetJ.mayGo (.frag 1 0 1) { side false 0xC with park := .join } = true ∧
    goesTo (exec (.fragmentFusion 1 0 5) meetJ) (fun u => (u.team? 1 0).any (fun tm => tm.frags.map (fun e => (e.1, e.2.exm, e.2.f, e.2.park)) ==
      [(0, 0xF, 0xF, Park.run)])) = true ∧
    goesTo (exec (.fragmentFusion 1 0 5) (aloneJ.modThread me0 (fun th => { th with park := .join }))) (fun u =>
      (u.thread? me0).any (fun th => th.park == .run && th.exm == 3 && th.stack == [])) = true := by decide +kernel
/-- The untaken side is spilled; the taken one waits, or runs. -/
def spilled (p : Park) : State := split2 { side true 3 with park := p } { side false 0xC with spilled := true, pc := 0x110018 }
theorem witness_CoreEvents_restore :
    ((spilled .join).team? 1 0).any (fun tm => tm.frags.any (fun e => e.1 != 1 && parkedAt 5 e.2)) = true ∧
    ((kvFind (spilled .join).crews 1).any (spilled .join).savedBad) = false ∧
    isNext (exec (.spillRestore 1 0 1) (spilled .join)) ((spilled .join).modThread (.frag 1 0 1) (fun th =>
      { th with spilled := false, ready := 100, unready := 0 })) = true ∧
    ((spilled .run).team? 1 0).any (fun tm => tm.others 1 5 && !tm.frags.any (fun e => e.1 != 1 && parkedAt 5 e.2)) = true ∧
    isNext (exec (.spillRestore 1 0 1) (spilled .run)) (spilled .run) = true ∧
    goesTo (exec (.spillRestore 1 0 1) ((spilled .join).modCrew 1 (fun c => { c with spoiled := true }))) (fun u =>
      kvFind u.crews 1 == none) = true := by decide +kernel
/-- A fault waits. -/
def trap0 : Trap := { code := 0x0C, lanes := 0xF }
def faulting : State := withThread (fun th => { th with park := .fault trap0 })
theorem witness_CoreEvents_entry : (faulting.thread? me0).any (fun th => faulting.issuable me0 th) = true ∧ team0.frame = none ∧
    traps (exec (.trapEntry me0) faulting) 0x0C 0 = true ∧
    isNext (exec (.trapEntry me0) (faulting.modTeam 1 0 (fun tm => { tm with frame := some frame0 }))) (faulting.modTeam 1 0 (fun tm =>
      { tm with frame := some frame0 })) = true := by decide +kernel
/-- The stream has stopped on a fault, or on a page that is there; a supervisor core serves its context. -/
def unserved (code sub va : Nat) : State :=
  { (granted.modThread (.seq 1 0) (fun th => { th with park := .stopped code sub va, clause := [] })) with cur := none, sups := [(3, {})] }
def stopped (code sub va : Nat) : State := { unserved code sub va with sups := [(3, { serving := some 0 })] }
theorem witness_CoreEvents_stream : ((stopped 0x0C 0 0).thread? (.seq 1 0)).any (fun th => stoppedOn th == none) = true ∧
    isNext (exec (.sequencerFault 1 0) (unserved 0x0C 0 0)) ((unserved 0x0C 0 0).takeEscalation 0) = true ∧
    goesTo (exec (.sequencerFault 1 0) (stopped 0x0C 0 0)) (fun u => kvFind u.crews 1 == none && u.sups.all (fun e =>
      e.2.serving == none)) = true ∧
    ((stopped 0x07 0 0x100000).thread? (.seq 1 0)).any (fun th => stoppedOn th == some (0x100000, 0)) = true ∧
    (stopped 0x07 0 0x100000).switching = false ∧ (stopped 0x07 0 0x100000).pageHere 0 0x10 = true ∧
    goesTo (exec (.sequencerFault 1 0) (stopped 0x07 0 0x100000)) (fun u => (u.thread? (.seq 1 0)).any (fun th => th.park == .run)) =
      true := by decide +kernel
/-- A team waits for words. -/
def growing (n : Nat) : State := withThread (fun th => { th with park := .grow n })
theorem witness_CoreEvents_grant : ((growing 6).team? 1 0).any (fun tm => tm.frags.length == 1) = true ∧
    (growing 6).grantable 1 0 6 = true ∧
    isNext (exec (.registerGrant 1 0) (growing 6)) (((growing 6).giveWords 1 0 6).modThread me0 (fun th =>
      { th with park := .granted, unready := 0, ready := 100 })) = true ∧ (growing 9000).grantable 1 0 9000 = false ∧
    isNext (exec (.registerGrant 1 0) (growing 9000)) ((growing 9000).askHeld 0 0) = true := by decide +kernel
/-- Two crews of the core wait for words. -/
def twoGrow : State := { growing 9000 with crews := (growing 9000).crews ++ ((kvFind (growing 9000).crews 1).toList.map (fun c =>
  (2, { c with order := 4 }))) }
theorem witness_CoreEvents_deadlock : (growing 6).growStuck 0 0 = false ∧ isNext (exec (.growDeadlock 0 0) (growing 6)) (growing 6) = true ∧
    (growing 9000).growStuck 0 0 = true ∧ ((growing 9000).crews.filter (fun e => onCore 0 0 e.2)).map Prod.fst = [1] ∧
    goesTo (exec (.growDeadlock 0 0) (growing 9000)) (fun u => kvFind u.crews 1 == none) = true ∧
    twoGrow.growStuck 0 0 = true ∧ isNext (exec (.growDeadlock 0 0) twoGrow) (twoGrow.relaunch 2 0x22 false) = true := by decide +kernel

/-! ### Commit points and errors -/

theorem witness_CommitEvents_commit : kvFind holding.crews 1 = some crewH ∧ crewH.resident = true ∧ crewH.copy = .solo ∧
    holding.commitWaits 1 = false ∧ holding.areaGone 1 = false ∧ holding.dirtyLines 0 0 1 = [] ∧ crewH.body.pad.dirty = [] ∧
    crewH.unc.reverse.find? (fun y => y.pa == 0x200000) = some { win := 0, pa := 0x200000, val := 9 } ∧
    isNext (exec (.commitPoint 1) holding) (holding.commitNow 1) = true ∧
    kvFind ((holding.commitNow 1).l1 0 0).dirty 0x200000 = some 9 ∧ holding.blockAddr crewH 0 = some 0x240000 ∧
    kvFind (holding.commitNow 1).areas 0x24 = some holding.tick ∧ (holding.commitNow 1).homeByte 0x200000 = holding.homeByte 0x200000 :=
  ⟨rfl, by decide +kernel⟩
/-- A line that the crew has committed and an MMA has pinned, and a block of the context area without its page. -/
def pinnedH : State := { holding.modL1 0 0 (fun l => { l with dirty := [(0x200000, 3)], writers := [(0x4000, [1])] }) with pins := [0x4000] }
def gone : State := holding.modCtx 0 (fun c => { c with carea := 0x800001 })
theorem witness_CommitEvents_waits : pinnedH.commitWaits 1 = true ∧ isNext (exec (.commitPoint 1) pinnedH) pinnedH = true ∧
    gone.commitWaits 1 = false ∧ gone.areaGone 1 = true ∧
    goesTo (exec (.commitPoint 1) gone) (fun u => kvFind u.crews 1 == none) = true := by decide +kernel
theorem witness_CommitEvents_timed : ckptInterval (holding.ctx 0).ckpt = 65536 ∧ crewH.sinceCommit holding.cyc < 65536 ∧
    (kvFind holding.crews 1).any holding.savedBad = false ∧
    isNext (exec (.timedCommitPoint 1) holding) holding = true ∧
    isNext (exec (.timedCommitPoint 1) { holding with cyc := 65536 }) (({ holding with cyc := 65536 } : State).commitNow 1) = true ∧
    goesTo (exec (.rollback 1) holding) (fun u => u.hbm == holding.hbm && (kvFind u.crews 1).any (fun c => c.unc == [])) = true ∧
    goesTo (exec (.rollback 1) (holding.modCrew 1 (fun c => { c with spoiled := true }))) (fun u => kvFind u.crews 1 == none) = true := by
  decide +kernel
/-- The core holds a committed byte; with another that lies before it, when its line has a notice. -/
def committed : State := holding.commitNow 1
def noticed (cid : Nat) : State := { (committed.modL1 0 0 (fun l => { l with
  dirty := kvPut 0 l.dirty 0x200080 8, writers := kvSet l.writers 0x4001 [1] })) with
  notices := [{ line := 0x4000, cl := 0, core := 0, cid := cid }] }
theorem witness_CommitEvents_through : committed.pins.contains 0x4000 = false ∧ committed.l1Dirty 0 0 0x4000 = [(0x200000, 9)] ∧
    committed.crews.all (fun e => e.2.body.pad.dirty == []) = true ∧
    goesTo (exec (.writeThrough 0 0 0x4000) committed) (fun u => u.homeByte 0x200000 == 9 && u.l1Dirty 0 0 0x4000 == []) = true ∧
    isNext (exec (.writeThrough 0 0 0x4000) { committed with pins := [0x4000] }) (({ committed with pins := [0x4000] } : State).askHolders
      (({ committed with pins := [0x4000] } : State).wtWith 0 0 [0x4000])) = true ∧
    (noticed 1).wtReady 0 0 [0x4000] = true ∧
    goesTo (exec (.writeThrough 0 0 0x4000) (noticed 1)) (fun u => u.homeByte 0x200000 == 9 && u.homeByte 0x200080 == 8 &&
      u.l1Dirty 0 0 0x4001 == []) = true := by decide +kernel
def promoting (cid : Nat) : State := { holding with notices := [{ line := 0x4000, cl := 0, core := 0, cid := cid }] }
theorem witness_CommitEvents_promotion :
    (promoting 1).notices.filter (fun n => n.line == 0x4000 && n.cl == 0 && n.core == 0) = [{ line := 0x4000, cl := 0, core := 0, cid := 1 }] ∧
    (promoting 1).commitWaits 1 = false ∧ ((promoting 1).commitNow 1).coreHeld 0 0 [] = false ∧ (promoting 1).areaGone 1 = false ∧
    kvFind (promoting 9).crews 9 = none ∧ (promoting 9).coreHeld 0 0 [] = false ∧
    isNext (exec (.promotionRequest 0x4000 0 0) (promoting 1)) { (((promoting 1).commitNow 1).wtCoreAt 0 0) with notices := [] } = true ∧
    isNext (exec (.promotionRequest 0x4000 0 0) (promoting 9)) { ((promoting 9).wtCoreAt 0 0) with notices := [] } = true := by decide +kernel
/-- A pair of copies whose windows are closed, with the same signature or with others. -/
def closedOf (sig : Word) : Closed := { win := 0, sig := sig, body := crew0.body }
def paired (x y : Word) : State := { small with
  cur := none, crews := [(1, { crew0 with copy := .lead, partner := 2, win := 1, closed := [closedOf x], saved := crew0.body }),
    (2, { crew0 with copy := .trail, partner := 1, core := 1, win := 1, closed := [closedOf y], saved := crew0.body })], nextCid := 3 }
def lead0 : Crew := (kvFind (paired 5 5).crews 1).getD crew0
def trail0 : Crew := (kvFind (paired 5 5).crews 2).getD crew0
theorem witness_CommitEvents_pair : lead0.copy = .lead ∧ lead0.partner = 2 ∧ trail0.copy = .trail ∧ trail0.partner = 1 ∧
    lead0.closed = [closedOf 5] ∧ trail0.closed = [closedOf 5] ∧
    ((paired 5 5).matchWindow 1 2 lead0 trail0 (closedOf 5) (closedOf 5)).isSome = true ∧
    isNext (exec (.windowCompare 1) (paired 5 5)) (((paired 5 5).matchWindow 1 2 lead0 trail0 (closedOf 5) (closedOf 5)).getD small) =
      true ∧
    isNext (exec (.windowCompare 2) (paired 5 5)) (((paired 5 5).matchWindow 1 2 lead0 trail0 (closedOf 5) (closedOf 5)).getD small) =
      true ∧
    lead0.mismatches < 2 ∧ isNext (exec (.windowCompare 1) (paired 5 6)) ((paired 5 6).pairMismatch 1 (5, 6)) = true ∧
    goesTo (exec (.windowCompare 1) (paired 5 6)) (fun u => (kvFind u.crews 2).any (fun c => c.closed == [])) = true := by decide +kernel
theorem witness_CommitEvents_errors : holding.handlerPc 1 0 = none ∧ crewH.perrs < 2 ∧ holding.team? 1 0 = some team0 ∧
    goesTo (exec (.pipelineError 1 .record) holding) (fun u => kvFind u.crews 1 == none) = true ∧
    isNext (exec (.uncorrectableRegister 1 .corrected) holding) { holding with regErrs := [(0, 1)] } = true ∧
    isNext (exec (.uncorrectableRegister 1 (.context 0 4)) granted) (granted.rollback 1) = true ∧
    goesTo (exec (.pipelineError 1 .array) holding) (fun u => (kvFind u.crews 1).any (fun c => c.perrs == 1 && c.unc == [])) = true ∧
    goesTo (exec (.pipelineError 1 (.team 0)) holding) (fun u => (kvFind u.crews 1).any (fun c => c.perrs == 1 && c.unc == [])) = true ∧
    isNext (exec (.pipelineError 1 .array) (holding.modCrew 1 (fun c => { c with perrs := 2 })))
      (((holding.modCrew 1 (fun c => { c with perrs := 2 })).countArray 0 0).contain 1 0x18 0) = true ∧
    isNext (exec (.uncorrectableRegister 1 (.uniform 0 4)) holding) (holding.rollback 1) = true ∧
    isNext (exec (.uncorrectableRegister 1 (.mask 0 1)) holding) (holding.rollback 1) = true ∧
    crewH.regLog.contains (0, vkey 1 0) = false ∧
    goesTo (exec (.uncorrectableRegister 1 (.vector 0 1 0)) holding) (fun u => kvFind u.crews 1 == none) = true ∧
    isNext (exec (.uncorrectableRegister 1 (.vector 0 1 0)) (holding.modCrew 1 (fun c => { c with regLog := [(0, vkey 1 0)] })))
      ((holding.modCrew 1 (fun c => { c with regLog := [(0, vkey 1 0)] })).rollback 1) = true := by decide +kernel
theorem witness_CommitEvents_handler : handling.handlerPc 1 0 = some 0x500840 ∧
    isNext (exec (.pipelineError 1 (.team 0)) handling) ((handling.countSlot 0 0 0).doubleFault 1 0x500840) = true ∧
    isNext (exec (.uncorrectableRegister 1 (.uniform 0 4)) handling) (handling.doubleFault 1 0x500840) = true ∧
    goesTo (.next ((handling.modCrew 1 (fun c => { c with dfaults := 1 })).doubleFault 1 0x500840)) (fun u => kvFind u.crews 1 == none) =
      true := by decide +kernel
theorem witness_CommitEvents_poison : crewH.relaunched = none ∧
    goesTo (exec (.poisonedDataConsumed 1 0x200000) holding) (fun u => (kvFind u.crews 1).any (fun c =>
      c.relaunched == some 0x1A && !c.resident && c.skip == [0])) = true ∧
    goesTo (exec (.poisonedDataConsumed 1 0x200000) (holding.modCrew 1 (fun c => { c with relaunched := some 0x1A }))) (fun u =>
      kvFind u.crews 1 == none) = true := by decide +kernel
/-- The matrix engine holds a command with a pinned line, and no crew of the cluster has an engine of its own. -/
def engined : State := { small with pins := [0x4000, 0x4000, 0x4001], clusters := [(3, { ({} : Cluster) with mq :=
  [{ small.commandOf me0 1 thread0 0 (.mma .sm8 true 0) 4 8 6 false with lines := [(0x2000, 0x8000)] }] })] }
theorem witness_CommitEvents_reset : engined.engineCrews 3 = [] ∧
    goesTo (exec (.engineReset 3) engined) (fun u => u.pins == [0x4000, 0x4001] && (u.cluster 3).mq == []) = true ∧
    goesTo (exec (.l2TagParity 0 0 [0x4000]) small) (fun u => u.hostLog == small.hostLog) = true ∧
    Config.dies ≤ 9 ∧ isNext (exec (.l2TagParity 9 0 [0x4000]) small) small = true := by decide +kernel

/-! ### The dispatcher -/

/-- A launch record of one crew of one team of four lanes, at the data page (R176). -/
def launchWords : List (Nat × Nat) := [(0x200000, 0x110000), (0x200008, 0x0004000100000001), (0x200010, 0x0000040000100020),
  (0x200018, 0x0104), (0x200020, 0x0000000100000001), (0x200028, 1)]
/-- Context 0 runs in a partition of cluster 0; queue 0 holds one packet, that names a record. -/
def part0 : Part := { clust := 1, vfs := 1, slice := 1000, flags := 1, running := some 0 }
def packetAt (record : Nat) : State :=
  { (withMem (launchWords ++ [(0x220000, 0x121000), (0x220008, 0x0104), (0x220010, 1), (0x221000, record)])).modCtx 0 (fun c =>
      { c with lqt := 0x120000 }) with cur := none, crews := [], parts := [(0, part0)] }
def headMoved (s : State) (d : QDesc) (va : Nat) : State := ((s.devTouch 0 (s.devLines 0 (d.slot d.head) 16 ++
    (List.range 4).flatMap (fun k => s.devLines 0 (va + 128 * k) 128))).perform 0 (numBytes 0x220018 8 (d.head + 1)) true).modCtx 0
  (fun c => { c with rr := 0, pktAuth := kvDel c.pktAuth 0 })
theorem witness_DispatcherEvents_packet : (packetAt 0x100000).nextQueue 0 = some 0 ∧ ((packetAt 0x100000).ctx 0).casts.length < 64 ∧
    ((packetAt 0x100000).served 0 0).any (fun e => e.1 == 0x220000 && e.2.head == 0) = true ∧ (packetAt 0x100000).notices = [] ∧
    (packetAt 0x100000).storable (lineOf 0x220000) = true ∧ (packetAt 0x100000).devNat 0 0x121000 16 = some 0x100000 ∧
    (headMoved (packetAt 0x100000) ((packetAt 0x100000).qdesc 0x220000) 0x100000).refusal 0 0x100000 ((packetAt 0x100000).devNat 0 0x100000 512)
      (kvFind ((packetAt 0x100000).ctx 0).pktAuth 0) = none ∧
    goesTo (exec (.dispatchPacket 0 0) (packetAt 0x100000)) (fun u => u.home64 0x220018 == 1 && (u.cast? 0 0).any (fun k =>
      k.st == .gated && k.queue == 0 && k.seq == 0 && k.record == 0x100000 && k.launch.lanes == 4)) = true := by decide +kernel
theorem witness_DispatcherEvents_refused :
    (headMoved (packetAt 0x100080) ((packetAt 0x100080).qdesc 0x220000) 0x100080).refusal 0 0x100080 ((packetAt 0x100080).devNat 0 0x100080 512)
      (kvFind ((packetAt 0x100080).ctx 0).pktAuth 0) = some 2 ∧
    isNext (exec (.dispatchPacket 0 0) (packetAt 0x100080)) ((headMoved (packetAt 0x100080) ((packetAt 0x100080).qdesc 0x220000)
      0x100080).perform 0 (numBytes 0x220020 8 0 ++ numBytes 0x220028 4 2 ++ numBytes 0x22002C 4 1) true) = true := by decide +kernel
/-- A cast of the record above, in some state. -/
def launch1 : Launch := { launch0 with reserving := false, clear := 0 }
def cast1 : Cast := { queue := 0, seq := 0, record := 0x100000, launch := launch1 }
def casting (k : Cast) : State := (packetAt 0x100000).modCtx 0 (fun c => { c with casts := [(0, k)] })
def waitCast : Cast := { cast1 with launch := { launch1 with waits := [(0x100000, 0x110000), (0, 0), (0, 0), (0, 0)] }
                                    reached := [false, true, true, true] }
def lateCast : Cast := { waitCast with launch := { launch1 with waits := [(0x100000, 0x110001), (0, 0), (0, 0), (0, 0)] } }
theorem witness_DispatcherEvents_waits : (casting cast1).cast? 0 0 = some cast1 ∧ cast1.st = .waiting ∧ cast1.reached.length = 4 ∧
    (List.range 4).all (fun i => (cast1.launch.waits.getD i (0, 0)).1 == 0) = true ∧
    goesTo (exec (.waitWordRead 0 0) (casting cast1)) (fun u => (u.cast? 0 0).any (fun k => k.st == .gated && k.started == 100)) = true ∧
    (match (casting waitCast).devAddr 0 (0, 0) 0x100000 8 with | .ok (pa, _, _) => pa == 0x200000 | .error _ => false) = true ∧
    goesTo (exec (.waitWordRead 0 0) (casting waitCast)) (fun u => (u.cast? 0 0).any (fun k => k.st == .gated)) = true ∧
    goesTo (exec (.waitWordRead 0 0) (casting lateCast)) (fun u => (u.cast? 0 0).any (fun k => k.st == .waiting)) = true := by
  decide +kernel
def passedOver : Cast := { cast1 with st := .dispatching, others := true, held := true }
def gatedCast : Cast := { cast1 with st := .gated }
def openCast : Cast := { cast1 with st := .dispatching, gate := true }
theorem witness_DispatcherEvents_period : (casting passedOver).running 0 = true ∧
    goesTo (exec (.priorityPeriodEnd 0 0) { casting passedOver with cyc := 2 ^ 20 }) (fun u =>
      u.cast? 0 0 == some { passedOver with raise := 1, others := false, period := 2 ^ 20 }) = true ∧
    isNext (exec (.priorityPeriodEnd 0 0) (casting passedOver)) (casting passedOver) = true ∧
    (casting passedOver).unplaced 0 0 passedOver = true := by decide +kernel
/-- The recorded set of the context's last slice is one page, that is not there and lies in a tier, and a frame is free. -/
def unready : State := (casting { gatedCast with launch := { launch1 with resid := 50 } }).modCtx 0 (fun c => { c with
  lastSet := [0x77], pool := [0x300000], tierPages := [(0x77, { tier := .host, bytes := [], labs := [], poison := [] })] })
/-- The slice of the context is over: a change takes the context away. -/
def partP : Part := { part0 with pending := some (1, 2, 1000, 1, 0) }
def overdue : State := { casting gatedCast with cyc := 10000000, parts := [(0, partP)] }
theorem witness_DispatcherEvents_place : ((casting gatedCast).partOf 0).map Prod.fst = some 0 ∧
    (casting gatedCast).sliceOver 0 part0 0 = false ∧ unready.sliceOver 0 part0 0 = false ∧ overdue.sliceOver 0 partP 0 = true ∧
    (casting gatedCast).periodsDue 0 = false ∧ (casting openCast).periodsDue 0 = false ∧ unready.periodsDue 0 = false ∧
    ({ casting passedOver with cyc := 2 ^ 20 } : State).periodsDue 0 = true ∧
    isNext (exec (.crewPlace 0 0) { casting passedOver with cyc := 2 ^ 20 }) { casting passedOver with cyc := 2 ^ 20 } = true ∧
    isNext (exec (.crewPlace 0 0) overdue) overdue = true ∧ gatedCast.st ≠ .waiting ∧
    (casting gatedCast).residencyMet 0 0 = true ∧
    goesTo (exec (.crewPlace 0 0) (casting gatedCast)) (fun u => u.cast? 0 0 == some (gatedCast.open 100)) = true ∧
    unready.residencyMet 0 50 = false ∧ isNext (exec (.crewPlace 0 0) unready) unready = true ∧
    ((casting openCast).offers 0).map Prod.fst = [0] ∧ (casting openCast).placeFor 0 0 openCast [0] = some ((0, 0), none) ∧
    (casting openCast).freeBlocks 0 = [0] ∧
    (((casting openCast).newCrew 0 0 openCast .solo 0 0 (0, 0)).notePlaced 0 0 true).areaGone 2 = false ∧
    isNext (exec (.crewPlace 0 0) (casting openCast)) ((casting openCast).place 0 0 openCast ((0, 0), none)) = true ∧
    goesTo (exec (.crewPlace 0 0) (casting openCast)) (fun u => (kvFind u.crews 2).any (fun c => c.block == 0 && c.resident &&
      c.body.teams.length == 1)) = true := by decide +kernel
def drained (done : Nat) : Cast := { cast1 with st := .draining, retired := 1, launch := { launch1 with done := done } }
theorem witness_DispatcherEvents_end : (casting (drained 0)).castCrews 0 0 = [] ∧
    (casting (drained 0x100008)).storable (lineOf 0x200008) = true ∧
    goesTo (exec (.castCompletionRelease 0 0) (casting (drained 0))) (fun u => (u.cast? 0 0).isNone && (u.ctx 0).aborts == []) = true ∧
    (match (casting (drained 0x100008)).devLoc 0 (0x700000, 1024) 0x100008 8 true with
      | .ok (pa, _, _) => pa == 0x200008 && !(casting (drained 0x100008)).badSpan pa 8
      | .error _ => false) = true ∧
    (match (casting (drained 0x130000)).devLoc 0 (0x700000, 1024) 0x130000 8 true with
      | .ok _ => false
      | .error x => x == (0x09, 0)) = true ∧
    goesTo (exec (.castCompletionRelease 0 0) { casting (drained 0x100008) with poison := [0x4000] }) (fun u => (u.cast? 0 0).isNone &&
      (u.ctx 0).aborts.map (fun a => (a.code, a.kind, a.detail)) == [(0x1A, 1, 0x100008)]) = true ∧
    goesTo (exec (.castCompletionRelease 0 0) (casting (drained 0x100008))) (fun u => (u.cast? 0 0).isNone &&
      u.home64 0x200008 == 0x0004000100000002) = true ∧
    goesTo (exec (.castCompletionRelease 0 0) (casting (drained 0x130000))) (fun u => (u.cast? 0 0).isNone &&
      (u.ctx 0).aborts.map (fun a => (a.code, a.kind, a.detail)) == [(0x09, 1, 0x130000)]) = true := by decide +kernel
/-- A reserving cast with two sealed items that conflict and a third that does not, without crews. -/
def waveCast : Cast := { cast0 with items := [(0, { isSealed := true, sig := 5 }), (1, { isSealed := true, sig := 4 }),
  (2, { isSealed := true, sig := 2 })], waves := 3 }
theorem witness_DispatcherEvents_wave : waveCast.wave = [0, 2] ∧ kvSorted waveCast.items = true ∧ cast0.wave = [] ∧
    (casting waveCast).castCrews 0 0 = [] ∧
    goesTo (exec (.waveForm 0 0) (casting waveCast)) (fun u => (u.cast? 0 0).any (fun k => k.waves == 4 && (k.item 0).wave == 4 &&
      (k.item 1).wave == 0 && (k.item 2).wave == 4)) = true ∧
    isNext (exec (.waveForm 0 0) (casting cast0)) (casting cast0) = true := by decide +kernel

end Sys2Proof.Tests
end

