-- ==== Sys2Proof/Tests/WitnessesEvents2.lean ====
section
/-! SUPPORT. Witnesses for the statement about the events of the engines. -/

namespace Sys2Proof.Tests
open Sys2Proof.Machine
set_option Elab.async false

/-- A shape record in memory: its base, type and rank, first extents, strides and boxes, grid and position, operator and handle (R286). -/
def recWords (at_ base tyRank ext s0 s1 box grid tail : Nat) : List (Nat × Nat) :=
  [(at_, base), (at_ + 8, tyRank), (at_ + 0x10, ext), (at_ + 0x20, s0), (at_ + 0x28, s1), (at_ + 0x40, box), (at_ + 0x48, grid),
   (at_ + 0x58, tail)]
/-- The records of an engine's command, checked; the first, the second, and the state. -/
def recsOf (s : State) (p : Nat → Bool) : ShapeRec × ShapeRec × State :=
  match s.engRecords 0 0 (0x700000, 1024) 0 0x100000 p with | (.ok (a, b), s1) => (a, b, s1) | (.error _, s1) => (shapeOf 0, shapeOf 0, s1)
def recsOk (s : State) (p : Nat → Bool) : Bool :=
  match s.engRecords 0 0 (0x700000, 1024) 0 0x100000 p with | (.ok _, _) => true | (.error _, _) => false
def recsFail (s : State) (p : Nat → Bool) (fc : Nat) : Bool :=
  match s.engRecords 0 0 (0x700000, 1024) 0 0x100000 p with | (.ok _, _) => false | (.error n, _) => n == fc

/-! ### An MMA -/

/-- A has one row of 32 elements in range at 0x100400, B one column at 0x100480. -/
def mmaWords : List (Nat × Nat) := recWords 0x200000 0x100400 0x20A 0x100000020 1 1 0x800020 0 0 ++
  recWords 0x200080 0x100480 0x20A 0x2000000001 128 1 0x200080 0 0 ++ [(0x200400, 0x0302), (0x200480, 0x0504)]
def mmaCmd : Cmd :=
  { op := 5, cid := 1, ag := .seq 1 0, kind := .mma .sm8 true 0, sh := 0x100000, coords := [0, 0, 0, 0], ct := 0x700040, spva := 0x700000 }
def mmaIn (ws : List (Nat × Nat)) (m : Cmd) : State := { granted with hbm := (withMem ws).hbm, clusters := [(0, { mq := [m] })] }
def isSm8 (n : Nat) : Bool := n == mmaFmt .sm8
theorem witness_EngineEvents_mma : (mmaIn mmaWords mmaCmd).nextCmd 0 false = some mmaCmd ∧ small.nextCmd 0 false = none ∧
    isNext (exec (.commandAccept 0 false) small) small = true ∧ kvFind (mmaIn mmaWords mmaCmd).crews 1 = some crew5 ∧
    crew5.body.grant.bind (fun g => g.tiles[0]?) = some tile0 ∧ tile0.poison = false ∧ mmaCmd.ap crew5 = (0x700000, 1024) ∧
    recsOk ((mmaIn mmaWords mmaCmd).accepted mmaCmd) isSm8 = true ∧
    (let x := recsOf ((mmaIn mmaWords mmaCmd).accepted mmaCmd) isSm8
     mmaRecsOk .sm8 x.1 x.2.1 && isNext (exec (.commandAccept 0 false) (mmaIn mmaWords mmaCmd)) (x.2.2.modCmd 0 5 (fun m => { m with
       st := .accepted, recs := some (x.1, x.2.1) }))) = true ∧
    recsFail ((mmaIn [] mmaCmd).accepted mmaCmd) isSm8 1 = true ∧
    isNext (exec (.commandAccept 0 false) (mmaIn [] mmaCmd)) ((recsOf ((mmaIn [] mmaCmd).accepted mmaCmd) isSm8).2.2.failMma 0 mmaCmd 0
      1) = true ∧
    isNext (exec (.commandAccept 0 false) ((mmaIn mmaWords mmaCmd).putTile 1 0 { tile0 with poison := true }))
      ((((mmaIn mmaWords mmaCmd).putTile 1 0 { tile0 with poison := true }).accepted mmaCmd).failMma 0 mmaCmd 0 0x15) = true := by
  decide +kernel
/-- Its records, and the command with some of its lines fetched. -/
def recA : ShapeRec := shapeOf ((mmaIn mmaWords mmaCmd).homeNat 0x200000 128)
def recB : ShapeRec := shapeOf ((mmaIn mmaWords mmaCmd).homeNat 0x200080 128)
def mmaFetch (a : ShapeRec) : Cmd := { mmaCmd with st := .accepted, recs := some (a, recB) }
def mmaOne : Cmd := { mmaFetch recA with lines := [(0x2008, 2 * 0x4008)], flabs := [0] }
def mmaAll : Cmd := { mmaOne with lines := [(0x2008, 2 * 0x4008), (0x2009, 2 * 0x4009)], flabs := [0, 0] }
/-- A's base is on a page that is not mapped, or on the memory-side page. -/
def mmaFar : Cmd := mmaFetch { recA with base := 0x140000 }
def mmaMs : Cmd := mmaFetch { recA with base := 0x120000 }
def fetchAt (s : State) (va : Nat) : Nat × Word × State :=
  match s.engAccess 0 0 (0x700000, 1024) 0 .load va 128 with | .ok x => x | .error _ => (0, 0, s)
def noPage (s : State) (va : Nat) : Option Nat :=
  match s.engAccess 0 0 (0x700000, 1024) 0 .load va 128 with | .error (.wait _ n) => some n | _ => none
/-- The MS line, pinned by the command's fetch. -/
def mmaMsIn : Cmd := { mmaMs with lines := [(0x2400, 2 * 0x4400 + 1)], flabs := [0] }
def pinIn (s : State) : State := { s.modCmd 0 5 (fun _ => mmaMsIn) with pins := [0x4400] }
theorem witness_EngineEvents_fetch : (mmaIn mmaWords mmaMs).cmd? 0 5 = some mmaMs ∧ mmaMs.fc = none ∧ mmaMs.k < kBlocks recA ∧
    mmaMs.nextLine { recA with base := 0x120000 } recB = some 0x2400 ∧ (fetchAt (mmaIn mmaWords mmaMs) 0x120000).1 = 0x220000 ∧
    pteMs (fetchAt (mmaIn mmaWords mmaMs) 0x120000).2.1 = true ∧
    (fetchAt (mmaIn mmaWords mmaMs) 0x120000).2.2.bad 0x4400 = false ∧
    (pinIn (fetchAt (mmaIn mmaWords mmaMs) 0x120000).2.2).mixed mmaMsIn ((codeFmt .sm8).getD 0) { recA with base := 0x120000 } recB =
      false := by
  decide +kernel
theorem witness_EngineEvents_fetch_fails : mmaFar.nextLine { recA with base := 0x140000 } recB = some 0x2800 ∧
    noPage (mmaIn mmaWords mmaFar) 0x140000 = some 0 ∧
    isNext (exec (.tileFetchLine 0 5) (mmaIn mmaWords mmaFar)) ((mmaIn mmaWords mmaFar).failMma 0 mmaFar 0 0x16) = true ∧
    (fetchAt { mmaIn mmaWords mmaMs with poison := [0x4400] } 0x120000).2.2.bad 0x4400 = true := by decide +kernel
def fullTab : List (BitVec 64) := [0, 1, 2] ++ (List.range 1021).map (fun n => BitVec.ofNat 64 (4 * n + 4))
theorem witness_EngineEvents_block : (mmaIn mmaWords mmaAll).cmd? 0 5 = some mmaAll ∧ mmaAll.fc = none ∧ mmaAll.k < kBlocks recA ∧
    mmaAll.nextLine recA recB = none ∧ joinAllIn ctx0.labels tile0.lab (mmaAll.flabs.eraseDups ++ mmaAll.labs) = some (0, [0, 1, 2, 3]) ∧
    ((mmaIn mmaWords mmaAll).operand mmaAll .sm8 recA true 0).1.take 2 = [some 2, some 3] ∧
    ((mmaIn mmaWords mmaAll).operand mmaAll .sm8 recB false 0).1.take 2 = [some 4, some 5] ∧
    accumInt (tile0.at 0 0) (blockInt [2, 3] [4, 5]) = 0x3F800017 := by decide +kernel
theorem witness_EngineEvents_block_full : joinAllIn fullTab 1 [2] = none := by decide +kernel
/-- A row across two lines of a region whose scales differ (R261). -/
def mmaMixed : Cmd := { mmaAll with recs := some ({ recA with base := 0x100470 }, recB) }
def mixing : State := { mmaIn mmaWords mmaMixed with
  ctl := [(0x1000, BitVec.ofNat 64 (2 ^ 63 + 2 ^ 60 * (codeFmt .sm8).getD 0 + 0x200000)), (0x1008, 0x200000)]
  l2 := [(0x4008, { scales := some [127, 127, 127, 127], fmt := codeFmt .sm8 }), (0x4009, { scales := some [130, 130, 130, 130], fmt := codeFmt .sm8 })] }
/-- A region is being invalidated. -/
def invalidating (m : Cmd) : State := { mmaIn mmaWords m with frinvs := [(0, 0, 0x2000, [])] }
theorem witness_EngineEvents_array : ((mmaIn mmaWords mmaAll).arrayNext 0).map Cmd.op = some 5 ∧
    (mmaIn mmaWords mmaAll).mixed mmaAll ((codeFmt .sm8).getD 0) recA recB = false ∧ (mmaIn mmaWords mmaAll).tileLogs 1 0 = true ∧
    goesTo (exec (.mmaKBlock 0 5) (mmaIn mmaWords mmaAll)) (fun u => (u.cluster 0).lastBlock == ctxNum (.seq 1 0) &&
      (u.cmd? 0 5).any (fun m => m.k == 1)) = true ∧
    ((mmaIn mmaWords mmaOne).arrayNext 0).map Cmd.op ≠ some 5 ∧
    isNext (exec (.mmaKBlock 0 5) (mmaIn mmaWords mmaOne)) (mmaIn mmaWords mmaOne) = true ∧
    (mixing.arrayNext 0).map Cmd.op = some 5 ∧
    mixing.mixed mmaMixed ((codeFmt .sm8).getD 0) { recA with base := 0x100470 } recB = true ∧
    isNext (exec (.mmaKBlock 0 5) mixing) (mixing.failMma 0 mmaMixed 0 0x23) = true ∧
    (mmaFetch recA).begun = false ∧ isNext (exec (.tileFetchLine 0 5) (invalidating (mmaFetch recA))) (invalidating (mmaFetch recA)) =
      true ∧
    mmaOne.begun = true ∧ goesTo (exec (.tileFetchLine 0 5) (invalidating mmaOne)) (fun u => (u.cmd? 0 5).any (fun m =>
      m.lines.length == 2)) = true := by decide +kernel
/-- An MMA whose blocks are added. -/
def mmaDone : Cmd := { mmaFetch recA with k := 1 }
def arriveOf (s : State) (cl : Nat) (m : Cmd) : State :=
  match s.arrivalCommits m with
  | some t => (match t.arrive cl m with | .ok u => u | .error _ => t)
  | none => s
def arrives (s : State) (cl : Nat) (m : Cmd) : Bool :=
  (s.ctHeld cl m).isNone && (match s.arrivalCommits m with
    | some t => (match t.arrive cl m with | .ok _ => true | .error _ => false)
    | none => false)
theorem witness_EngineEvents_mma_end : (mmaIn mmaWords mmaDone).cmd? 0 5 = some mmaDone ∧ mmaDone.st = .accepted ∧ mmaDone.wants = none ∧
    mmaDone.applied = true ∧ arrives (mmaIn mmaWords mmaDone) 0 mmaDone = true ∧
    isNext (exec (.mmaCompletion 0 5) (mmaIn mmaWords mmaDone)) ((((arriveOf (mmaIn mmaWords mmaDone) 0 mmaDone).dropCmd 0 5).endGrant
      1).retireCrew 1) = true ∧
    goesTo (exec (.mmaCompletion 0 5) (mmaIn mmaWords mmaDone)) (fun u => (u.cmd? 0 5).isNone) = true := by decide +kernel

/-- The word of an arrival lies on a line that an MMA has pinned. -/
def mmaHeld : Cmd := { mmaDone with ct := 0x100008 }
def ctPins : State := { mmaIn mmaWords mmaHeld with pins := [0x4000] }
theorem witness_EngineEvents_held : ctPins.ctHeld 0 mmaHeld = some 0x4000 ∧
    isNext (exec (.mmaCompletion 0 5) ctPins) (ctPins.askHolders [0x4000]) = true := by decide +kernel

/-! ### A grant that waits -/

def forkWord : Word := (encode (.fork 7 63 6)).getD 0
def parkedFork (s : State) : State := s.modThread me0 (fun th => { th with park := .fork, clause := [forkWord] })
def threadFw : Thread := { thread0 with park := .fork, clause := [forkWord] }
def teamFw : Team := { teamF with frags := [(0, threadFw)] }
def crewFw : Crew := { crew0 with body := { crew0.body with teams := [(0, teamFw)] } }
theorem witness_EngineEvents_fork : kvFind (parkedFork forking).crews 1 = some crewFw ∧ (parkedFork forking).team? 1 0 = some teamFw ∧
    decode .supervisor forkWord = .ok (.fork 7 63 6) ∧ crewFw.resident = true ∧ crewFw.body.grant = none ∧
    (parkedFork forking).forkFits 0 1 0x110080 0 = true ∧
    isNext (exec (.forkGrant 1 0) (parkedFork forking)) (((parkedFork forking).grantFork 1 0 0 1 0x110080 0).modThread me0 (fun th =>
      { th with park := .granted })) = true ∧
    kvFind (parkedFork crowded).crews 1 = some crewFw ∧ (parkedFork crowded).forkFits 0 1 0x110080 0 = false ∧
    isNext (exec (.forkGrant 1 0) (parkedFork crowded)) (parkedFork crowded) = true := by decide +kernel

/-! ### Copies -/

/-- Records of one dimension of n elements of a type: the source at 0x100400, and a destination. A command's coordinates are outside the source, which reads +0 there. -/
def copyWords (base n ty1 ty2 : Nat) : List (Nat × Nat) := recWords 0x200000 0x100400 (0x100 + ty1) n 4 0 n 0 0 ++
  recWords 0x200080 base (0x100 + ty2) n 4 0 n 0 0 ++ [(0x200600, 0x2222222211111111), (0x200608, 0x4444444433333333)]
def copyCmd : Cmd :=
  { op := 5, cid := 1, ag := me0, kind := .tcopy, sh := 0x100000, coords := [9, 0, 0, 0], ct := 0x700040, spva := 0x700000 }
def copyIn (ws : List (Nat × Nat)) (m : Cmd) : State := { withMem ws with clusters := [(0, { cq := [m] })] }
def anyTy (_ : Nat) : Bool := true
theorem witness_EngineEvents_copy : (copyIn (copyWords 0x100600 3 0 0) copyCmd).nextCmd 0 true = some copyCmd ∧
    kvFind (copyIn (copyWords 0x100600 3 0 0) copyCmd).crews 1 = some crew0 ∧
    recsOk ((copyIn (copyWords 0x100600 3 0 0) copyCmd).accepted copyCmd) anyTy = true ∧
    (let x := recsOf ((copyIn (copyWords 0x100600 3 0 0) copyCmd).accepted copyCmd) anyTy
     x.1.ty == x.2.1.ty && x.1.box == x.2.1.box && x.1.rank == x.2.1.rank && !inAperture (0x700000, 1024) (x.2.1.base : Int) 1 &&
     !inAperture (0x700000, 1024) (x.1.base : Int) 1 &&
     goesTo (exec (.commandAccept 0 true) (copyIn (copyWords 0x100600 3 0 0) copyCmd)) (fun u => (u.cmd? 0 5).any (fun m =>
       m.st == .accepted && m.recs == some (x.1, x.2.1) && m.fc == none && m.todo == []))) = true ∧
    recsOk ((copyIn (copyWords 0x100600 3 0 1) copyCmd).accepted copyCmd) anyTy = true ∧
    (let x := recsOf ((copyIn (copyWords 0x100600 3 0 1) copyCmd).accepted copyCmd) anyTy
     x.1.ty != x.2.1.ty && isNext (exec (.commandAccept 0 true) (copyIn (copyWords 0x100600 3 0 1) copyCmd)) (x.2.2.modCmd 0 5
       (fun m => { m with st := .accepted, fc := some 1 }))) = true := by decide +kernel
/-- Accepted copies: into memory, into a page without W, into line 1 of the scratchpad. -/
def copyA : ShapeRec := shapeOf ((copyIn (copyWords 0x100600 3 0 0) copyCmd).homeNat 0x200000 128)
def copyB (base : Nat) : ShapeRec := { copyA with base := base }
def copyGo (base : Nat) : Cmd := { copyCmd with st := .accepted, recs := some (copyA, copyB base) }
def copyRun (base : Nat) : State := copyIn (copyWords base 3 0 0) (copyGo base)
def copied (base : Nat) : Option EngErr × State :=
  State.copyLines (copyRun base) 0 crew0 (copyGo base) copyA (copyB base) (copyRun base) (memLines (copyB base))
theorem witness_EngineEvents_copied : (copyRun 0x100600).cmd? 0 5 = some (copyGo 0x100600) ∧ (copied 0x100600).1 = none ∧
    isNext (exec (.copyCompletion 0 5) (copyRun 0x100600)) ((copied 0x100600).2.finishWrites 0 (copyGo 0x100600)) = true ∧
    goesTo (exec (.copyCompletion 0 5) (copyRun 0x100600)) (fun u => (u.cmd? 0 5).isNone && u.homeNat 0x200600 12 ==
      0 && u.homeNat 0x20060C 4 == 0x44444444) = true ∧
    (copied 0x130000).1 = some (.code 0x09) ∧
    isNext (exec (.copyCompletion 0 5) (copyRun 0x130000)) ((copied 0x130000).2.finishWrites 0 { copyGo 0x130000 with fc := some 9 }) =
      true := by decide +kernel
/-- The copy's line is pinned. -/
def copyPins : State := { copyRun 0x100600 with pins := [0x400C] }
theorem witness_EngineEvents_copy_waits :
    (match State.copyLines copyPins 0 crew0 (copyGo 0x100600) copyA (copyB 0x100600) copyPins (memLines (copyB 0x100600)) with
      | (some (.pinned l), _) => l == 0x400C
      | _ => false) = true ∧
    isNext (exec (.copyCompletion 0 5) copyPins) (copyPins.askHolders [0x400C]) = true := by decide +kernel
def copyPad (todo : List Nat) (written : Bool) (fc : Option Nat) : Cmd := { copyGo 0x700080 with todo := todo, written := written, fc := fc }
def padRun (m : Cmd) : State := copyIn (copyWords 0x700080 3 0 0) m
theorem witness_EngineEvents_pad_end : inAperture (0x700000, 1024) ((copyB 0x700080).base : Int) 1 = true ∧
    isNext (exec (.copyCompletion 0 5) (padRun (copyPad [] false none))) ((padRun (copyPad [] false none)).finishWrites 0
      { copyPad [] false none with fc := none }) = true ∧ pastPad (0x700000, 1024) (copyB 0x700080) = false ∧
    pastPad (0x700000, 1024) (copyB 0x7003F8) = true ∧
    isNext (exec (.copyCompletion 0 5) (padRun (copyPad [] true none))) ((padRun (copyPad [] true none)).completeCmd 0
      (copyPad [] true none)) = true ∧
    isNext (exec (.copyCompletion 0 5) (padRun (copyPad [1] false (some 8)))) (((padRun (copyPad [1] false (some 8))).modCrew 1 (fun c =>
      c.modPads (copyPad [1] false (some 8)) (fun p => p.failLines [1]))).finishWrites 0 (copyPad [1] false (some 8))) = true := by
  decide +kernel
def mineAt (va : Nat) : Bool := decide (0x700000 ≤ va) && padLine (va - 0x700000) == 1
def unitOf : List (Nat × Byte × Byte) × List Lbl × State :=
  match State.copyUnit (padRun (copyPad [1] false none)) 0 crew0 (copyPad [1] false none) copyA (copyB 0x700080) mineAt
    (padRun (copyPad [1] false none)) (unitElems (copyB 0x700080) mineAt) with
  | (.ok (ws, ls), s1) => (ws, ls, s1)
  | (.error _, s1) => ([], [], s1)
def merged (ws : List (Nat × Byte × Byte)) (p : KV Byte) : KV Byte :=
  ws.foldl (fun x w => kvPut 0 x (w.1 - 0x700000) (mergeByte (kvGet 0 x (w.1 - 0x700000)) w.2.1 w.2.2)) p
theorem witness_EngineEvents_arrival : (padRun (copyPad [1] false none)).cmd? 0 5 = some (copyPad [1] false none) ∧
    decide (unitOf.2.2.padRoom 1 1 = (true, unitOf.2.2)) = true ∧ copyCmd.orphan = false ∧ unitOf.1.length = 12 ∧ unitOf.2.1 = [] ∧ kvFind unitOf.2.2.crews 1 = some crew0 ∧
    unitOf.2.2.l1Has crew0 1 = true ∧ joinAllIn (unitOf.2.2.ctx 0).labels 0 [0, 0] = some (0, [0, 1, 2, 3]) ∧
    goesTo (exec (.scratchpadLineArrival 0 5 1) (padRun (copyPad [1] false none))) (fun u => (kvFind u.crews 1).any (fun c =>
      c.body.pad.lab 1 == 0 && !c.body.pad.absent.contains 1 && c.body.pad.bytes == merged unitOf.1 [] && c.body.teams == crew0.body.teams) &&
      u.hbm == unitOf.2.2.hbm) = true := by decide +kernel

/-! ### Collectives -/

/-- Two ranks; this one is rank 0. -/
def xferWords (op : Nat) : List (Nat × Nat) := recWords 0x200000 0x100400 0x101 2 4 0 2 0 0 ++
  recWords 0x200080 0x100600 0x101 4 4 0 2 0x010102 (op + 7 * 2 ^ 32) ++ [(0x200400, 0x0000000200000001)]
def handleOf (ranks : List (Nat × Nat)) : Handle :=
  { reg := { handle := 7, jobkey := 0, owners := 3, ranks := ranks }, lab := 3, blocks := [0] }
def handle7 : Handle := handleOf [(5, 0), (6, 0)]
def xferCmd0 : Cmd := { copyCmd with kind := .xfer true }
/-- A context with a handle and the posts of its steps, whose XFER is in the copy engine. -/
def xferIn (op : Nat) (m : Cmd) (h : Handle) (id : Option Nat) (ps : List Post) : State :=
  { (withMem (xferWords op)).modCtx 0 (fun c => { c with handles := [(7, h)], posts := ps }) with
    fabricId := id, clusters := [(0, { cq := [m] })], gran := [(0x400C, 3)] }
def xferNew (op : Nat) (id : Option Nat) : State := xferIn op xferCmd0 handle7 id []
def xferTaken (op : Nat) (id : Option Nat) (rs : Option (ShapeRec × ShapeRec)) (fc : Option Nat) : State :=
  let x := recsOf ((xferNew op id).accepted xferCmd0) anyTy
  (x.2.2.modCmd 0 5 (fun m => { m with st := .accepted, recs := rs, fc := fc })).post 0 0 xferCmd0 true x.2.1 fc
theorem witness_EngineEvents_xfer : recsOk ((xferNew 0 (some 5)).accepted xferCmd0) anyTy = true ∧
    (let x := recsOf ((xferNew 0 (some 5)).accepted xferCmd0) anyTy
     extOk true x.2.1 && x.1.ty == x.2.1.ty && x.1.box == x.2.1.box && x.1.rank == x.2.1.rank && x.2.2.memberOk 0 x.2.1 &&
     !inAperture (0x700000, 1024) (x.1.base : Int) 1 && !inAperture (0x700000, 1024) (x.2.1.base : Int) 1 &&
     isNext (exec (.commandAccept 0 true) (xferNew 0 (some 5))) (xferTaken 0 (some 5) (some (x.1, x.2.1)) none)) = true ∧
    goesTo (exec (.commandAccept 0 true) (xferNew 0 (some 5))) (fun u => (u.ctx 0).posts.any (fun p => p.handle == 7 && p.fc == none &&
      p.key == { jobkey := 0, ranks := [(5, 0), (6, 0)], rank := 0, step := 0 })) = true ∧
    recsOk ((xferNew 0 none).accepted xferCmd0) anyTy = true ∧
    (let x := recsOf ((xferNew 0 none).accepted xferCmd0) anyTy
     !x.2.2.memberOk 0 x.2.1 && isNext (exec (.commandAccept 0 true) (xferNew 0 none)) (xferTaken 0 none none (some 0x1D))) = true ∧
    (let x := recsOf ((xferNew 6 (some 5)).accepted xferCmd0) anyTy
     !extOk true x.2.1 && isNext (exec (.commandAccept 0 true) (xferNew 6 (some 5))) (xferTaken 6 (some 5) none (some 0x01))) = true := by
  decide +kernel
theorem witness_EngineEvents_post : (xferNew 0 (some 5)).handle? 0 7 = some handle7 := by decide +kernel

def xferA : ShapeRec := shapeOf ((xferNew 0 none).homeNat 0x200000 128)
def xferB : ShapeRec := shapeOf ((xferNew 0 none).homeNat 0x200080 128)
def keyOf (ranks : List (Nat × Nat)) (rank : Nat) : PostKey := { jobkey := 0, ranks := ranks, rank := rank, step := 0 }
def key7 : PostKey := keyOf [(5, 0), (6, 0)] 0
def postOf (k : PostKey) (red : Bool) (fc : Option Nat) (slot : Option Bool) : Post :=
  { key := k, handle := 7, red := red, grid := xferB.grid, repl := xferB.repl, op := xferB.op, ty := xferB.ty, rank := xferB.rank
    box := xferB.box, fc := fc, slot := slot }
def post7 : Post := postOf key7 true none (some true)
def xferGo : Cmd := { xferCmd0 with st := .accepted, recs := some (xferA, xferB), post := some key7 }
/-- A step of more than 4 KiB a rank: its message is formed, and its own contribution has been read. -/
def bigA : ShapeRec := { xferA with box := [2000, 0, 0, 0] }
def xferBare : Cmd := { xferGo with recs := some (bigA, xferB) }
def xferBig : Cmd := { xferBare with ready := some (0x100600, 3), contrib := [(0, [])], flabs := [1] }
def xferAll : Cmd := { xferGo with contrib := [(0, [1, 0, 0, 0, 2, 0, 0, 0]), (1, [4, 0, 0, 0, 8, 0, 0, 0])], heard := [1] }
def inboxed : Handle := { handle7 with inbox := [(1, [8])] }
/-- The slot in the handle's block holds what the other rank has written there. -/
def xferRun (m : Cmd) : State := (xferIn 0 m inboxed (some 5) [post7]).setHomeBytes (numBytes 0x240000 8 0x0000000800000004)
def near (rank vf : Nat) : RankMsg := { fab := 5, pvf := vf, jobkey := 0, rank := rank }
def far : RankMsg := { fab := 6, pvf := 0, jobkey := 0, rank := 1 }
theorem witness_EngineEvents_go : (xferRun xferGo).xferCmd 0 5 = some (xferGo, true, xferA, xferB, crew0) ∧ xferGo.wants = none ∧
    xferGo.fc = none ∧ gridSize xferB = 2 ∧ myRank xferB = 0 ∧ (xferRun xferGo).handle? 0 7 = some inboxed ∧
    (xferRun xferGo).verdict 0 key7 2 = .go ∧ eager xferA = true ∧ inboxed.lists (near 0 0) = true ∧ inboxed.lists far = true ∧
    inboxed.lists { far with jobkey := 1 } = false ∧
    ((xferRun xferGo).ctx 0).posts.any (fun p => p.key == key7 && p.slot.isNone) = false := by decide +kernel
theorem witness_EngineEvents_chunk :
    isNext (exec (.xferChunk 0 5 { far with fc := 9 } []) (xferRun xferGo)) ((xferRun xferGo).failXfer 0 0 xferGo 9) = true ∧
    isNext (exec (.xferChunk 0 5 { far with jobkey := 1 } []) (xferRun xferGo)) ((xferRun xferGo).failXfer 0 0 xferGo 0x1D) = true ∧
    isNext (exec (.xferChunk 0 5 (near 0 0) []) (xferRun xferGo)) ((xferRun xferGo).contribute 0 crew0 xferGo key7 xferA xferB inboxed) =
      true ∧
    goesTo (exec (.xferChunk 0 5 (near 0 0) []) (xferRun xferGo)) (fun u => (u.cmd? 0 5).any (fun m => m.contrib ==
      [(0, [0, 0, 0, 0, 0, 0, 0, 0])])) = true ∧
    isNext (exec (.xferChunk 0 5 far []) (xferRun xferGo)) ((xferRun xferGo).takeFar 0 crew0 xferGo xferA xferB inboxed 1 []) = true ∧
    goesTo (exec (.xferChunk 0 5 far []) (xferRun xferGo)) (fun u => (u.cmd? 0 5).any (fun m => m.contrib ==
      [(1, [4, 0, 0, 0, 8, 0, 0, 0])] && m.heard == [1])) = true := by decide +kernel
def unanswered : State := xferIn 0 xferGo handle7 (some 5) [postOf key7 true none none]
theorem witness_EngineEvents_unanswered : unanswered.xferCmd 0 5 = some (xferGo, true, xferA, xferB, crew0) ∧
    unanswered.handle? 0 7 = some handle7 ∧ unanswered.verdict 0 key7 2 = .go ∧
    (unanswered.ctx 0).posts.any (fun p => p.key == key7 && p.slot.isNone) = true ∧
    isNext (exec (.xferChunk 0 5 (near 0 0) []) unanswered) unanswered = true := by decide +kernel
theorem witness_EngineEvents_ready : (xferRun xferBig).xferCmd 0 5 = some (xferBig, true, bigA, xferB, crew0) ∧ eager bigA = false ∧
    (kvFind xferBig.contrib 0).isSome = true ∧
    isNext (exec (.xferChunk 0 5 (near 0 0) []) (xferRun xferBare)) ((xferRun xferBare).formReady 0 crew0 xferBare true xferB) = true ∧
    goesTo (exec (.xferChunk 0 5 (near 0 0) []) (xferRun xferBare)) (fun u => (u.cmd? 0 5).any (fun m => m.ready ==
      some (0x100600, (u.ctx 0).owners 3))) = true ∧
    isNext (exec (.readyToReceive 0 5 far 0 3) (xferRun xferBig)) ((xferRun xferBig).modCmd 0 5 (fun m => { m with sent := [1] })) = true ∧
    isNext (exec (.readyToReceive 0 5 far 0 2) (xferRun xferBig)) ((xferRun xferBig).failXfer 0 0 xferBig 0x0C) = true ∧
    isNext (exec (.readyToReceive 0 5 { far with jobkey := 1 } 0 3) (xferRun xferBig)) ((xferRun xferBig).failXfer 0 0 xferBig 0x1D) =
      true := by decide +kernel
/-- A contribution of more than 4 KiB, all but the first two elements of it out of range. -/
def readyA : ShapeRec := { xferA with box := [1025, 0, 0, 0] }
def xferRead : Cmd := { xferGo with recs := some (readyA, xferB), ready := some (0x100600, 3) }
theorem witness_EngineEvents_contribute : eager readyA = false ∧ kvFind xferRead.contrib (myRank xferB) = none ∧
    (contributors xferB).contains (myRank xferB) = true ∧
    (match State.ownBox 0 crew0 xferRead readyA (xferRun xferRead) (boxElems readyA) with
      | (.ok (bs, ls), s1) => bs.length == 4100 && s1.contribOwners 0 xferRead ls &&& ~~~((s1.ctx 0).owners 3) == 0
      | _ => false) = true := by decide +kernel
def putOf (s : State) (m : Cmd) : Option EngErr × State :=
  State.xferPut 0 crew0 m 3 s (xferUnits xferB (xferElems true xferB ((contributors xferB).map (kvGet [] m.contrib))))
theorem witness_EngineEvents_step : (xferRun xferAll).xferCmd 0 5 = some (xferAll, true, xferA, xferB, crew0) ∧
    (xferRun xferAll).verdict 0 key7 2 = .go ∧ (xferRun xferAll).localRanks key7 2 = [] ∧
    xferAll.complete [] xferA xferB = true ∧ xferGo.complete [] xferA xferB = false ∧ (putOf (xferRun xferAll) xferAll).1 = none ∧
    isNext (exec (.xferStepCompletion 0 5) (xferRun xferAll)) ((putOf (xferRun xferAll) xferAll).2.finishWrites 0 xferAll) = true ∧
    goesTo (exec (.xferStepCompletion 0 5) (xferRun xferAll)) (fun u => u.homeNat 0x200600 8 == 0x0000000A00000005 &&
      u.granLab 0x400C == 3) = true ∧
    isNext (exec (.xferStepCompletion 0 5) (xferRun xferGo)) (xferRun xferGo) = true ∧
    isNext (exec (.xferStepCompletion 0 5) (xferRun { xferGo with written := true })) ((xferRun { xferGo with written := true }).completeCmd 0
      { xferGo with written := true }) = true := by decide +kernel
/-- The handle's label is not one that the destination's granule admits. -/
def xferBarred : State := { xferRun xferAll with gran := [(0x400C, 2)] }
theorem witness_EngineEvents_step_barred : (putOf xferBarred xferAll).1 = some (.code 0x0A) ∧
    isNext (exec (.xferStepCompletion 0 5) xferBarred) ((putOf xferBarred xferAll).2.failXfer 0 0 xferAll 0x0C) = true := by decide +kernel

/-- The other rank is VF 1 of this module, on cluster 1: it has issued its step, or not, or has failed there. -/
def bothRanks : List (Nat × Nat) := [(5, 0), (5, 1)]
def key0 : PostKey := keyOf bothRanks 0
def key1 : PostKey := keyOf bothRanks 1
def xferNear : Cmd := { xferGo with post := some key0 }
def xferOther : Cmd := { xferGo with op := 6, cid := 2, recs := some (xferA, { xferB with pos := [1, 0, 0] }), post := some key1 }
def xferBoth (ps : List Post) : State :=
  { (xferIn 0 xferNear (handleOf bothRanks) (some 5) [postOf key0 true none (some true)]).modCtx 1 (fun _ =>
      { ctx0 with handles := [(7, handleOf bothRanks)], posts := ps }) with
    crews := [(1, crew0), (2, { crew0 with vf := 1, cl := 1 })], clusters := [(0, { cq := [xferNear] }), (1, { cq := [xferOther] })] }
theorem witness_EngineEvents_verdict :
    (xferBoth [postOf key1 true none (some true)]).verdict 0 key0 2 = .go ∧
    ((xferBoth [postOf key1 true none (some true)]).localRanks key0 2) = [1] ∧
    (xferBoth []).verdict 0 key0 2 = .wait ∧ isNext (exec (.xferChunk 0 5 (near 0 0) []) (xferBoth [])) (xferBoth []) = true ∧
    isNext (exec (.xferStepCompletion 0 5) (xferBoth [])) (xferBoth []) = true ∧
    (xferBoth [postOf key1 false none none]).verdict 0 key0 2 = .fail 0x1D ∧
    isNext (exec (.xferChunk 0 5 (near 0 0) []) (xferBoth [postOf key1 false none none]))
      ((xferBoth [postOf key1 false none none]).failXfer 0 0 xferNear 0x1D) = true ∧
    (xferBoth [postOf key1 true (some 9) none]).verdict 0 key0 2 = .fail 9 ∧
    isNext (exec (.xferStepCompletion 0 5) (xferBoth [postOf key1 true (some 9) none]))
      ((xferBoth [postOf key1 true (some 9) none]).failXfer 0 0 xferNear 9) = true := by decide +kernel
theorem witness_EngineEvents_near : (handleOf bothRanks).lists (near 1 1) = true ∧
    isNext (exec (.xferChunk 0 5 (near 1 1) []) (xferBoth [postOf key1 true none (some true)]))
      ((xferBoth [postOf key1 true none (some true)]).takeNear 0 crew0 xferNear key0 xferA xferB (handleOf bothRanks) 1) = true := by
  decide +kernel
def xferFailed : Cmd := { xferGo with fc := some 9 }
theorem witness_EngineEvents_step_fails : (xferRun xferFailed).xferCmd 0 5 = some (xferFailed, true, xferA, xferB, crew0) ∧
    (xferRun xferFailed).handle? 0 xferB.handle = some inboxed ∧ xferFailed.written = false ∧ xferFailed.wants = none := by decide +kernel
def slots8 : Handle := { handle7 with inbox := [(1, List.replicate 8 8)], used := [(1, 3)], freed := [(1, 2)] }
def slotFull : State := xferIn 0 xferGo slots8 (some 5) [post7]
theorem witness_EngineEvents_slots : (xferRun xferGo).handle? 0 7 = some inboxed ∧ (kvGet [] inboxed.inbox 1).length = 1 ∧
    (xferRun xferGo).slotAddr 0 inboxed 1 1 = some 0x241000 ∧
    goesTo (exec (.eagerSlotWrite 0 7 far [5]) (xferRun xferGo)) (fun u => (u.handle? 0 7).any (fun y => kvGet [] y.inbox 1 == [8, 1]) &&
      u.homeByte 0x241000 == 5 && u.granLab (lineOf 0x241000 + 31) == 3) = true ∧
    isNext (exec (.eagerSlotWrite 0 7 far []) slotFull) slotFull = true ∧
    isNext (exec (.eagerSlotWrite 0 7 { far with jobkey := 1 } [5]) (xferRun xferGo)) ((xferRun xferGo).refusePacket 0 7) = true ∧
    goesTo (exec (.slotReleaseNotice 0 7 far 4) slotFull) (fun u => (u.handle? 0 7).any (fun y =>
      kvGet 0 y.used 1 == 1 && kvGet 0 y.freed 1 == 4)) = true := by decide +kernel
theorem witness_EngineEvents_switch : unanswered.asking 0 7 = some key7 ∧ key7.rank = 0 ∧ (xferRun xferGo).asking 0 7 = none ∧
    goesTo (exec (.reductionSlotRequest 0 7 64) unanswered) (fun u => (u.ctx 0).posts.any (fun p => p.slot == some false)) = true ∧
    goesTo (exec (.reductionSlotRequest 0 7 63) unanswered) (fun u => (u.ctx 0).posts.any (fun p => p.slot == some true)) = true ∧
    isNext (exec (.reductionSlotRequest 0 7 63) (xferRun xferGo)) (xferRun xferGo) = true := by decide +kernel

end Sys2Proof.Tests
end

