-- ==== Sys2Proof/Tests/WitnessesEvents3.lean ====
section
/-! SUPPORT. Witnesses for the statements about slices, swaps, buckets and pools, and about the events from outside. -/

namespace Sys2Proof.Tests
open Sys2Proof.Machine
set_option Elab.async false

/-! ### Slices and switches -/

/-- Partition 0 with VFs 0 and 1; VF 0 runs a cast, and VF 1 has a rung doorbell or not. -/
def slicePart (run : Option Nat) : Part := { part0 with vfs := 3, running := run }
def slicing (run : Option Nat) (cyc : Nat) (bell : Bool) : State :=
  { casting gatedCast with
    parts := [(0, slicePart run)], cyc := cyc, ctxs := (casting gatedCast).ctxs ++ [(1, { bell := bell })] }
theorem witness_SliceEvents_end : kvFind (slicing (some 0) 100 true).parts 0 = some (slicePart (some 0)) ∧
    (slicePart (some 0)).cut 0 = false ∧ (slicePart (some 0)).vfs.getLsbD 0 = true ∧
    (slicing (some 0) 100 true).partsOn.any (fun e => e.1 == 0) = true ∧ (slicing (some 0) 100 true).hasWork 0 = true ∧
    (slicePart (some 0)).sliceLen = 1050000 ∧
    isNext (exec (.sliceEnd 0) (slicing (some 0) 100 true)) (slicing (some 0) 100 true) = true ∧
    (slicing (some 0) 1050000 false).boundaryWork (slicePart (some 0)) = false ∧
    (slicing (some 0) 1050000 false).nextWork (slicePart (some 0)) 0 = some 0 ∧
    isNext (exec (.sliceEnd 0) (slicing (some 0) 1050000 false)) { slicing (some 0) 1050000 false with
      parts := [(0, { slicePart (some 0) with since := 1050000 })] } = true ∧
    (slicing (some 0) 1050000 true).nextWork (slicePart (some 0)) 0 = some 1 ∧ (slicing (some 0) 1050000 true).sliceWaits 0 = false ∧
    isNext (exec (.sliceEnd 0) (slicing (some 0) 1050000 true)) ((slicing (some 0) 1050000 true).endSlice 0 0) = true ∧
    (kvFind ((slicing (some 0) 1050000 true).endSlice 0 0).parts 0).any (fun q => q.running == none && q.last == 0 && q.pending == none &&
      q.incoming == some 1) = true := by decide +kernel
/-- A crew of VF 0, whose fragment waits for a pinned line or not. -/
def crewed (park : Park) : State := { slicing (some 0) 1050000 true with crews := [(1, { crew0 with body := { crew0.body with
  teams := [(0, { team0 with frags := [(0, { thread0 with park := park })] })] } })] }
def idleRun : State := { slicing (some 0) 100 true with ctxs := [(0, ctx0), (1, { bell := true })] }
theorem witness_SliceEvents_waits : (crewed .pinned).nextWork (slicePart (some 0)) 0 = some 1 ∧ (crewed .pinned).sliceWaits 0 = true ∧
    isNext (exec (.sliceEnd 0) (crewed .pinned)) { crewed .pinned with
      parts := [(0, { slicePart (some 0) with ending := some 1050000 })] } = true ∧ (crewed .run).sliceWaits 0 = false ∧
    (kvFind ((crewed .run).endSlice 0 0).crews 1).any (fun c => c.vf == 0 && !c.resident) = true ∧
    idleRun.hasWork 0 = false ∧ idleRun.sliceWaits 0 = false ∧ isNext (exec (.sliceEnd 0) idleRun) (idleRun.endSlice 0 0) = true := by
  decide +kernel
/-- Nothing runs; VF 0 has work, and VF 1's pages can go to the host's buffer, or nowhere. -/
def between (size : Nat) : State := ((slicing none 100 false).modCtx 0 (fun c => { c with recordedSet := [0x10] })).modCtx 1 (fun c =>
  { c with ptb := 0x10000, tierSize := size })
theorem witness_SliceEvents_in : ((between 0).partsOn.find? (fun e => e.1 == 0)).map Prod.fst = some 0 ∧
    (between 0).boundaryWork (slicePart none) = false ∧ (slicePart none).last = 255 ∧ (between 0).nextWork (slicePart none) 255 = some 0 ∧
    (between 0).clusters = [] ∧ (between 0).switches = [] ∧ ((between 0).nextSwap (slicePart none) 0).isSome = false ∧
    goesTo (exec (.switchIn 0) (between 0)) (fun u => (kvFind u.parts 0).any (fun q => q.running == some 0 && q.since == 100 &&
      q.incoming == none) && (u.ctx 0).lastSet == [0x10] && (u.ctx 0).recordedSet == [] && u.hbm == (between 0).hbm) = true ∧
    ((between 9).nextSwap (slicePart none) 0).isSome = true ∧
    isNext (exec (.switchIn 0) (between 9)) { between 9 with parts := [(0, { slicePart none with incoming := some 0 })], switches := [0] } =
      true := by decide +kernel
/-- The partition counts as disabled while its switch is under way. -/
def orphaned : State := { between 9 with parts := [(0, { slicePart none with incoming := some 0, flags := 0 })], switches := [0] }
theorem witness_SliceEvents_disabled : orphaned.partsOn.find? (fun e => e.1 == 0) = none ∧
    isNext (exec (.switchIn 0) orphaned) { orphaned with parts := [(0, { slicePart none with flags := 0 })], switches := [] } = true ∧
    isNext (exec (.switchIn 0) { orphaned with switches := [1] }) { orphaned with switches := [1] } = true := by decide +kernel
def swapping : State := { between 9 with parts := [(0, { slicePart none with incoming := some 0 })], switches := [0] }
theorem witness_SliceEvents_down : swapping.switchNow = some (0, { slicePart none with incoming := some 0 }, 0) ∧
    swapping.nextSwap { slicePart none with incoming := some 0 } 0 = some (1, 0x10, .host) ∧
    (swapping.swapDown 1 0x10 .host 0).1 = true ∧
    ((swapping.swapDown 1 0x10 .host 0).2.ctx 0).pool.length = (swapping.ctx 0).pool.length + 1 ∧
    (({ swapping with pins := [0x4000] } : State).swapDown 1 0x10 .host 0).1 = false ∧
    isNext (exec (.swapDown 1 0x10 .host) { swapping with pins := [0x4000] }) (({ swapping with pins := [0x4000] } : State).swapDown 1 0x10
      .host 0).2 = true ∧
    isNext (exec (.swapDown 1 0x11 .host) swapping) swapping = true := by decide +kernel
/-- Page 0x77 is in the host's buffer, and a frame is free. -/
def lowered (set : List Nat) : State := (slicing (some 0) 100 false).modCtx 0 (fun c => { c with
  lastSet := set, pool := [0x300000], tierPages := [(0x77, { tier := .host, bytes := [(5, 9)], labs := [], poison := [] })] })
theorem witness_SliceEvents_up : (lowered [0x77]).running 0 = true ∧ ((lowered [0x77]).ctx 0).lastSet = [0x77] ∧
    (match (lowered [0x77]).swapUp 0 0x77 with
      | some u => isNext (exec (.swapUp 0 0x77) (lowered [0x77])) (u.resumePage 0 0x77) && (u.ctx 0).pool == [] &&
          (kvFind (u.ctx 0).tierPages 0x77).isNone && u.homeByte 0x300005 == 9 && u.pageHere 0 0x77
      | none => false) = true := by decide +kernel
/-- A fragment waits for a page. -/
def awaiting (va sub : Nat) : State := { lowered [] with crews := (crewed (.page va sub [va / 65536])).crews }
theorem witness_SliceEvents_demand : (awaiting 0x770008 1).switching = false ∧
    ((awaiting 0x770008 1).waitersOn 0 0x77 1).length = 1 ∧ (awaiting 0x770008 1).pageHere 0 0x77 = false ∧
    (match (awaiting 0x770008 1).bringUp 0 0x77 [0x77] with
      | .room u => isNext (exec (.demandSwapUp 0 0x770008) (awaiting 0x770008 1)) (u.resumePage 0 0x77)
      | _ => false) = true ∧
    ((awaiting 0x100008 1).waitersOn 0 0x10 1).length = 1 ∧ (awaiting 0x100008 1).pageHere 0 0x10 = true ∧
    isNext (exec (.demandSwapUp 0 0x100008) (awaiting 0x100008 1)) ((awaiting 0x100008 1).resumePage 0 0x10) = true := by decide +kernel
/-- No supervisor core serves the context yet, and one is free. -/
def unserving (va sub : Nat) : State := { awaiting va sub with sups := [(3, {})] }
theorem witness_SliceEvents_escalation : (unserving 0x770008 1).waitersOn 0 0x77 1 ≠ [] ∧
    isNext (exec (.demandSwapUp 0 0x770008) (unserving 0x770008 1)) ((unserving 0x770008 1).takeEscalation 0) = true ∧
    ((unserving 0x770008 1).takeEscalation 0).sups.any (fun u => u.2.serving == some 0) = true ∧
    goesTo (exec (.demandSwapUp 0 0x770008) ((unserving 0x770008 1).takeEscalation 0)) (fun u => u.pageHere 0 0x77 &&
      u.sups.all (fun e => e.2.serving == none)) = true := by decide +kernel
/-- A frame is needed, and an MMA has pinned a line. -/
def pinnedWait : State := { (awaiting 0x770008 1).modCtx 0 (fun c => { c with pool := [] }) with pins := [5] }
theorem witness_SliceEvents_demand_waits : (match pinnedWait.bringUp 0 0x77 [0x77] with 
      | .wait u => isNext (exec (.demandSwapUp 0 0x770008) pinnedWait) (pinnedWait.escalationEnd 0 u)
      | _ => false) = true := by decide +kernel
/-- A command waits for a page that is not mapped, or is mapped by now. -/
def mapWait (va : Nat) : State := { lowered [] with
  crews := [(1, crew0)], clusters := [(0, { cq := [{ copyCmd with wants := some (va, 0) }] })] }
theorem witness_SliceEvents_map : (mapWait 0x140000).switching = false ∧
    (((mapWait 0x140000).waitersOn 0 0x14 0).filter Waiter.laneless).length = 1 ∧
    (mapWait 0x140000).mapAt ((mapWait 0x140000).ctx 0).root 0x140000 = .missing 0 ∧
    (match (mapWait 0x140000).makeRoom 0 1 [0x14] 1 with
      | .room u => isNext (exec (.supervisorPageMap 0 0x140000) (mapWait 0x140000)) ((u.mapNow 0 0x140000 0 (u.ctx 0).pgattr).resumePage 0 0x14)
      | _ => false) = true ∧
    (mapWait 0x100000).mapAt ((mapWait 0x100000).ctx 0).root 0x100000 = .valid ∧
    isNext (exec (.supervisorPageMap 0 0x100000) (mapWait 0x100000)) ((mapWait 0x100000).resumePage 0 0x10) = true := by decide +kernel

/-! ### Buckets and pools -/

/-- Controller 2 meters VF 3 at 100 units, with bursts of 4 pages. -/
def metered (level : Nat) (queue : List TbReq) : State :=
  { small with ctl := [(0x22030, 0x8000000400000064)], tbLevel := [(0x203, level)], tbQueue := queue, cyc := 1050 }
theorem witness_SliceEvents_buckets : (metered 50 []).buckets = [(2, 3)] ∧ (metered 50 []).refilled = 0 ∧
    isNext (exec .bucketRefill { metered 50 [] with cyc := 1049 }) { metered 50 [] with cyc := 1049 } = true ∧
    goesTo (exec .bucketRefill (metered 50 [])) (fun u => u.tbLevelOf 2 3 == 16384 && u.refilled == 1) = true ∧
    (metered 50 []).tbOn 2 3 = true ∧ (metered 50 []).tbOn 2 4 = false ∧
    isNext (exec (.meteredRequest 2 4 9) (metered 50 [])) (metered 50 []) = true ∧
    goesTo (exec (.meteredRequest 2 3 50) (metered 50 [])) (fun u => u.tbLevelOf 2 3 == 0 && u.tbQueue == [] && u.tbWaitsOf 2 3 == 0) = true ∧
    goesTo (exec (.meteredRequest 2 3 51) (metered 50 [])) (fun u => u.tbLevelOf 2 3 == 50 && u.tbQueue == [{ mc := 2, vf := 3, bytes := 51 }] &&
      u.tbWaitsOf 2 3 == 1) = true ∧
    goesTo (exec (.tbcWrite 2 3 0x8000000200000005) (metered 50 [])) (fun u => u.tbLevelOf 2 3 == 8192 &&
      u.mcReg 2 0x2030 == 0x8000000200000005) = true := by decide +kernel
/-- POOLADD's value: a first frame, frames beyond the first, and its low bits. -/
def addVal (frame more low : Nat) : Word := BitVec.ofNat 64 (more * 2 ^ 52 + frame * 65536 + low)
theorem witness_SliceEvents_pool :
    goesTo (exec (.pooladd 0 (addVal 0x100 0 1)) small) (fun u => (u.ctx 0).poolOutcome == 3 && (u.ctx 0).pool == [] && u.hbm == small.hbm) =
      true ∧
    goesTo (exec (.pooladd 0 (addVal 0xFFFFFF 1 0)) small) (fun u => (u.ctx 0).poolOutcome == 1 && (u.ctx 0).pool == []) = true ∧
    small.frameUsed 0x200000 = true ∧
    goesTo (exec (.pooladd 0 (addVal 0x1F 1 0)) small) (fun u => (u.ctx 0).poolOutcome == 2 && (u.ctx 0).pool == []) = true ∧
    small.frameUsed 0x1000000 = false ∧ small.frameUsed 0x1010000 = false ∧
    goesTo (exec (.pooladd 0 (addVal 0x100 1 0)) small) (fun u => (u.ctx 0).poolOutcome == 0 && (u.ctx 0).pool == [0x1000000, 0x1010000]) =
      true ∧
    goesTo (exec (.poolrel 0 2) (small.modCtx 0 (fun c => { c with pool := [0x10000, 0x20000, 0x30000] }))) (fun u =>
      (u.ctx 0).poolRemoved == 2 && (u.ctx 0).pool == [0x10000]) = true := by decide +kernel

/-! ### The fabric and the host -/

/-- Module 5; VF 0 admits VF 3 of module 6, under job key 9, to its page at 0x1000000 and to queue 1. -/
def entry6 (flags : Nat) : AclEntry := { q0 := 9, q1 := BitVec.ofNat 64 (flags * 2 ^ 32 + 2 ^ 17 + 3 * 256 + 6), q2 := 0x1000000, q3 := 0x1000000 }
def fabric (flags : Nat) : State := { queues.modCtx 0 (fun c => { c with acl := [(0, entry6 flags)] }) with fabricId := some 5 }
def packet (op : FabricOp) (n : Nat) : FabricPacket := { peer := 6, pvf := 3, jobkey := 9, vf := 0, pa := 0x1000008, bytes := n, op := op }
theorem witness_HostEvents_fabric : isNext (exec (.fabricIdAssign 5) small) { small with fabricId := some 5 } = true ∧
    (fabric 7).hears 6 = true ∧ (fabric 7).admits (packet (.store [1, 2]) 2) false true = true ∧
    goesTo (exec (.fabricPacketReceive (packet (.store [1, 2]) 2)) (fabric 7)) (fun u => u.homeNat 0x1000008 2 == 0x201 &&
      u.hostLog == []) = true ∧
    (fabric 3).admits (packet (.store [1, 2]) 2) false true = false ∧
    isNext (exec (.fabricPacketReceive (packet (.store [1, 2]) 2)) (fabric 3)) { fabric 3 with hostLog := [.fabricProtection 6 0] } = true ∧
    (fabric 7).admits (packet .load 8) true false = true ∧
    goesTo (exec (.fabricPacketReceive (packet .load 8)) (fabric 7)) (fun u => u.hbm == (fabric 7).hbm && u.hostLog == []) = true ∧
    (fabric 7).admits (packet (.atomic .add .n32 5) 4) true true = true ∧
    goesTo (exec (.fabricPacketReceive (packet (.atomic .add .n32 5) 4)) (fabric 7)) (fun u => u.homeNat 0x1000008 4 == 5) = true := by
  decide +kernel
/-- A line of the page has a notice; a stash copy of it waits for a commit point; its line is pinned. -/
def acqPacket : FabricPacket := { packet .load 8 with acq := true }
def noticing : State := { fabric 7 with notices := [{ line := 0x20000, cl := 0, core := 0, cid := 1 }] }
theorem witness_HostEvents_acquire : lineOf acqPacket.pa = 0x20000 ∧ (noticing.fabricPromote acqPacket).1 = true ∧
    goesTo (exec (.fabricPacketReceive acqPacket) noticing) (fun u => u.notices == []) = true ∧
    (({ noticing with pins := [0x4000] } : State).modCrew 1 (fun c => { c with unc := [{ win := 0, pa := 0x200000, val := 9 }] })
      |>.fabricPromote acqPacket).1 = false ∧
    (fabric 7).pins.contains (lineOf 0x1000008) = false ∧ (fabric 7).stashHolders [] (lineOf 0x1000008) = [] := by decide +kernel
/-- Queue 1 is enabled as well. -/
def fabricQ (flags : Nat) : State := { fabric flags with hbm := (withMem [(0x220000, 0x121000), (0x220008, 0x0104), (0x220010, 3),
  (0x220040, 0x122000), (0x220048, 0x0104)]).hbm }
def qPins : State := { fabricQ 1 with pins := [lineOf 0x220040] }
def heldLines (a : Append) : List Nat := match a with | .held ls => ls | _ => []
theorem witness_HostEvents_queue_waits : heldLines (qPins.append 0 1 0x100000 none none) = [lineOf 0x222000, lineOf 0x220040] ∧
    isNext (exec (.peerQputReceive 6 3 9 0 1 0x100000) qPins) (qPins.askHolders [lineOf 0x222000, lineOf 0x220040]) = true ∧
    isNext (exec (.dbell 0 1 0x100000) qPins) (qPins.askHolders [lineOf 0x222000, lineOf 0x220040]) = true := by decide +kernel
theorem witness_HostEvents_queues : (kvVals ((fabricQ 1).ctx 0).acl).any (fun e => e.from 6 3 9 && e.q1.getLsbD 17) = true ∧
    (kvVals ((fabricQ 1).ctx 0).acl).any (fun e => e.from 6 3 9 && e.q1.getLsbD 18) = false ∧
    isNext (exec (.peerQputReceive 6 3 9 0 2 0x100000) (fabricQ 1)) (fabricQ 1) = true ∧
    appendIs ((fabricQ 1).append 0 1 0x100000 none none) 0 = true ∧
    isNext (exec (.peerQputReceive 6 3 9 0 1 0x100000) (fabricQ 1)) (appendSt ((fabricQ 1).append 0 1 0x100000 none none)) = true ∧
    (match (fabric 1).append 0 1 0x100000 none none with | .refused n => n == 1 | _ => false) = true ∧
    isNext (exec (.peerQputReceive 6 3 9 0 1 0x100000) (fabric 1)) (fabric 1) = true ∧
    goesTo (exec (.dbell 0 1 0x100000) (fabricQ 1)) (fun u => kvGet 0 (u.ctx 0).dstat 1 == 0 && (u.ctx 0).bell &&
      u.hbm == (appendSt ((fabricQ 1).append 0 1 0x100000 none none)).hbm) = true ∧
    goesTo (exec (.dbell 0 1 0x100000) (fabric 1)) (fun u => kvGet 0 (u.ctx 0).dstat 1 == refused 1 && !(u.ctx 0).bell &&
      u.hbm == (fabric 1).hbm) = true := by decide +kernel
/-- VF 0's registration buffer, and a context area of one block. -/
def registering (b : Nat) : State := small.modCtx 0 (fun c => { c with obuf := [(0, BitVec.ofNat 8 b)], omask := 3 })
def reg7 (ranks : List (Nat × Nat)) (owners : BitVec 64) : HandleRec := { handle := 7, jobkey := 0, owners := owners, ranks := ranks }
def refusedReg (r : HandleRec) : State := (registering 0).modCtx 0 (fun c => { c with hreg := some (r, false) })
theorem witness_HostEvents_owners : (registering 64).ownerOutcome 0 = 5 ∧
    goesTo (exec (.ownerRegister 0) (registering 64)) (fun u => (u.ctx 0).ostat == 0x4005 && (u.ctx 0).omask == 3) = true ∧
    eagerBlocks 1 = 0 ∧ labelId ctx0.labels 3 = some (3, [0, 1, 2, 3]) ∧
    goesTo (exec (.handleRegister 0 (reg7 [(5, 0)] 3)) (registering 0)) (fun u => (u.handle? 0 7).any (fun h =>
      h.reg == reg7 [(5, 0)] 3 && h.lab == 3 && h.blocks == [])) = true ∧
    isNext (exec (.handleRegister 0 (reg7 [] 3)) (registering 0)) (refusedReg (reg7 [] 3)) = true ∧
    isNext (exec (.handleRegister 0 (reg7 (List.replicate 193 (5, 0)) 3)) (registering 0)) (refusedReg (reg7 (List.replicate 193 (5, 0)) 3)) =
      true ∧
    isNext (exec (.handleRegister 0 (reg7 [(5, 0)] 4)) (registering 0)) (refusedReg (reg7 [(5, 0)] 4)) = true ∧
    goesTo (exec (.handleDeregister 0 7) (xferRun xferGo)) (fun u => (u.handle? 0 7).isNone) = true := by decide +kernel
def tdiIs (t : Tdi) : State := (casting gatedCast).modCtx 0 (fun c => { c with tdi := t })
theorem witness_HostEvents_registers :
    isNext (exec (.tierWrite 0 5 6) (tdiIs .unlocked)) ((tdiIs .unlocked).modCtx 0 (fun c => { c with tierBase := 5, tierSize := 6 })) =
      true ∧
    goesTo (exec (.tierWrite 0 5 6) (tdiIs .run)) (fun u => (u.ctx 0).tdi == .error && (u.ctx 0).casts == [] && (u.ctx 0).tierBase == 5) =
      true ∧
    isNext (exec (.registerWrite (.poolLow 0) 0x100000009) small) (small.modCtx 0 (fun c => { c with poolLow := 9 })) = true ∧
    goesTo (exec (.registerWrite (.obuf 0 504) 0x0102030405060708) small) (fun u => obufBytes (u.ctx 0) 504 8 == [8, 7, 6, 5, 4, 3, 2, 1]) =
      true ∧
    isNext (exec (.registerWrite (.ctl 2 0x2030) 0x64) small) (small.ctlWrite 2 0x2030 0x64) = true ∧
    goesTo (exec (.registerWrite (.acl 0 31 2) 0x10000) small) (fun u => kvGet {} (u.ctx 0).acl 31 == { q2 := 0x10000 } &&
      (u.ctx 0).egress == []) = true ∧
    goesTo (exec (.registerWrite (.egress 0 31 3) 0x10000) small) (fun u => kvGet {} (u.ctx 0).egress 31 == { q3 := 0x10000 } &&
      (u.ctx 0).acl == []) = true ∧
    isNext (exec (.registerWrite (.tdi 0) 2) small) (small.modCtx 0 (fun c => { c with tdi := .run })) = true := by decide +kernel
theorem witness_HostEvents_release : goesTo (exec (.vfRelease 0) (small.modCtx 0 (fun c => { c with pool := [0x300000], poolLow := 1 })))
    (fun u => u.mgmtIrq.contains 0 && (u.ctx 0).pool == [] && (u.ctx 0).casts == [] && (u.ctx 0).labels == [0] && (u.ctx 0).draws == 1) =
      true := by decide +kernel
/-- VF 0's table maps a page at 0x200000, whose frame no pool holds. -/
theorem witness_HostEvents_mapped : (small.stopContext 0).holdsFrame 0 0x200000 = true ∧ (small.stopContext 0).holdsFrame 0 0x900000 = false ∧
    goesTo (exec (.vfRelease 0) (small.setHomeByte 0x200003 7)) (fun u => u.homeByte 0x200003 == 0) = true ∧
    goesTo (exec (.vfRelease 0) (small.setHomeByte 0x900003 7)) (fun u => u.homeByte 0x900003 == 7) = true := by decide +kernel
theorem witness_HostEvents_turnover : isNext (exec .moduleTurnover { State.reset with switches := [2] })
    { State.reset with switches := [2], turnover := true } = true := by decide +kernel
/-- A supervisor core that has halted. -/
def halted (clause : List Word) : State := { small with sups := [(3, { th := { thread5 with park := .halted, clause := clause }
                                                                       s := [(1, { val := 7 })] })] }
theorem witness_HostEvents_reset : goesTo (exec .moduleReset small) (fun u => u.cyc == 0 && u.hbm == small.hbm && u.ctxs == [] && u.crews == []) =
      true ∧
    3 < Config.supervisorCores ∧
    goesTo (exec (.supervisorRestart 3 false) (halted [0, 0])) (fun u => (u.sup 3).th.park == .run && (u.sup 3).th.clause == [] &&
      (u.sup 3).s == [(1, { val := 7 })] && (u.sup 3).th.pc == thread5.pc + 24) = true ∧
    goesTo (exec (.supervisorRestart 3 true) (halted [])) (fun u => (u.sup 3).th.park == .run && (u.sup 3).s == []) = true ∧
    isNext (exec (.supervisorRestart 3 true) supervised) supervised = true := by decide +kernel
def inSession (x : Session) : State := { State.reset with spdm := { session := x } }
def lastOut (u : State) : Option SpdmResp := u.spdm.out.getLast?
theorem witness_HostEvents_spdm :
    goesTo (exec (.challenge 1) small) (fun u => lastOut u == some (.error "InvalidRequest")) = true ∧
    goesTo (exec .finish (inSession .handshake)) (fun u => u.spdm.session == .established) = true ∧
    goesTo (exec .endSession (inSession .established)) (fun u => u.spdm.session == .none) = true ∧
    (inSession .established).spdm.session = .established ∧
    (inSession .handshake).spdm.session ≠ .established ∧
    goesTo (exec .heartbeat (inSession .handshake)) (fun u => lastOut u == some (.error "UnexpectedRequest")) = true ∧
    goesTo (exec (.vendorDefinedRequest []) (inSession .none)) (fun u => lastOut u == some (.error "UnsupportedRequest")) = true := by
  decide +kernel
/-- An image of one byte and one granule. -/
def image1 : Image := { bytes := [(0x100005, 9)], granules := [(0x100080, 1, 3)] }
theorem witness_HostEvents_image : (image1.bytes.all (fun e => ((registering 0).loadAddr 0 e.1).isSome)) = true ∧
    (registering 0).loadAddr 0 0x100080 = some 0x200080 ∧ ((registering 0).ctx 0).omask = 3 ∧
    imageLabels ctx0.labels image1.granules = some ([(0x100080, 1, 3)], [0, 1, 2, 3]) ∧
    goesTo (exec (.imageLoad 0 image1) (registering 0)) (fun u => u.homeByte 0x200005 == 9 && u.granLab 0x4001 == 3) = true ∧
    (registering 0).pins.contains 0x4000 = false ∧ (registering 0).stashHolders [] 0x4000 = [] ∧
    (registering 0).stashHolders [] 0x4001 = [] ∧ imageLabels ctx0.labels [] = some ([], [0, 1, 2, 3]) ∧
    goesTo (exec (.imageLoad 0 { image1 with granules := [] }) ((registering 0).setLabels 0 [0, 1, 2, 3])) (fun u =>
      u.homeByte 0x200005 == 9 && u.granLab 0x4000 == 0) = true := by decide +kernel
def brokenAt : State := withThread (fun th => { th with park := .debugger, slot := 1 })
theorem witness_HostEvents_debugger : brokenAt.thread? me0 = some { thread0 with park := .debugger, slot := 1 } ∧
    goesTo (exec (.debuggerResume me0) brokenAt) (fun u => u.thread? me0 == some { thread0 with
      pc := 0x110018, slot := 0, clause := [], park := .run, ready := 100 }) = true ∧ thread0.park ≠ .debugger ∧
    isNext (exec (.debuggerResume me0) small) small = true := by decide +kernel
theorem witness_HostEvents_partitions :
    isNext (exec (.partitionTableWrite 16 1 1 0 1 0) small) small = true ∧ (kvGet ({} : Part) small.parts 15).running = none ∧
    goesTo (exec (.partitionTableWrite 15 1 1 7 1 0) small) (fun u => kvFind u.parts 15 == some { ({} : Part) with
      clust := 1, vfs := 1, slice := 7, flags := 1 }) = true ∧
    ({ slicePart (some 0) with pending := some (1, 1, 0, 1, 0) } : Part).cut 0 = false ∧
    isNext (exec (.partitionTableWrite 0 1 1 0 1 0) (slicing (some 0) 100 true)) { slicing (some 0) 100 true with
      parts := [(0, { slicePart (some 0) with pending := some (1, 1, 0, 1, 0) })] } = true := by decide +kernel
theorem witness_HostEvents_links : isNext (exec (.pcieLinkStateChange 1 false) small) { small with pcieDown := [1] } = true ∧
    isNext (exec (.fabricLinkStateChange 23 false) small) { small with
      portsDown := [23], mgmtLog := [.fabricLink 23 false] } = true ∧
    goesTo (exec .coolantLoss (casting gatedCast)) (fun u => !u.cooled && u.mgmtLog == [.coolant] && (u.ctx 0).casts == []) = true := by
  decide +kernel
/-- Every cluster clock runs lower already. -/
def slowed : State := { small with islands := (List.range Config.clusters).map (fun k => (k, 1)) }
theorem witness_HostEvents_islands : kvFind small.islands 0 = none ∧ 0 < Config.clusters ∧ Config.clusters ≤ 255 ∧
    isNext (exec (.thermalThrottle 255) small) small = true ∧
    (List.range Config.clusters).all (fun k => (kvFind slowed.islands k).isSome) = true := by decide +kernel

end Sys2Proof.Tests
end

