-- ==== Sys2Proof/Tests/WitnessesForms.lean ====
section
/-! SUPPORT. Witnesses for further forms that the statements cover: labelled branches and their faults, poisoned scratchpad lines,
prefetches, atomics lane by lane, and events of slices and of the host. -/

namespace Sys2Proof.Tests
open Sys2Proof.Machine
set_option Elab.async false

/-! ### Branches -/

def loopAt : State := readAt armed [0x110088]
theorem witness_LabelledBranches_loop : armed.Turn me0 thread3 ∧ armed.mayIssue me0 thread3 [.s 6] [.s 6] = true ∧
    (armed.readS me0 6).val = 1 ∧ armed.headersAt me0 [targetOf thread3 16] = some loopAt ∧
    loopAt.joined me0 [(loopAt.readS me0 6).lab, thread3.pcl] = some (1, [0, 1, 2, 3]) ∧
    ((loopAt.setLabels 0 [0, 1, 2, 3]).ctx 0).dominates team3.clear 1 = true ∧
    ((loopAt.setLabels 0 [0, 1, 2, 3]).ctx 0).dominates thread3.pcl 1 = false ∧ thread3.spanMissing true = false ∧
    (loopAt.setLabels 0 [0, 1, 2, 3]).joined me0 [thread3.pcl, 1] = some (1, [0, 1, 2, 3]) ∧
    isNext (exec (.loop 6 15 16) armed) (armed.finish (((((loopAt.setLabels 0 [0, 1, 2, 3]).writeS me0 6 { val := 0, lab := 1 }).modTeam
      1 0 (fun x => { x with nextSid := 1 })).spanOpened me0 0 0x110088 1 { span := span45, cond := 1, groups := [0] } false)) me0
      { ctl := .next }) = true := ⟨⟨rfl, rfl⟩, by decide +kernel⟩
/-- s6 counts more rounds. -/
def looping : State := armed.writeS me0 6 { val := 3, lab := 1 }
theorem witness_LabelledBranches_loop_back : (looping.readS me0 6).val ≠ 1 ∧ thread3.heldFree = true ∧
    isNext (exec (.loop 6 15 16) looping) (looping.finish (((((((readAt looping [0x110080, 0x110088]).setLabels 0 [0, 1, 2, 3]).closed me0
      thread3).writeS me0 6 { val := 2, lab := 1 }).modTeam 1 0 (fun x => { x with nextSid := 1 })).spanOpened me0 0 0x110088 1
      { span := span45, cond := 1, groups := [0] } true)) me0 { ctl := .jump 0x110080 }) = true := by decide +kernel
/-- A header's address under label 1 stands in s6 or in lnk, where the clearance holds label 1 or does not. -/
def aimedAt (s : State) (r : Nat) : State := s.writeS me0 r { val := 0x110088, lab := 1 }
theorem witness_LabelledBranches_other_faults : (coded.readS me0 6).lab = 1 ∧ thread3.spanMissing false = true ∧
    traps (exec (.loop 6 15 0) coded) 0x0B 0 = true ∧ traps (exec (.loop 6 15 0) armed) 0x0D 0 = true ∧
    ((aimedAt coded 6).ctx 0).dominates team0.clear ((aimedAt coded 6).readS me0 6).lab = false ∧
    traps (exec (.brx 6) (aimedAt coded 6)) 0x0B 0 = true ∧ traps (exec (.brx 6) (aimedAt armed 6)) 0x0D 0 = true ∧
    traps (exec (.brv 1 15 16) { coded with crews := [(1, crew2)] }) 0x0B 0 = true ∧ thread0.spanMissing true = true ∧
    traps (exec (.brv 1 15 16) (armed.modThread me0 (fun th => { th with armed := none }))) 0x0D 0 = true ∧
    ((aimedAt coded 62).ctx 0).dominates thread0.pcl ((aimedAt coded 62).readS me0 62).lab = false ∧
    traps (exec .ret (aimedAt coded 62)) 0x0B 0 = true := by decide +kernel
/-- Every active lane, or none, is in m1, which carries label 1. -/
def agreeing (bits : Mask) : State := armed.modTeam 1 0 (fun t => { t with m := [(1, { bits := bits, lab := 1 })] })
theorem witness_BrvResult_agree : thread3.exm &&& 0xF = thread3.exm ∧
    isNext (exec (.brv 1 15 16) (agreeing 0xF)) ((agreeing 0xF).finish (((((readAt (agreeing 0xF) [0x110080, 0x110088]).setLabels 0
      [0, 1, 2, 3]).closed me0 thread3).modTeam 1 0 (fun x => { x with nextSid := 1 })).spanOpened me0 0 0x110088 1
      { span := span45, cond := 1, groups := [0] } true) me0 { ctl := .jump 0x110080 }) = true ∧
    isNext (exec (.brv 1 15 16) (agreeing 0)) ((agreeing 0).finish ((((readAt (agreeing 0) [0x110088]).setLabels 0
      [0, 1, 2, 3]).modTeam 1 0 (fun x => { x with nextSid := 1 })).spanOpened me0 0 0x110088 1
      { span := span45, cond := 1, groups := [0] } false) me0 { ctl := .next }) = true := by decide +kernel

/-! ### Scratchpad poison, prefetches, atomics, declassification -/

/-- The line that a load reads is poisoned. -/
def soiled : State := stashed.modCrew 1 (fun c => c.modBody (fun b => { b with pad := { b.pad with poison := [1] } }))
def soiledChk : EStateM.Result Stop State (List (Nat × Loc)) := checkPad .load padAcc.1 soiled
def soiledPre : EStateM.Result Stop State PUnit := prepareV 5 padLabs (stOf soiledChk)
theorem witness_ScratchpadAccesses_poison : padAcc = soiled.laneAccess me0 team8 thread0 4 63 (some 1) true 128 ∧
    (padAcc.1.eas.find? (fun e => (farLane (valOf soiledChk) e.1).isNone && [1].contains (padLine e.2.toNat))).isSome = true ∧
    isNext (exec (.vlds 2 .b32 true 5 63 (some 1) 128) soiled) ((stOf soiledPre).consumedPad 1
      (((padAcc.1.eas.find? (fun e => (farLane (valOf soiledChk) e.1).isNone && [1].contains (padLine e.2.toNat))).map (fun e =>
        e.2.toNat)).getD 0)) = true := ⟨rfl, by decide +kernel⟩
theorem witness_PadAndTileCompletions_sound : crew8.body.pad.sound padAcc.1 := by
  dsimp only [Pad.sound]
  decide +kernel
theorem witness_StashAndPrefetch_drops : canonical 0x0100000000000000 = false ∧ (0x100002 : Int) % 4 ≠ 0 ∧
    decide (prefetch 0 0 0 (0x700000, 1024) 0 small 0x100002 = small) = true ∧
    decide (prefetch 0 0 0 (0x700000, 1024) 0 small 0x700000 = small) = true ∧ small.l1Size 0 0 + 1 ≤ Config.l1Lines ∧
    (prefetch 0 0 0 (0x700000, 1024) 0 small 0x100000).crews = small.crews ∧
    (prefetch 0 0 0 (0x700000, 1024) 0 small 0x100000).homeByte 0x200000 = small.homeByte 0x200000 := by decide +kernel
/-- The lanes' operations of a RED in the core's scope. -/
def redRmws : List Rmw := (valOf atomChk).map (fun l => { loc := l, f := fun old => some (old + 1), operand := 1, lab := 0 })
def redTouched : State := (redRmws.map Rmw.loc).foldl (fun u l => u.touched 1 crew0 l) loading
def redAll : EStateM.Result Stop State (List Word) := rmwAll .core false 4 redRmws redTouched
theorem witness_VectorAtomics_lanes : (valOf atomChk).map Loc.lane = mlanes thread0.exm ∧ crew0.copy = .solo ∧ thread0.relNext = none ∧
    loading.plainLocs 1 crew0 (redRmws.map Rmw.loc) = true ∧ redRmws.all (fun r => !r.loc.outside) = true ∧
    loading.linesFit crew0 (redRmws.map (fun r => r.loc.line)) = true ∧ okR redAll = true ∧ (stOf redAll).cur = some me0 ∧
    (match rmwLocs .core .rlx 4 false redRmws loading with
      | .ok x u => match redAll with
        | .ok vs _ => x.1 == vs && decide (u = (stOf redAll).modThread me0 (fun y => { y with relNext := none }))
        | _ => false
      | _ => false) = true := by decide +kernel
/-- No label is left for the join of the target with what the register word held. -/
def fullLabels : State := (small.modCtx 0 (fun c => { c with
    labels := fullTab, endorse := [{ site := 7, owner := 2, count := 1 }] })).modTeam 1 0 (fun t => { t with
  v := kvSet (kvSet t.v (vkey 5 0) { (word4 0 0 0 0) with lab := 2 }) (vkey 1 0) (word4 1 2 3 4 3)
  frags := [(0, thread4)] })
theorem witness_Declassification_full : (fullLabels.ctx 0).owners 3 &&& ~~~((fullLabels.ctx 0).owners 1) = 4 ∧
    endorseCount (fullLabels.ctx 0).endorse 7 2 ≠ 0 ∧ joinAllIn fullTab 1 [2] = none ∧
    traps (exec (.decl 5 1 7 1) fullLabels) 0x10 0 = true := by decide +kernel

/-! ### Slices -/

/-- A cluster that the slice's boundary retires holds a crew, or none. -/
theorem witness_SliceEvents_boundary : (slicing (some 0) 1050000 false).doomed (slicePart (some 0)) 0 = [] ∧
    (let s : State := { slicing (some 0) 1050000 false with
      parts := [(0, { slicePart (some 0) with pending := some ((slicePart (some 0)).clust, 3, 7, 1, 0) })] }
     goesTo (exec (.sliceEnd 0) s) (fun u => (kvFind u.parts 0).any (fun q => q.running == some 0 && q.since == 1050000 && q.slice == 7 &&
       q.pending == none) && u.crews == s.crews && u.hbm == s.hbm)) = true := by decide +kernel
/-- A disabled partition takes a change that waits for its boundary. -/
def offPart : Part := { slicePart none with flags := 0, pending := some (1, 3, 7, 1, 0) }
def switchedOff : State := { between 9 with parts := [(0, offPart)], switches := [] }
theorem witness_SliceEvents_off : switchedOff.partsOn.find? (fun e => e.1 == 0) = none ∧ switchedOff.boundaryWork offPart = true ∧
    goesTo (exec (.switchIn 0) switchedOff) (fun u => (kvFind u.parts 0).any (fun q => q.clust == 1 && q.vfs == 3 && q.slice == 7 &&
      q.flags == 1 && q.pending == none && q.running == none)) = true := by decide +kernel
/-- A command has waited longer for another page. -/
def laterWait : State := { (awaiting 0x770008 1).modCtx 0 (fun c => { c with
    tierPages := c.tierPages ++ [(0x78, { tier := .host, bytes := [], labs := [], poison := [] })] }) with
  clusters := [(0, { cq := [{ copyCmd with wants := some (0x780000, 1), asked := 1 }] })]
  crews := [(1, { crew0 with body := { crew0.body with teams := [(0, { team0 with
    frags := [(0, { thread0 with park := .page 0x770008 1 [0x77], unready := 9 })] })] } })] }
theorem witness_SliceEvents_later : laterWait.firstAsked (firstOf ((laterWait.waitersOn 0 0x77 1).map Waiter.since)) = false ∧
    isNext (exec (.demandSwapUp 0 0x770008) laterWait) laterWait = true := by decide +kernel

/-! ### The host -/

/-- A handle of two ranks, the other one elsewhere, takes a block of the context area and labels its slots. -/
def areaOf (n : Nat) : State :=
  { (registering 0).modCtx 0 (fun c => { c with carea := BitVec.ofNat 64 (0x400000 + n) }) with fabricId := some 5, crews := [] }
theorem witness_HostEvents_handle_blocks : eagerBlocks 2 = 1 ∧ (areaOf 1).freeBlocks 0 = [0] ∧
    goesTo (exec (.handleRegister 0 (reg7 [(5, 0), (6, 0)] 3)) (areaOf 1)) (fun u => (u.handle? 0 7).any (fun h => h.blocks == [0] &&
      u.slotAddr 0 h 1 0 == some 0x240000 && u.granLab (lineOf 0x240000 + 31) == h.lab) &&
      (u.ctx 0).hreg == some (reg7 [(5, 0), (6, 0)] 3, true)) = true ∧
    (areaOf 0).freeBlocks 0 = [] ∧
    goesTo (exec (.handleRegister 0 (reg7 [(5, 0), (6, 0)] 3)) (areaOf 0)) (fun u => (u.handle? 0 7).isNone &&
      (u.ctx 0).hreg == some (reg7 [(5, 0), (6, 0)] 3, false)) = true ∧
    goesTo (exec (.handleRegister 0 (reg7 [(192, 0)] 3)) (areaOf 1)) (fun u => (u.handle? 0 7).isNone) = true := by decide +kernel
theorem witness_HostEvents_bar : ((tdiIs .run).ctx 0).bar = 0 ∧
    isNext (exec (.registerWrite (.bar 0) 0) (tdiIs .run)) (tdiIs .run) = true ∧
    isNext (exec (.registerWrite (.bar 0) 9) (tdiIs .unlocked)) ((tdiIs .unlocked).modCtx 0 (fun c => { c with bar := 9 })) = true ∧
    goesTo (exec (.registerWrite (.bar 0) 9) (tdiIs .run)) (fun u => (u.ctx 0).bar == 9 && (u.ctx 0).tdi == .error && (u.ctx 0).casts == []) =
      true := by decide +kernel
theorem witness_HostEvents_partition_cut :
    ({ slicePart (some 0) with pending := some (1, 2, 0, 1, 0) } : Part).cut 0 = true ∧
    goesTo (exec (.partitionTableWrite 0 1 2 0 1 0) (slicing (some 0) 100 true)) (fun u => (kvFind u.parts 0).any (fun q =>
      q.running == none && q.vfs == 2)) = true ∧
    isNext (exec (.partitionTableWrite 0 1 2 0 1 0) swapping) { swapping with
      parts := [(0, { slicePart none with incoming := some 0, pending := some (1, 2, 0, 1, 0) })] } = true := by decide +kernel

end Sys2Proof.Tests
end

section
/-! PROOF. Returns from a handler (R108): O16. -/

namespace Sys2Proof.Machine.ExecModel

/-! ### Closed windows -/

@[simp] theorem modThread_cur (s : State) (ag : Agent) (f : Thread → Thread) : (s.modThread ag f).cur = s.cur := by
  cases ag <;> rfl

@[simp] theorem closed_cur (s : State) (ag : Agent) (th : Thread) : (s.closed ag th).cur = s.cur := by
  unfold State.closed
  split
  · rfl
  · exact modThread_cur ..

/-! ### TRET -/

/-- A fragment in its handler finds the frame that its team has saved for it. -/
theorem myFrame_ok {s : State} {cid t fn : Nat} {c : Crew} {tm : Team} {th : Thread} {f : TrapFrame}
    (h : s.AtFrag cid t fn c tm th) (hf : tm.frame = some f) (hfn : f.frag = fn) (hh : th.handler = true) :
    myFrame s = .ok f s := by
  simp only [myFrame, M_bind, myFrag_ok h.cur, myTh_ok h.turn, myTeam_ok h, hf, hh, hfn, beq_self_eq_true, Bool.and_self,
    ↓reduceIte, M_pure]

/-- The state after a return to a header and slot. -/
def returned (s : State) (cid t fn : Nat) (th : Thread) (f : TrapFrame) (pc slot : Nat) : State :=
  { ((s.closed (.frag cid t fn) th).modTeam cid t (fun x => { x with frame := none })).modThread (.frag cid t fn)
      (fun x => { restoreThread f x with pc := pc, slot := slot, active := false, count := x.count + 1 }) with cur := none }

/-- A return ends the windows, releases the frame, restores the thread and gives up the turn (R108). -/
theorem returnTo_ok {s : State} {cid t fn : Nat} {c : Crew} {tm : Team} {th : Thread} (h : s.AtFrag cid t fn c tm th)
    (hh : th.heldFree = true) (f : TrapFrame) (pc slot : Nat) :
    returnTo f pc slot s = .ok { ctl := .stay } (returned s cid t fn th f pc slot) := by
  have h1 : (s.closed (.frag cid t fn) th).cur = some (.frag cid t fn) := by rw [closed_cur, h.cur]
  have h2 : ((s.closed (.frag cid t fn) th).modTeam cid t (fun x => { x with frame := none })).cur = some (.frag cid t fn) := h1
  simp only [returnTo, M_bind, closeWindows_ok h.turn hh, modTeam_ok h1, modTh_ok h2, M_modify, M_pure, returned]

section
variable {s : State} {cid t fn : Nat} {c : Crew} {tm : Team} {th : Thread} {f : TrapFrame}
  (h : s.AtFrag cid t fn c tm th) (hf : myFrame s = .ok f s) (hw : th.heldFree = true)
include h hf hw

theorem execTretRetry_ok : execTretRetry s =
    .next (s.finish (returned s cid t fn th f f.pc (if f.slot = 16 then 0 else f.slot)) (.frag cid t fn) { ctl := .stay }) := by
  refine run_ok h.cur ?_
  rw [M_bind_ok hf]
  exact returnTo_ok h hw f _ _

/-- After a fault of an instruction TRET.skip goes on at the next slot, or at the header after the clause. -/
theorem execTretSkip_ok (hs : f.slot ≠ 16) : execTretSkip s =
    .next (s.finish (returned s cid t fn th f (if f.slot + 1 < f.len then f.pc else f.pc + 8 * (f.len + 1))
      (if f.slot + 1 < f.len then f.slot + 1 else 0)) (.frag cid t fn) { ctl := .stay }) := by
  refine run_ok h.cur ?_
  rw [M_bind_ok hf, if_neg hs]
  by_cases hl : f.slot + 1 < f.len
  · simp only [hl, ↓reduceIte]
    exact returnTo_ok h hw f _ _
  · simp only [hl, ↓reduceIte]
    exact returnTo_ok h hw f _ _

/-- After a fault at a header TRET.skip goes on at the header after the clause that the word there opens. -/
theorem execTretSkip_header_ok {w : Word} {s1 : State} (hs : f.slot = 16) (h1 : s.fetchFor (.frag cid t fn) f.pc = .ok (w, s1)) :
    execTretSkip s =
      .next (s.finish (returned s1 cid t fn th f (f.pc + 8 * (hdrLen w + 1)) 0) (.frag cid t fn) { ctl := .stay }) := by
  refine run_ok h.cur ?_
  have hret := returnTo_ok (h.same (sameRun_fetchWord h1)) hw f (f.pc + 8 * (hdrLen w + 1)) 0
  unfold State.fetchFor at h1
  rw [M_bind_ok hf, if_pos hs, M_bind_ok (myVf?_eq h.turn), M_bind_ok (myCl_eq h.turn), M_bind_ok (myAperture_eq h.turn),
    M_bind_ok (M_get s), M_bind_ok (me_ok h.cur)]
  generalize s.fetchWord (s.fetchUnit (.frag cid t fn)) (s.vfOf (.frag cid t fn)) (s.clOf (.frag cid t fn))
    (s.apOf (.frag cid t fn)) f.pc = r at h1 ⊢
  subst h1
  exact hret
end

/-- Settles O16: the handler finds its frame, and each form of TRET returns to the place that the frame's slot and length name,
or, after a fault at a header, to the place that the header's word gives. -/
theorem trapReturns : Obligations.TrapReturns := by
  unfold Obligations.TrapReturns
  intro s cid t fn c tm th f h hf hfn hh hw
  have hfr := myFrame_ok h hf hfn hh
  exact ⟨execTretRetry_ok h hfr hw, execTretSkip_ok h hfr hw, fun _ _ => execTretSkip_header_ok h hfr hw⟩

end Sys2Proof.Machine.ExecModel
end

section
namespace Sys2Proof.Machine.ExecModel

/-! ### BRV in a team whose fragments are not listed in order -/

/-- Words at some addresses, as bytes. -/
def wordsAt (ws : List (Nat × Nat)) : KV Byte := ws.foldl (fun m e => (numBytes e.1 8 e.2).foldl (fun m b => kvPut 0 m b.1 b.2) m) []

/-- A fragment that stands at a BRV with a window open on s1, with four active lanes. -/
def lastThread : Thread :=
  { pc := 0x110000, clause := [0], exm := 0xF, f := 0xF, pend := [{ dsts := [.s 1], left := 1, cls := 0 }] }
/-- Its team lists it last of 15 fragments, though its number is the lowest. -/
def unorderedTeam : Team :=
  { lanes := 4, live := 0xF, frags := (List.range 14).map (fun k => (k + 1, {})) ++ [(0, lastThread)], m := [(1, { bits := 5 })] }
def unorderedCrew : Crew := { vf := 0, key := 0, index := 0, body := { teams := [(0, unorderedTeam)] } }
/-- One page of code at 0x110000, with headers at 0x110010 and 0x110018, and no page of the context area. -/
def unordered : State :=
  { cur := some (.frag 1 0 0), ctxs := [(0, { ptb := 0x10000 })], crews := [(1, unorderedCrew)]
    hbm := wordsAt [(0x10000, 0x20001), (0x20000, 0x30001), (0x30088, 0x210009), (0x210010, 0xF000000000000000),
      (0x210018, 0xF000000000000000)] }
/-- The state after the reads of the branch's target and join. -/
def unorderedRead : State := (unordered.headersAt (.frag 1 0 0) [0x110010, 0x110018]).getD unordered

theorem unordered_atFrag : unordered.AtFrag 1 0 0 unorderedCrew unorderedTeam lastThread := ⟨rfl, rfl, rfl, rfl⟩

/-- The outcome of a step leaves crew 1 in place. -/
def keepsCrew (o : Host.Outcome State Fault Refusal) : Bool :=
  match o with | .next u => (kvFind u.crews 1).isSome | _ => false

/-- Refutes O12: closing the window writes the fragment's thread back at the place of its number, so that a list that is not in
order grows by one entry. The branch then finds the team's 16 entries used and spills, which ends the cast for want of a page of
the context area, while the statement counts the 15 entries from before and splits the fragment in place. -/
theorem not_brvResult : ¬ Obligations.BrvResult := by
  unfold Obligations.BrvResult
  intro h
  obtain ⟨h1, -⟩ := h 1 1 2 unordered unorderedRead 1 0 0 unorderedCrew unorderedTeam lastThread unordered_atFrag
    (by decide +kernel) (by decide +kernel) (by decide +kernel) (by decide +kernel)
  have hexec : keepsCrew (exec (.brv 1 1 2) unordered) = false := by decide +kernel
  rw [h1 (by decide +kernel)] at hexec
  exact absurd hexec (by decide +kernel)

end Sys2Proof.Machine.ExecModel
end

section
/-! PROOF. Register scopes and requests for register words (R35, R36, R114, R115): O39. -/

namespace Sys2Proof.Machine.ExecModel

/-! ### A precise fault of the executing agent -/

theorem trapU_error {α : Type} {s : State} {ag : Agent} {th : Thread} (h : s.Turn ag th) (code sub : Nat) :
    (trapU code sub : M α) s = .error (.trap { code := code, sub := sub, lanes := th.exm }) s := by
  simp only [trapU, M_bind, myTh_ok h, M_throw]

/-- An instruction that raises a fault other than the full label table, having changed nothing, takes it. -/
theorem run_trap {m : M Done} {s : State} {ag : Agent} {t : Trap} (h : s.cur = some ag) (hm : m s = .error (.trap t) s)
    (ht : (t.code == 0x10 && t.sub == 0) = false) : run m s = .next (s.takeTrap ag t) := by
  rw [run_error h hm, State.stopped, ht, if_neg Bool.false_ne_true]

/-- An instruction that parks takes the place of a held load only where one is held. -/
theorem run_park {m : M Done} {s u : State} {ag : Agent} {th : Thread} {p : Park} (h : s.Turn ag th) (hw : th.heldFree = true)
    (hm : m s = .error (.park p) u) : run m s = .next (u.parkThread ag (keepPair (u.parkOf ag) p)) := by
  have hh : th.holding = false := by simpa [Thread.heldFree, Thread.holding] using hw
  have hn : s.mustHold u ag = false := by simp only [State.mustHold, h.2, Option.any_some, hh, Bool.false_and]
  rw [run_error h.1 hm, State.stopped, hn, if_neg Bool.false_ne_true]

/-! ### The checks of a scope instruction -/

section
variable {s : State} {cid t fn : Nat} {c : Crew} {tm : Team} {th : Thread} (h : s.AtFrag cid t fn c tm th)
include h

theorem oneFrag_ok (h1 : tm.frags.length = 1) : oneFrag s = .ok tm s := by
  simp only [oneFrag, M_bind, myTeam_ok h, h1, bne_self_eq_false, Bool.false_eq_true, ↓reduceIte, M_pure]

theorem oneFrag_error (h1 : tm.frags.length ≠ 1) :
    oneFrag s = .error (.trap { code := 0x01, sub := 9, lanes := th.exm }) s := by
  simp only [oneFrag, M_bind, myTeam_ok h, bne_iff_ne.mpr h1, ↓reduceIte]
  exact trapU_error h.turn 0x01 9

theorem noSpan_ok (ho : th.openSpan = none) : noSpan s = .ok ⟨⟩ s := by
  simp only [noSpan, M_bind, myTh_ok h.turn, ho, M_pure]

/-! ### Words for a team -/

theorem takeWords_zero : takeWords 0 s = .ok ⟨⟩ s := by
  simp only [takeWords, M_bind, myFrag_ok h.cur, ↓reduceIte, M_pure]

theorem awaitHeld_ok (hw : th.heldFree = true) : awaitHeld s = .ok ⟨⟩ s := by
  have hh : th.holding = false := by simpa [Thread.heldFree, Thread.holding] using hw
  simp only [awaitHeld, M_bind, myTh_ok h.turn, hh, Bool.false_eq_true, ↓reduceIte, M_pure]

theorem takeWords_granted {n : Nat} (hn : n ≠ 0) (hw : th.heldFree = true) (hg : s.grantable cid t n = true) :
    takeWords n s = .ok ⟨⟩ (s.giveWords cid t n) := by
  simp only [takeWords, M_bind, myFrag_ok h.cur, hn, ↓reduceIte, awaitHeld_ok h hw, M_get, hg, Bool.not_true, Bool.false_eq_true,
    M_modify]

theorem takeWords_waits {n : Nat} (hn : n ≠ 0) (hw : th.heldFree = true) (hg : s.grantable cid t n = false) :
    takeWords n s = .error (.park (.grow n)) (s.askHeld c.cl c.core) := by
  simp only [takeWords, M_bind, myFrag_ok h.cur, hn, ↓reduceIte, awaitHeld_ok h hw, M_get, hg, Bool.not_false, getCrew_ok h.crew,
    M_modify, M_throw]

/-! ### The instructions -/

/-- A team of several fragments may not execute a scope instruction (R115). -/
theorem scope_needs_one_fragment (h1 : tm.frags.length ≠ 1) {i : Instr} {n base : Nat}
    (hi : i = .scopeo n base ∨ i = .scopec ∨ i = .rgrow n ∨ i = .rshrink n) :
    exec i s = .next (s.takeTrap (.frag cid t fn) { code := 0x01, sub := 9, lanes := th.exm }) := by
  have he := oneFrag_error h h1
  rcases hi with rfl | rfl | rfl | rfl
  · exact run_trap h.cur (M_bind_error he) rfl
  · exact run_trap h.cur ((M_bind_ok (myFrag_ok h.cur)).trans (M_bind_error he)) rfl
  · exact run_trap h.cur (M_bind_error he) rfl
  · exact run_trap h.cur ((M_bind_ok (myFrag_ok h.cur)).trans (M_bind_error he)) rfl

variable (h1 : tm.frags.length = 1) (hi : s.mayIssue (.frag cid t fn) th [] [] = true)
include h1 hi

/-- SCOPEO, once its words are there. -/
theorem scopeo_next (ho : th.openSpan = none) {n base : Nat} (hn : n ≠ 0) (hb : base + n ≤ 256) (hl : tm.scopes.length < 8)
    (hm : ∀ e ∈ tm.scopes, meets base n e.1 e.2 = false) {u : State} (hu : u.cur = s.cur)
    (hw : takeWords (n * tm.groups - tm.reserve) s = .ok ⟨⟩ u) :
    exec (.scopeo n base) s = .next (s.finish (u.modTeam cid t (fun x => { x with
      reserve := x.reserve - n * tm.groups, scopes := (base, n) :: x.scopes
      v := reopened u.tick x (scopeKeys x base n)
      old := (scopeKeys x base n).foldl kvDel x.old })) (.frag cid t fn) {}) := by
  have hbad : (n = 0 || 256 < base + n || tm.scopes.length ≥ 8 || tm.scopes.any (fun e => meets base n e.1 e.2)) = false := by
    simp only [Bool.or_eq_false_iff, decide_eq_false_iff_not, not_lt, ge_iff_le, not_le, List.any_eq_false]
    exact ⟨⟨⟨hn, hb⟩, hl⟩, fun e he => by simp [hm e he]⟩
  refine run_ok h.cur ?_
  simp only [M_bind, oneFrag_ok h h1, hbad, Bool.false_eq_true, ↓reduceIte, issue_ok h.turn hi, noSpan_ok h ho, hw, M_get,
    modTeam_ok (hu.trans h.cur), done, M_pure]

/-- SCOPEC of a scope that is not the outermost. -/
theorem scopec_next (ho : th.openSpan = none) {base n : Nat} {rest : List (Nat × Nat)} (hs : tm.scopes = (base, n) :: rest)
    (hr : rest ≠ []) :
    exec .scopec s = .next (s.finish ((s.modTeam cid t (fun x => { x with
      scopes := rest, v := (scopeKeys tm base n).foldl kvDel x.v
      old := (scopeKeys tm base n).foldl (fun o k => kvPut {} o k (kvGet {} x.v k)) x.old })).modCrew cid (fun c =>
      { c with held := kvPut 0 c.held t (kvGet 0 c.held t + n * tm.groups) })) (.frag cid t fn) {}) := by
  have he : rest.isEmpty = false := by simpa using hr
  refine run_ok h.cur ?_
  simp only [M_bind, myFrag_ok h.cur, oneFrag_ok h h1, hs, he, Bool.false_eq_true, ↓reduceIte, issue_ok h.turn hi, noSpan_ok h ho,
    modTeam_ok h.cur, M_modify, done, M_pure]

theorem rgrow_next {n : Nat} (hp : th.park ≠ .granted) {u : State} (hw : takeWords n s = .ok ⟨⟩ u) :
    exec (.rgrow n) s = .next (s.finish u (.frag cid t fn) {}) := by
  refine run_ok h.cur ?_
  simp only [M_bind, oneFrag_ok h h1, issue_ok h.turn hi, myTh_ok h.turn, beq_eq_false_iff_ne.mpr hp, Bool.false_eq_true,
    ↓reduceIte, hw, done, M_pure]

theorem rgrow_waits {n : Nat} (hn : n ≠ 0) (hp : th.park ≠ .granted) (hw : th.heldFree = true)
    (hg : s.grantable cid t n = false) :
    exec (.rgrow n) s = .next ((s.askHeld c.cl c.core).parkThread (.frag cid t fn)
      (keepPair ((s.askHeld c.cl c.core).parkOf (.frag cid t fn)) (.grow n))) := by
  refine run_park h.turn hw ?_
  simp only [M_bind, oneFrag_ok h h1, issue_ok h.turn hi, myTh_ok h.turn, beq_eq_false_iff_ne.mpr hp, Bool.false_eq_true,
    ↓reduceIte, takeWords_waits h hn hw hg]

/-- RGROW whose request has been granted while it waited. -/
theorem rgrow_granted {n : Nat} (hp : th.park = .granted) :
    exec (.rgrow n) s = .next (s.finish s (.frag cid t fn) {}) := by
  refine run_ok h.cur ?_
  simp only [M_bind, oneFrag_ok h h1, issue_ok h.turn hi, myTh_ok h.turn, hp, beq_self_eq_true, ↓reduceIte, done, M_pure]

theorem rshrink_next {n : Nat} (hn : n ≤ tm.reserve) :
    exec (.rshrink n) s = .next (s.finish ((s.modTeam cid t (fun x => { x with reserve := x.reserve - n })).modCrew cid
      (fun c => { c with held := kvPut 0 c.held t (kvGet 0 c.held t + n) })) (.frag cid t fn) {}) := by
  refine run_ok h.cur ?_
  simp only [M_bind, myFrag_ok h.cur, oneFrag_ok h h1, Nat.not_lt.mpr hn, ↓reduceIte, issue_ok h.turn hi, modTeam_ok h.cur,
    M_modify, done, M_pure]
end

/-- Settles O39: the words of a SCOPEO are in the reserve or are given at once; the other instructions follow from their checks. -/
theorem scopeInstructions : Obligations.ScopeInstructions := by
  unfold Obligations.ScopeInstructions
  intro s cid t fn c tm th h
  refine ⟨fun i n base h1 hi => scope_needs_one_fragment h h1 hi, fun h1 hi ho => ⟨?_, ?_, ?_, ?_, ?_, ?_⟩⟩
  · intro n base hn hb hl hm hwords hcur
    by_cases hr : n * tm.groups ≤ tm.reserve
    · refine ⟨s, fun _ => rfl, fun hc => absurd hr hc, scopeo_next h h1 hi ho hn hb hl hm rfl ?_⟩
      rw [Nat.sub_eq_zero_of_le hr]
      exact takeWords_zero h
    · obtain ⟨hw, hg⟩ := hwords.resolve_left hr
      refine ⟨_, fun hc => absurd hc hr, fun _ => rfl, scopeo_next h h1 hi ho hn hb hl hm (hcur hr) ?_⟩
      exact takeWords_granted h (by omega) hw hg
  · exact fun base n rest hs hrest => scopec_next h h1 hi ho hs hrest
  · exact fun n hn hp hw hg => rgrow_next h h1 hi hp (takeWords_granted h hn hw hg)
  · exact fun n hn hp hw hg => rgrow_waits h h1 hi hn hp hw hg
  · exact fun n hp => rgrow_granted h h1 hi hp
  · exact fun n hn => rshrink_next h h1 hi hn

end Sys2Proof.Machine.ExecModel
end

section
/-! PROOF. Entry into a handler (R42, R325): O15. -/

namespace Sys2Proof.Machine.ExecModel

/-! ### Bytes of a trap frame -/

@[simp] theorem leField_length (n v : Nat) : (leField n v).length = n := by simp [leField]

theorem leField_getD {n v k : Nat} (hk : k < n) : (leField n v).getD k 0 = BitVec.ofNat 8 (v / 256 ^ k) := by
  simp [leField, hk]

/-- A byte of a record behind its first field, and a byte of its first field. -/
theorem getD_skip (n v : Nat) (post : List Byte) (k : Nat) : (leField n v ++ post).getD (n + k) 0 = post.getD k 0 := by
  rw [List.getD_append_right _ _ _ _ (by simp), leField_length, Nat.add_sub_cancel_left]
theorem getD_field {n v k : Nat} (post : List Byte) (hk : k < n) :
    (leField n v ++ post).getD k 0 = BitVec.ofNat 8 (v / 256 ^ k) := by
  rw [List.getD_append _ _ _ _ (by simpa using hk), leField_getD hk]
theorem getD_byte (v : Nat) (post : List Byte) : (leField 1 v ++ post).getD 0 0 = BitVec.ofNat 8 v := by
  rw [getD_field post Nat.one_pos, Nat.pow_zero, Nat.div_one]

/-- What stands in a frame between its PC label and its mask (R325). -/
def frameMiddle (f : TrapFrame) : List Byte :=
  let sp : Span := f.armed.getD { vlo := 0, vn := 0, smask := 0 }
  leField 1 (match f.priv with | .user => 0 | .ctxSup => 1 | .devSup => 2) ++ leField 1 (if f.armed.isSome then 1 else 0) ++
    leField 2 0 ++ leField 8 f.info.toNat ++ leField 2 sp.vlo ++ leField 2 sp.vn ++ leField 4 0 ++ leField 8 sp.smask.toNat ++
    leField 4 (msummary f.mask).toNat ++ leField 4 0

theorem frameMiddle_length (f : TrapFrame) : (frameMiddle f).length = 36 := by simp [frameMiddle]

theorem frameBytes_eq (f : TrapFrame) : frameBytes f =
    leField 8 f.pc ++ (leField 1 f.slot ++ (leField 1 f.code ++ (leField 1 f.sub ++ (leField 1 f.plbl ++
      (frameMiddle f ++ (leField 128 f.mask.toNat ++ leField 80 0)))))) := by
  simp only [frameBytes, frameMiddle, List.append_assoc] <;> rfl

@[simp] theorem frameBytes_length (f : TrapFrame) : (frameBytes f).length = 256 := by
  simp [frameBytes_eq, frameMiddle_length]

theorem frameBytes_pc (f : TrapFrame) {k : Nat} (hk : k < 8) : (frameBytes f).getD k 0 = BitVec.ofNat 8 (f.pc / 256 ^ k) := by
  rw [frameBytes_eq, getD_field _ hk]
theorem frameBytes_slot (f : TrapFrame) : (frameBytes f).getD 8 0 = BitVec.ofNat 8 f.slot := by
  rw [frameBytes_eq, getD_skip 8 _ _ 0, getD_byte]
theorem frameBytes_code (f : TrapFrame) : (frameBytes f).getD 9 0 = BitVec.ofNat 8 f.code := by
  rw [frameBytes_eq, getD_skip 8 _ _ 1, getD_skip 1 _ _ 0, getD_byte]
theorem frameBytes_sub (f : TrapFrame) : (frameBytes f).getD 10 0 = BitVec.ofNat 8 f.sub := by
  rw [frameBytes_eq, getD_skip 8 _ _ 2, getD_skip 1 _ _ 1, getD_skip 1 _ _ 0, getD_byte]
theorem frameBytes_plbl (f : TrapFrame) : (frameBytes f).getD 11 0 = BitVec.ofNat 8 f.plbl := by
  rw [frameBytes_eq, getD_skip 8 _ _ 3, getD_skip 1 _ _ 2, getD_skip 1 _ _ 1, getD_skip 1 _ _ 0, getD_byte]
theorem frameBytes_mask (f : TrapFrame) {k : Nat} (hk : k < 128) :
    (frameBytes f).getD (0x30 + k) 0 = BitVec.ofNat 8 (f.mask.toNat / 256 ^ k) := by
  have h1 : 0x30 + k = 8 + (1 + (1 + (1 + (1 + (36 + k))))) := by omega
  rw [frameBytes_eq, h1, getD_skip, getD_skip, getD_skip, getD_skip, getD_skip,
    List.getD_append_right _ _ _ _ (by rw [frameMiddle_length]; omega), frameMiddle_length, Nat.add_sub_cancel_left,
    getD_field _ hk]

/-! ### What bytes read after they are written at home -/

/-- A byte that a list names, with one value wherever it names it, reads as that value. -/
theorem homeByte_setHomeBytes_mem {a : Nat} {b : Byte} (bs : List (Nat × Byte)) : ∀ s : State, (a, b) ∈ bs →
    (∀ e ∈ bs, e.1 = a → e.2 = b) → s.refused (lineOf a) = false → (s.setHomeBytes bs).homeByte a = b := by
  induction bs with
  | nil => exact fun _ hm => absurd hm List.not_mem_nil
  | cons e rest ih =>
    intro s hm hu hr
    rw [State.setHomeBytes]
    by_cases hrest : (a, b) ∈ rest
    · exact ih _ hrest (fun x hx => hu x (by simp [hx])) (by split <;> exact hr)
    · obtain rfl : (a, b) = e := (List.mem_cons.mp hm).resolve_right hrest
      rw [State.homeByte_setHomeBytes_ne _ _ _ (fun x hx ha => hrest ?_), hr, if_neg Bool.false_ne_true,
        State.homeByte_setHomeByte, if_pos rfl]
      rw [← ha, ← hu x (by simp [hx]) ha]
      exact hx

theorem mem_zipAddr {pa : Nat} {bs : List Byte} {e : Nat × Byte} :
    e ∈ zipAddr pa bs ↔ ∃ k, k < bs.length ∧ e = (pa + k, bs.getD k 0) := by
  simp only [zipAddr, List.mem_map, List.mem_range, eq_comm]

/-! ### The frame and the fault record together -/

/-- Everything that entry into a handler writes to a team's area (R325, R326). -/
def entryBytes (pa fn : Nat) (th : Thread) (x : Trap) : List (Nat × Byte) :=
  zipAddr pa (frameBytes (frameOf fn th x)) ++ recordBytes pa x

theorem mlanes_lt {m : Mask} {l : Nat} (h : l ∈ mlanes m) : l < 1024 := by
  simp only [mlanes, List.mem_flatMap, List.mem_filter, List.mem_range, List.mem_map] at h
  obtain ⟨g, ⟨hg, -⟩, j, ⟨hj, -⟩, rfl⟩ := h
  omega

/-- A pair of the entry's bytes is one of the frame, one of the faulting lanes, or one of a lane's address. -/
theorem entryBytes_cases {pa fn : Nat} {th : Thread} {x : Trap} {e : Nat × Byte} (h : e ∈ entryBytes pa fn th x) :
    (∃ k, k < 256 ∧ e = (pa + k, (frameBytes (frameOf fn th x)).getD k 0)) ∨
    (∃ k, k < 128 ∧ e = (pa + 0x100 + k, BitVec.ofNat 8 (x.lanes.toNat / 256 ^ k))) ∨
    (∃ k, k < 0x2000 ∧ e.1 = pa + 0x200 + k) := by
  simp only [entryBytes, recordBytes, List.mem_append, mem_zipAddr, frameBytes_length, leField_length, List.mem_flatMap] at h
  rcases h with ⟨k, hk, rfl⟩ | ⟨k, hk, rfl⟩ | ⟨l, hl, k, hk, rfl⟩
  · exact .inl ⟨k, hk, rfl⟩
  · exact .inr (.inl ⟨k, hk, by rw [leField_getD hk]⟩)
  · have := mlanes_lt hl
    exact .inr (.inr ⟨8 * l + k, by omega, by simp only; omega⟩)

section
variable {s : State} {pa fn : Nat} {th : Thread} {x : Trap}

theorem homeByte_entry_frame (hr : ∀ k, k < 0x2200 → s.refused (lineOf (pa + k)) = false) {k : Nat} (hk : k < 256) :
    (s.setHomeBytes (entryBytes pa fn th x)).homeByte (pa + k) = (frameBytes (frameOf fn th x)).getD k 0 := by
  refine homeByte_setHomeBytes_mem _ s (List.mem_append_left _ (mem_zipAddr.mpr ⟨k, by simpa using hk, rfl⟩)) ?_ (hr k (by omega))
  intro e he ha
  rcases entryBytes_cases he with ⟨j, hj, rfl⟩ | ⟨j, hj, rfl⟩ | ⟨j, hj, h1⟩
  · have hj : j = k := Nat.add_left_cancel ha
    rw [hj]
  · simp only at ha
    omega
  · omega

theorem homeByte_entry_lanes (hr : ∀ k, k < 0x2200 → s.refused (lineOf (pa + k)) = false) {k : Nat} (hk : k < 128) :
    (s.setHomeBytes (entryBytes pa fn th x)).homeByte (pa + 0x100 + k) = BitVec.ofNat 8 (x.lanes.toNat / 256 ^ k) := by
  have hm : (pa + 0x100 + k, BitVec.ofNat 8 (x.lanes.toNat / 256 ^ k)) ∈ entryBytes pa fn th x := by
    refine List.mem_append_right _ (List.mem_append_left _ (mem_zipAddr.mpr ⟨k, by simpa using hk, ?_⟩))
    rw [leField_getD hk]
  refine homeByte_setHomeBytes_mem _ s hm ?_ (by rw [Nat.add_assoc]; exact hr _ (by omega))
  intro e he ha
  rcases entryBytes_cases he with ⟨j, hj, rfl⟩ | ⟨j, hj, rfl⟩ | ⟨j, hj, h1⟩
  · simp only at ha
    omega
  · have hj : j = k := Nat.add_left_cancel ha
    rw [hj]
  · omega

theorem homeByte_entry_outside {a : Nat} (ha : a < pa ∨ pa + 0x2200 ≤ a) :
    (s.setHomeBytes (entryBytes pa fn th x)).homeByte a = s.homeByte a := by
  refine State.homeByte_setHomeBytes_ne _ _ _ fun e he h1 => ?_
  rcases entryBytes_cases he with ⟨j, hj, rfl⟩ | ⟨j, hj, rfl⟩ | ⟨j, hj, h2⟩
  · simp only at h1
    omega
  · simp only at h1
    omega
  · omega
end

/-! ### Entry -/

@[simp] theorem dropTurn_crews (s : State) (cid : Nat) : (s.dropTurn cid).crews = s.crews := by
  simp only [State.dropTurn]
  split
  · split <;> rfl
  · rfl

/-- The team's record in its handler: the frame that entry saves, and the fragment at the vector. -/
def handledTeam (tvec : Word) (fn : Nat) (th : Thread) (x : Trap) (tm : Team) : Team :=
  { tm with frame := some (frameOf fn th x), frags := kvModify tm.frags fn (fun th => handlerThread tvec th x) }

/-- The state that entry leaves: the frame and the fault record at home, and the team in its handler. -/
def handled (s : State) (cid t fn vf pa : Nat) (th : Thread) (x : Trap) : State :=
  ((s.writeHome vf (entryBytes pa fn th x)).modTeam cid t (handledTeam (s.ctx vf).tvec fn th x)).dropTurn cid

section
variable {s : State} {cid t fn : Nat} {c : Crew} {tm : Team} {th : Thread} (h : s.AtFrag cid t fn c tm th)
include h

theorem enterHandler_eq (x : Trap) {pa : Nat} (hc : c.copy = .solo) (hv : (s.ctx c.vf).tvec ≠ 0)
    (hp : s.poolAddr c.vf (teamArea (s.ctx c.vf) c.block t) = some pa) :
    s.enterHandler cid t fn x = handled s cid t fn c.vf pa th x := by
  simp only [State.enterHandler, h.crew, h.thread, hv, ↓reduceIte, hp, hc, beq_self_eq_true, handled, entryBytes]
  rfl

theorem enterHandler_abort (x : Trap) (hv : (s.ctx c.vf).tvec = 0) :
    s.enterHandler cid t fn x = s.abortCrew cid x.code (BitVec.ofNat 64 th.pc) := by
  simp only [State.enterHandler, h.crew, h.thread, hv, ↓reduceIte]

theorem team_handled (vf pa : Nat) (x : Trap) (k : Nat) : (handled s cid t fn vf pa th x).team? cid k =
    if k = t then some (handledTeam (s.ctx vf).tvec fn th x tm) else s.team? cid k := by
  have hw := (sameRun_writeHome s vf (entryBytes pa fn th x)).2.1
  rw [handled, State.team_congr (dropTurn_crews ..), State.team_modTeam, State.team_congr hw, State.team_congr hw, h.team]
  by_cases hk : k = t <;> simp [hk]

theorem handledTeam_self (tvec : Word) (x : Trap) :
    kvFind (handledTeam tvec fn th x tm).frags fn = some (handlerThread tvec th x) := by
  simp only [handledTeam, kvFind_kvModify_self, h.2.2.2, Option.map_some]
end

theorem handledTeam_other (tvec : Word) {fn k : Nat} (th : Thread) (x : Trap) (tm : Team) (hk : k ≠ fn) :
    kvFind (handledTeam tvec fn th x tm).frags k = kvFind tm.frags k := kvFind_kvModify_ne _ _ _ _ hk

theorem crews_handled (s : State) {cid k : Nat} (t fn vf pa : Nat) (th : Thread) (x : Trap) (hk : k ≠ cid) :
    kvFind (handled s cid t fn vf pa th x).crews k = kvFind s.crews k := by
  rw [handled, dropTurn_crews, State.modTeam, State.crew_modCrew, if_neg hk, (sameRun_writeHome ..).2.1]

theorem sameBytes_modTeam (s : State) (cid t : Nat) (f : Team → Team) : SameBytes s (s.modTeam cid t f) := ⟨rfl, rfl, rfl⟩

theorem homeByte_handled (s : State) (cid t fn vf pa : Nat) (th : Thread) (x : Trap) (a : Nat) :
    (handled s cid t fn vf pa th x).homeByte a = (s.setHomeBytes (entryBytes pa fn th x)).homeByte a := by
  have hw := sameBytes_writeHome s vf (entryBytes pa fn th x)
  exact (hw.trans ((sameBytes_modTeam _ cid t _).trans (sameBytes_dropTurn _ _))).homeByte a

section
variable {s : State} {pa : Nat} (hr : ∀ k, k < 0x2200 → s.refused (lineOf (pa + k)) = false)
include hr

theorem homeByte_handled_frame (cid t fn vf : Nat) (th : Thread) (x : Trap) {k : Nat} (hk : k < 256) :
    (handled s cid t fn vf pa th x).homeByte (pa + k) = (frameBytes (frameOf fn th x)).getD k 0 := by
  rw [homeByte_handled, homeByte_entry_frame hr hk]
end

theorem frameOf_fields (fn : Nat) (th : Thread) (x : Trap) : (frameOf fn th x).pc = th.pc ∧
    (frameOf fn th x).slot = (if x.header then 16 else th.slot) ∧ (frameOf fn th x).code = x.code ∧
    (frameOf fn th x).sub = x.sub ∧ (frameOf fn th x).plbl = th.pcl ∧ (frameOf fn th x).mask = th.exm :=
  ⟨rfl, rfl, rfl, rfl, rfl, rfl⟩

/-- Settles O15: entry is the write of the frame and the fault record, whose bytes are read off one by one, and a change of the
one team. -/
theorem handlerEntries : Obligations.HandlerEntries := by
  unfold Obligations.HandlerEntries
  refine ⟨?_, fun s cid t fn c tm th x h hv => enterHandler_abort h x hv⟩
  intro s cid t fn c tm th x pa h hc hv hp hr
  rw [enterHandler_eq h x hc hv hp]
  obtain ⟨hpc, hslot, hcode, hsub, hplbl, hmask⟩ := frameOf_fields fn th x
  have hbyte {k : Nat} (hk : k < 256) := homeByte_handled_frame hr cid t fn c.vf th x hk
  refine ⟨_, _, (team_handled h c.vf pa x t).trans (if_pos rfl), handledTeam_self h _ x, rfl, rfl, rfl, rfl, rfl, rfl, rfl, rfl,
    rfl, rfl, rfl, rfl, rfl, rfl, fun k hk => handledTeam_other _ th x tm hk,
    fun k hk => (team_handled h c.vf pa x k).trans (if_neg hk), fun k hk => crews_handled s t fn c.vf pa th x hk,
    ?_, ?_, ?_, ?_, ?_, ?_, ?_, ?_⟩
  · intro k hk
    rw [hbyte (by omega), frameBytes_pc _ hk, hpc]
  · rw [hbyte (by omega), frameBytes_slot, hslot]
  · rw [hbyte (by omega), frameBytes_code, hcode]
  · rw [hbyte (by omega), frameBytes_sub, hsub]
  · rw [hbyte (by omega), frameBytes_plbl, hplbl]
  · intro k hk
    rw [Nat.add_assoc, hbyte (by omega), frameBytes_mask _ hk, hmask]
  · intro k hk
    rw [homeByte_handled, homeByte_entry_lanes hr hk]
  · intro a ha
    rw [homeByte_handled, homeByte_entry_outside ha]

end Sys2Proof.Machine.ExecModel
end

section
namespace Sys2Proof.Machine.ExecModel

/-! ### A stash fill on a core whose crews are not listed in order -/

/-- A crew with a stash line wanted, whose scratchpad log is long and holds the line already. -/
def fillCrew : Crew :=
  { vf := 0, key := 0, index := 0, resident := true, padLog := List.range 1100, body := { pad := { wanted := [(3, 5)] } } }
/-- It is listed behind a crew of a higher number; the core's L1 holds one committed byte to write through. -/
def fillState : State :=
  { ctxs := [(0, { ptb := 0x10000 })], crews := [(2, { vf := 0, key := 0, index := 1 }), (1, fillCrew)]
    clusters := [(0, { l1s := [(0, { dirty := [(0x5000, 7)], writers := [(lineOf 0x5000, [2])] })] })] }

/-- The step leaves home memory without bytes. -/
def hbmStaysEmpty (o : Host.Outcome State Fault Refusal) : Bool :=
  match o with | .next u => u.hbm.isEmpty | _ => false

/-- Refutes O55, in the clause of a stash line's fill: the fill writes the crew's record back at the place of its number, so that a
list of crews that is not in order grows by one entry. The core then counts the crew's log lines twice, finds its L1 over 2048 lines
and writes the committed byte through, while the statement, which counts them before the fill, has home memory as it was. -/
theorem not_coreEvents : ¬ Obligations.CoreEvents := by
  unfold Obligations.CoreEvents
  intro h
  obtain ⟨hfill, -⟩ := h
  obtain ⟨-, hok⟩ := hfill 1 3 5 fillState fillCrew (by decide +kernel) (by decide +kernel) (by decide +kernel)
  obtain ⟨u, -, hu, hhbm, -⟩ := hok (by decide +kernel) (by decide +kernel) (by decide +kernel) (by decide +kernel)
    (by decide +kernel)
  have hwritten : hbmStaysEmpty (exec (.stashFill 1 3) fillState) = false := by decide +kernel
  rw [hu, hbmStaysEmpty, hhbm] at hwritten
  exact absurd hwritten (by decide +kernel)

end Sys2Proof.Machine.ExecModel
end

section
/-! PROOF. The dispatcher's events and the wave former (R24, R165 to R188): O57. -/

namespace Sys2Proof.Machine.ExecModel

/-! ### Casts of a context -/

theorem ctx_modCtx_self (s : State) (vf : Nat) (f : Context → Context) : (s.modCtx vf f).ctx vf = f (s.ctx vf) := by
  rw [State.ctx_modCtx, if_pos rfl]

theorem cast_modCtx (s : State) (vf key : Nat) (f : Context → Context) :
    (s.modCtx vf f).cast? vf key = kvFind (f (s.ctx vf)).casts key := by
  rw [State.cast?, ctx_modCtx_self]

theorem cast_modCast (s : State) (vf key : Nat) (f : Cast → Cast) :
    (s.modCast vf key f).cast? vf key = (s.cast? vf key).map f := by
  rw [State.modCast, cast_modCtx, kvFind_kvModify_self, State.cast?]

theorem cast_modCast_some {s : State} {vf key : Nat} {k : Cast} (h : s.cast? vf key = some k) (f : Cast → Cast) :
    (s.modCast vf key f).cast? vf key = some (f k) := by
  rw [cast_modCast, h, Option.map_some]

theorem ctx_congr {s t : State} (h : t.ctxs = s.ctxs) (vf : Nat) : t.ctx vf = s.ctx vf := by
  rw [State.ctx, State.ctx, h]

theorem cast_congr {s t : State} (h : t.ctxs = s.ctxs) (vf key : Nat) : t.cast? vf key = s.cast? vf key := by
  rw [State.cast?, State.cast?, ctx_congr h]

/-- The recorder leaves the casts and the memory as they were. -/
theorem recordCast_keeps (s : State) (vf key kind : Nat) (payload : List Byte) :
    (∀ key', (s.recordCast vf key kind payload).cast? vf key' = s.cast? vf key') ∧
      (s.recordCast vf key kind payload).hbm = s.hbm := by
  unfold State.recordCast
  split
  · split
    · exact ⟨fun _ => rfl, rfl⟩
    · exact ⟨fun key' => by rw [cast_modCtx]; rfl, rfl⟩
  · exact ⟨fun _ => rfl, rfl⟩

/-! ### What events outside the cores leave unchanged -/

/-- What every step of a fold leaves unchanged, the fold does. -/
theorem foldl_keeps {α β : Type} (p : State → β) (f : State → α → State) (hf : ∀ s x, p (f s x) = p s) (l : List α) :
    ∀ s, p (l.foldl f s) = p s := by
  induction l with
  | nil => exact fun _ => rfl
  | cons x xs ih => exact fun s => (ih _).trans (hf s x)

theorem ite_keeps {β : Type} (p : State → β) {c : Prop} [Decidable c] {s t u : State} (ht : p t = p s) (hu : p u = p s) :
    p (if c then t else u) = p s := by
  split <;> assumption

theorem slicesOnly_ctxs {s t : State} (h : SlicesOnly s t) : t.ctxs = s.ctxs ∧ t.crews = s.crews ∧ t.tick = s.tick ∧
    t.notices = s.notices := by
  obtain ⟨_, _, _, _, rfl⟩ := h
  exact ⟨rfl, rfl, rfl, rfl⟩

theorem tell_keeps (s : State) (vf line : Nat) : (s.tell vf line).ctxs = s.ctxs ∧ (s.tell vf line).crews = s.crews ∧
    (s.tell vf line).tick = s.tick := by
  unfold State.tell
  split <;> exact ⟨rfl, rfl, rfl⟩

theorem spoil_ctxs (s : State) (lines : List Nat) : (s.spoil lines).ctxs = s.ctxs := ite_keeps State.ctxs rfl rfl

theorem dropOrigin_ctxs (s : State) (bs : List (Nat × Byte)) : (s.dropOrigin bs).ctxs = s.ctxs := ite_keeps State.ctxs rfl rfl

theorem dropStash_ctxs (s : State) (keep : List Nat) (line : Nat) : (s.dropStash keep line).ctxs = s.ctxs :=
  foldl_keeps State.ctxs (fun t k => t.dropStashOf line k) (fun _ _ => rfl) _ s

theorem performFor_ctxs (s : State) (vfs keep : List Nat) (bs : List (Nat × Byte)) (ms : Bool) :
    (s.performFor vfs keep bs ms).ctxs = s.ctxs := by
  have hslice : ∀ (t : State) (v l : Nat), ((if ms then t.meterLine v l else t.markDirty v l).tell v l).ctxs = t.ctxs := by
    intro t v l
    rw [(tell_keeps ..).1]
    exact ite_keeps State.ctxs (slicesOnly_ctxs (slicesOnly_meterLine ..)).1 (slicesOnly_ctxs (slicesOnly_markDirty ..)).1
  have hline : ∀ (t : State) (l : Nat), ((vfs.foldl (fun t v =>
      (if ms then t.meterLine v l else t.markDirty v l).tell v l) t).dropStash keep l).ctxs = t.ctxs := by
    intro t l
    rw [dropStash_ctxs]
    exact foldl_keeps State.ctxs _ (fun u v => hslice u v l) vfs t
  rw [State.performFor, dropOrigin_ctxs, foldl_keeps State.ctxs, foldl_keeps State.ctxs _ hline, spoil_ctxs,
    (setHomeBytes_frame bs s).2.1]
  exact fun t l => ite_keeps State.ctxs (t := t.unpoison l) rfl rfl

/-- A store that forces no commit point leaves every context as it was. -/
theorem perform_ctxs (s : State) (vf : Nat) (bs : List (Nat × Byte)) (ms : Bool) (h : ∀ l, s.stashHolders [] l = []) :
    (s.perform vf bs ms).ctxs = s.ctxs := by
  have hforce : ∀ l, s.forceHolders s.chain [] l = s := fun l => by simp only [State.chain, State.forceHolders, h l, List.foldl_nil]
  have hfold : ∀ ls : List Nat, ls.foldl (fun s l => s.forceHolders s.chain [] l) s = s := by
    intro ls
    induction ls with
    | nil => rfl
    | cons l ls ih => rw [List.foldl_cons, hforce l, ih]
  rw [State.perform, hfold, performFor_ctxs]

theorem writeHome_ctxs (s : State) (vf : Nat) (bs : List (Nat × Byte)) : (s.writeHome vf bs).ctxs = s.ctxs := by
  rw [State.writeHome, foldl_keeps State.ctxs _ (fun t l => (slicesOnly_ctxs (slicesOnly_markDirty t vf l)).1),
    (setHomeBytes_frame bs s).2.1]

theorem setAD_ctxs (s : State) (vf pte : Nat) (w : Bool) : (s.setAD vf pte w).ctxs = s.ctxs := by
  simp only [State.setAD]
  generalize s.home64 pte ||| (if w then 0x60 else 0x20) = e
  split
  · rfl
  · rw [writeHome_ctxs]

theorem copies_congr {s t : State} (h : t.crews = s.crews) (cid : Nat) : t.copies cid = s.copies cid := by
  rw [State.copies, State.copies, h]

theorem stashHolders_congr {s t : State} (h : t.crews = s.crews) (but : List Nat) (line : Nat) :
    t.stashHolders but line = s.stashHolders but line := by
  have hc : t.copies = s.copies := funext (copies_congr h)
  rw [State.stashHolders, State.stashHolders, h, hc]

/-- What is written at home depends on the bytes that stood there, on the pages of crews' records and on the time alone. -/
theorem hbm_setHomeBytes_congr (bs : List (Nat × Byte)) : ∀ {s t : State}, SameBytes s t → t.tick = s.tick →
    (t.setHomeBytes bs).hbm = (s.setHomeBytes bs).hbm := by
  induction bs with
  | nil => exact fun h _ => h.1
  | cons e rest ih =>
    intro s t h ht
    have hr : t.refused (lineOf e.1) = s.refused (lineOf e.1) := by rw [State.refused, State.refused, ht]
    rw [State.setHomeBytes, State.setHomeBytes, hr]
    split
    · exact ih h ht
    · obtain ⟨h1, h2, h3⟩ := h
      refine ih ⟨?_, ?_, ?_⟩ ht
      · rw [State.setHomeByte, State.setHomeByte, h1, h2]
      · exact h2
      · rw [State.setHomeByte, State.setHomeByte, h2, h3]

/-- What the dispatcher's reads leave unchanged. -/
theorem devTouch_keeps (s : State) (vf : Nat) (lines : List Nat) : SameBytes s (s.devTouch vf lines) ∧
    (s.devTouch vf lines).ctxs = s.ctxs ∧ (s.devTouch vf lines).crews = s.crews ∧ (s.devTouch vf lines).tick = s.tick := by
  have hstep : ∀ (t : State) (l : Nat), SlicesOnly t (if (kvFind t.l2 l).isSome then t else t.meterLine vf l) := fun t l =>
    SlicesOnly.ite _ (SlicesOnly.refl t) (slicesOnly_meterLine ..)
  refine ⟨SameBytes.foldl _ (fun t l => (hstep t l).sameBytes.trans (sameBytes_tell ..)) _ s,
    foldl_keeps State.ctxs _ (fun t l => ?_) _ s, foldl_keeps State.crews _ (fun t l => ?_) _ s,
    foldl_keeps State.tick _ (fun t l => ?_) _ s⟩
  · rw [(tell_keeps ..).1, (slicesOnly_ctxs (hstep t l)).1]
  · rw [(tell_keeps ..).2.1, (slicesOnly_ctxs (hstep t l)).2.1]
  · rw [(tell_keeps ..).2.2, (slicesOnly_ctxs (hstep t l)).2.2.1]

/-! ### Promotion without release notices -/

theorem promoteAt_none {s : State} (h : s.notices = []) (line : Nat) : s.promoteAt line = (true, s) := by
  simp [State.promoteAt, State.promoteNotices, State.commitOthers, h]

theorem promoteLines_none {s : State} (h : s.notices = []) (lines : List Nat) : s.promoteLines lines = (true, s) := by
  induction lines with
  | nil => rfl
  | cons l ls ih => simp only [State.promoteLines, promoteAt_none h, ih]

end Sys2Proof.Machine.ExecModel
end

section
/-! PROOF. The events of a cast's life in the dispatcher (R174 to R188): the parts of O57. -/

namespace Sys2Proof.Machine.ExecModel

/-! ### Wait words (R179) -/

/-- One of a cast's wait words has been seen to reach its target. -/
def reach (i : Nat) (k : Cast) : Cast := { k with reached := k.reached.set i true }

/-- What a waiting cast does about one of its wait words. -/
def waitStep (vf key : Nat) (s : State) (i : Nat) : State :=
  match s.cast? vf key with
  | none => s
  | some k =>
    if k.st != .waiting || k.reached.getD i false then s
    else match s.readWait vf key (k.launch.waits.getD i (0, 0)) with
      | (true, s1) => s1.modCast vf key (reach i)
      | (false, s1) => s1

/-- A cast that waits for nothing any more starts. -/
def startCast (cyc : Nat) (k : Cast) : Cast :=
  if k.st == .waiting && k.reached.all id then { k with st := .gated, started := cyc } else k

theorem readWaits_eq (s : State) (vf key : Nat) :
    s.readWaits vf key = ((List.range 4).foldl (waitStep vf key) s).modCast vf key (startCast s.cyc) := rfl

section
variable {s : State} {vf key i : Nat} {k : Cast} (h : s.cast? vf key = some k)
include h

theorem waitStep_reached (hr : k.reached.getD i false = true) : waitStep vf key s i = s := by
  simp only [waitStep, h, hr, Bool.or_true, ↓reduceIte]

theorem waitStep_of_read {b : Bool} {s1 : State} (hw : k.st = .waiting) (hr : k.reached.getD i false = false)
    (hread : s.readWait vf key (k.launch.waits.getD i (0, 0)) = (b, s1)) :
    waitStep vf key s i = if b then s1.modCast vf key (reach i) else s1 := by
  have hgo : (k.st != .waiting || k.reached.getD i false) = false := by rw [hw, hr]; rfl
  unfold waitStep
  rw [h]
  dsimp only
  rw [hgo, hread]
  cases b <;> rfl
end

theorem readWait_null (s : State) (vf key : Nat) {w : Nat × Word} (h0 : w.1 = 0) : s.readWait vf key w = (true, s) := by
  unfold State.readWait
  exact if_pos h0

/-- A wait word whose address leads home, and whose line carries no release notice, has been seen to reach its target or not. -/
theorem readWait_at {s : State} {vf pa p : Nat} {e : Word} (key : Nat) {w : Nat × Word} (hn : s.notices = []) (h0 : w.1 ≠ 0)
    (ha : s.devAddr vf (0, 0) w.1 8 = .ok (pa, p, e)) :
    s.readWait vf key w = (decide (w.2.toNat ≤ (s.home64 pa).toNat), s) := by
  rw [State.readWait, if_neg h0]
  generalize hr : s.devAddr vf (0, 0) w.1 8 = r at ha ⊢
  subst ha
  beta_reduce
  generalize s.devAddr vf (0, 0) w.1 8 = r at hr ⊢
  subst hr
  dsimp only
  rw [promoteAt_none hn]

/-- A cast of four wait words, of which those below n are seen reached and the others lead nowhere. -/
def nullFrom (n : Nat) (k : Cast) : Prop := k.st = .waiting ∧ k.reached.length = 4 ∧
  (∀ i, i < n → i < 4 → k.reached.getD i false = true) ∧
  ∀ i, i < 4 → k.reached.getD i false = true ∨ (k.launch.waits.getD i (0, 0)).1 = 0

theorem reach_getD {k : Cast} (n : Nat) {i : Nat} (hi : i < k.reached.length) :
    (reach n k).reached.getD i false = if i = n then true else k.reached.getD i false := by
  simp only [reach, List.getD_eq_getElem?_getD, List.getElem?_set]
  by_cases hin : n = i
  · subst hin
    simp [hi]
  · simp [hin, Ne.symm hin]

theorem reach_length (n : Nat) (k : Cast) : (reach n k).reached.length = k.reached.length := by simp [reach]

theorem nullFrom_reach {n : Nat} {k : Cast} (h : nullFrom n k) :
    nullFrom (n + 1) (reach n k) := by
  obtain ⟨hw, hl, hlow, hall⟩ := h
  have hget := fun i hi4 => reach_getD (k := k) n (i := i) (hl.symm ▸ hi4)
  refine ⟨hw, (reach_length n k).trans hl, fun i hi hi4 => ?_, fun i hi4 => ?_⟩
  · rw [hget i hi4]
    split
    · rfl
    · exact hlow i (by omega) hi4
  · simp only [hget i hi4]
    split
    · exact .inl rfl
    · exact hall i hi4

/-- A cast whose unreached wait words all lead nowhere passes them one after the other. -/
theorem waitSteps_null {s : State} {vf key : Nat} {k : Cast} (h : s.cast? vf key = some k) (hk : nullFrom 0 k) :
    ∀ n, n ≤ 4 → ∃ k', ((List.range n).foldl (waitStep vf key) s).cast? vf key = some k' ∧ nullFrom n k' ∧
      k'.launch = k.launch := by
  intro n
  induction n with
  | zero => exact fun _ => ⟨k, h, hk, rfl⟩
  | succ n ih =>
    intro hn
    obtain ⟨k', hc, hk', hl⟩ := ih (by omega)
    rw [List.range_succ, List.foldl_append, List.foldl_cons, List.foldl_nil]
    obtain ⟨hw, hlen, hlow, hall⟩ := id hk'
    cases hr : k'.reached.getD n false with
    | true =>
      rw [waitStep_reached hc hr]
      refine ⟨k', hc, ⟨hw, hlen, fun i hi hi4 => ?_, hall⟩, hl⟩
      obtain rfl | hlt : i = n ∨ i < n := by omega
      · exact hr
      · exact hlow i hlt hi4
    | false =>
      have h0 := (hall n (by omega)).resolve_left (by rw [hr]; exact Bool.false_ne_true)
      rw [waitStep_of_read hc hw hr (readWait_null _ vf key h0), if_pos rfl]
      exact ⟨_, cast_modCast_some hc _, nullFrom_reach hk', hl⟩

theorem all_reached {l : List Bool} (hl : l.length = 4) (h : ∀ i, i < 4 → l.getD i false = true) : l.all id = true := by
  rw [List.all_eq_true]
  intro b hb
  obtain ⟨i, hi, rfl⟩ := List.mem_iff_getElem.mp hb
  have := h i (by omega)
  rwa [List.getD_eq_getElem _ _ hi] at this

theorem startCast_reached {k : Cast} (cyc : Nat) (hw : k.st = .waiting) (hr : k.reached.all id = true) :
    startCast cyc k = { k with st := .gated, started := cyc } := by
  rw [startCast, hw, hr]
  rfl

theorem startCast_missing {k : Cast} (cyc : Nat) (hr : k.reached.all id = false) : startCast cyc k = k := by
  rw [startCast, hr, Bool.and_false]
  rfl

/-- A cast without a wait word left starts. -/
theorem waitWordRead_starts {s : State} {vf key : Nat} {k : Cast} (h : s.cast? vf key = some k) (hk : nullFrom 0 k) :
    ∃ u k', exec (.waitWordRead vf key) s = .next u ∧ u.cast? vf key = some k' ∧ k'.st = .gated ∧ k'.started = s.cyc ∧
      k'.launch = k.launch := by
  obtain ⟨k', hc, ⟨hw, hlen, hlow, -⟩, hl⟩ := waitSteps_null h hk 4 le_rfl
  refine ⟨s.readWaits vf key, startCast s.cyc k', rfl, ?_, ?_⟩
  · rw [readWaits_eq, cast_modCast_some hc]
  · rw [startCast_reached _ hw (all_reached hlen fun i hi => hlow i hi hi)]
    exact ⟨rfl, rfl, hl⟩

/-- A cast whose first wait word is left reads it, and starts where it has reached its target. -/
theorem waitWordRead_reads {s : State} {vf key : Nat} {k : Cast} (h : s.cast? vf key = some k) (hw : k.st = .waiting)
    (hlen : k.reached.length = 4) {va pa p : Nat} {tgt e : Word} (hn : s.notices = []) (hr : k.reached.getD 0 false = false)
    (hword : k.launch.waits.getD 0 (0, 0) = (va, tgt)) (h0 : va ≠ 0)
    (hothers : ∀ i, 0 < i → i < 4 → k.reached.getD i false = true) (ha : s.devAddr vf (0, 0) va 8 = .ok (pa, p, e)) :
    ∃ u k', exec (.waitWordRead vf key) s = .next u ∧ u.cast? vf key = some k' ∧
      k'.st = (if tgt.toNat ≤ (s.home64 pa).toNat then .gated else .waiting) := by
  have hread : s.readWait vf key (k.launch.waits.getD 0 (0, 0)) = (decide (tgt.toNat ≤ (s.home64 pa).toNat), s) := by
    rw [hword]
    exact readWait_at key hn h0 ha
  have hskip : ∀ (t : State) (j : Cast), t.cast? vf key = some j → (∀ i, 0 < i → i < 4 → j.reached.getD i false = true) →
      [1, 2, 3].foldl (waitStep vf key) t = t := by
    intro t j hc hj
    simp only [List.foldl_cons, List.foldl_nil, waitStep_reached hc (hj 1 (by omega) (by omega)),
      waitStep_reached hc (hj 2 (by omega) (by omega)), waitStep_reached hc (hj 3 (by omega) (by omega))]
  have hfold : (List.range 4).foldl (waitStep vf key) s = [1, 2, 3].foldl (waitStep vf key) (waitStep vf key s 0) := rfl
  have hstep := waitStep_of_read h hw hr hread
  by_cases ht : tgt.toNat ≤ (s.home64 pa).toNat
  · rw [decide_eq_true ht, if_pos rfl] at hstep
    have hget : ∀ i, i < 4 → (reach 0 k).reached.getD i false = true := by
      intro i hi
      rw [reach_getD 0 (hlen.symm ▸ hi)]
      split
      · rfl
      · exact hothers i (by omega) hi
    have hc : (waitStep vf key s 0).cast? vf key = some (reach 0 k) := by rw [hstep, cast_modCast_some h]
    refine ⟨s.readWaits vf key, startCast s.cyc (reach 0 k), rfl, ?_, ?_⟩
    · rw [readWaits_eq, hfold, hskip _ _ hc fun i _ hi => hget i hi, cast_modCast_some hc]
    · rw [if_pos ht, startCast_reached (k := reach 0 k) _ hw (all_reached ((reach_length 0 k).trans hlen) hget)]
  · rw [decide_eq_false ht, if_neg Bool.false_ne_true] at hstep
    have hmiss : k.reached.all id = false := by
      refine Bool.eq_false_iff.mpr fun hall => ?_
      rw [List.all_eq_true] at hall
      have hmem : k.reached.getD 0 false ∈ k.reached := by
        rw [List.getD_eq_getElem _ _ (by omega)]
        exact List.getElem_mem _
      exact Bool.false_ne_true (hr.symm.trans (hall _ hmem))
    refine ⟨s.readWaits vf key, k, rfl, ?_, ?_⟩
    · rw [readWaits_eq, hfold, hstep, hskip s k h hothers, cast_modCast_some h, startCast_missing _ hmiss]
    · rw [if_neg ht, hw]

end Sys2Proof.Machine.ExecModel
end

section
/-! PROOF. Packets (R174 to R177, R302): the first part of O57. -/

namespace Sys2Proof.Machine.ExecModel

/-! ### Packets -/

/-- The dispatcher has read a packet with its record, and HEAD has advanced. -/
def fetched (s : State) (vf q dpa head : Nat) (lines : List Nat) : State :=
  ((s.devTouch vf lines).perform vf (numBytes (dpa + 0x18) 8 (head + 1)) true).modCtx vf (fun c =>
    { c with rr := q, pktAuth := kvDel c.pktAuth (2 ^ 40 * q + head) })

/-- What becomes of a packet: its cast is refused with a cause, or enters. -/
def settlePacket (u : State) (vf q dpa va seq rcount : Nat) (rec_ : Option Nat) (who : Option (BitVec 64 × Lbl)) : State :=
  match u.refusal vf va rec_ who with
  | some cause => u.perform vf (numBytes (dpa + 0x20) 8 seq ++ numBytes (dpa + 0x28) 4 cause ++
      numBytes (dpa + 0x2C) 4 (min (2 ^ 32 - 1) (rcount + 1))) true
  | none => (u.enterCast vf q seq va (rec_.getD 0)).readWaits vf (u.ctx vf).nextKey

theorem hbm_fetched {s : State} (vf q dpa head : Nat) (lines : List Nat) (hst : ∀ k, s.stashHolders [] k = []) :
    (fetched s vf q dpa head lines).hbm = (s.setHomeBytes (numBytes (dpa + 0x18) 8 (head + 1))).hbm := by
  obtain ⟨hbytes, -, hcrews, htick⟩ := devTouch_keeps s vf lines
  have hst' : ∀ k, (s.devTouch vf lines).stashHolders [] k = [] := fun k => (stashHolders_congr hcrews [] k).trans (hst k)
  rw [fetched, State.modCtx_hbm, (sameBytes_perform _ vf _ true fun e _ => hst' _).1, hbm_setHomeBytes_congr _ hbytes htick]

/-- The lines of a packet and of the record that it names. -/
def packetLines (s : State) (vf slot va : Nat) : List Nat :=
  s.devLines vf slot 16 ++ (List.range 4).flatMap (fun k => s.devLines vf (va + 128 * k) 128)

theorem execDispatchPacket_eq {s : State} {vf q dpa p : Nat} {d : QDesc} (hq : s.nextQueue vf = some q)
    (hroom : (s.ctx vf).casts.length < 64) (hs : s.served vf q = some (dpa, d)) (hn : s.notices = [])
    (hst : s.storable (lineOf dpa) = true) (hp : s.devNat vf (d.slot d.head) 16 = some p) :
    exec (.dispatchPacket vf q) s = .next (settlePacket (fetched s vf q dpa d.head (packetLines s vf (d.slot d.head) (p % 2 ^ 64)))
      vf q dpa (p % 2 ^ 64) (p / 2 ^ 64) d.rcount (s.devNat vf (p % 2 ^ 64) 512)
      (kvFind (s.ctx vf).pktAuth (2 ^ 40 * q + d.head))) := by
  have hgo : ¬ ((s.nextQueue vf != some q || decide (64 ≤ (s.ctx vf).casts.length)) = true) := by
    simp [hq, hroom]
  have hstay : ¬ ((!s.storable (lineOf dpa)) = true) := by simp [hst]
  have hpl := promoteLines_none hn
  change execDispatchPacket vf q s = _
  rw [settlePacket, packetLines, fetched]
  unfold execDispatchPacket
  rw [if_neg hgo, hs]
  obtain ⟨refusal, hrefusal⟩ : ∃ f, f = State.refusal := ⟨_, rfl⟩
  obtain ⟨devNat, hnat⟩ : ∃ f, f = State.devNat := ⟨_, rfl⟩
  obtain ⟨promote, hpromote⟩ : ∃ f, f = State.promoteLines := ⟨_, rfl⟩
  rw [← hrefusal, ← hpromote, ← hnat]
  rw [← hpromote] at hpl
  rw [← hnat] at hp
  clear hpromote hrefusal hnat
  dsimp only
  rw [if_neg hstay, hpl, hp]
  rfl

/-- The cast that an accepted packet enters. -/
theorem enterCast_cast (u : State) (vf q seq va v : Nat) : ∃ k, (u.enterCast vf q seq va v).cast? vf (u.ctx vf).nextKey = some k ∧
    k.st = .waiting ∧ k.queue = q ∧ k.seq = seq ∧ k.record = BitVec.ofNat 64 va ∧ k.launch = launchOf v ∧ k.next = 0 ∧
    k.retired = 0 := by
  unfold State.enterCast
  dsimp only
  rw [(recordCast_keeps ..).1, cast_modCtx]
  exact ⟨_, kvFind_kvSet_self .., rfl, rfl, rfl, rfl, rfl, rfl, rfl⟩

theorem enterCast_hbm (u : State) (vf q seq va v : Nat) : (u.enterCast vf q seq va v).hbm = u.hbm := by
  unfold State.enterCast
  dsimp only
  rw [(recordCast_keeps ..).2, State.modCtx_hbm]

/-- A packet whose record cannot be read is refused. -/
theorem refusal_unread (u : State) (vf va : Nat) (who : Option (BitVec 64 × Lbl)) : u.refusal vf va none who = some 1 := rfl

section
variable {s u : State} {vf q dpa p : Nat} {d : QDesc} (hq : s.nextQueue vf = some q) (hroom : (s.ctx vf).casts.length < 64)
  (hs : s.served vf q = some (dpa, d)) (hn : s.notices = []) (hst : s.storable (lineOf dpa) = true)
  (hp : s.devNat vf (d.slot d.head) 16 = some p)
  (hu : u = fetched s vf q dpa d.head (packetLines s vf (d.slot d.head) (p % 2 ^ 64)))
include hq hroom hs hn hst hp hu

theorem dispatchPacket_refuses {cause : Nat} (hc : u.refusal vf (p % 2 ^ 64) (s.devNat vf (p % 2 ^ 64) 512)
    (kvFind (s.ctx vf).pktAuth (2 ^ 40 * q + d.head)) = some cause) :
    exec (.dispatchPacket vf q) s = .next (u.perform vf (numBytes (dpa + 0x20) 8 (p / 2 ^ 64) ++ numBytes (dpa + 0x28) 4 cause ++
      numBytes (dpa + 0x2C) 4 (min (2 ^ 32 - 1) (d.rcount + 1))) true) := by
  rw [execDispatchPacket_eq hq hroom hs hn hst hp, ← hu, settlePacket]
  generalize u.refusal vf _ _ _ = r at hc ⊢
  rw [hc]

theorem dispatchPacket_enters (hc : u.refusal vf (p % 2 ^ 64) (s.devNat vf (p % 2 ^ 64) 512)
    (kvFind (s.ctx vf).pktAuth (2 ^ 40 * q + d.head)) = none) :
    ∃ v, s.devNat vf (p % 2 ^ 64) 512 = some v ∧ exec (.dispatchPacket vf q) s =
      .next ((u.enterCast vf q (p / 2 ^ 64) (p % 2 ^ 64) v).readWaits vf (u.ctx vf).nextKey) := by
  rw [execDispatchPacket_eq hq hroom hs hn hst hp, ← hu]
  cases hv : s.devNat vf (p % 2 ^ 64) 512 with
  | none =>
    rw [hv, refusal_unread] at hc
    cases hc
  | some v =>
    rw [hv] at hc
    refine ⟨v, rfl, ?_⟩
    rw [settlePacket, hc, Option.getD_some]
end

end Sys2Proof.Machine.ExecModel
end

section
/-! PROOF. Periods, placements, completion and waves (R24, R165 to R170, R180 to R188): the other parts of O57. -/

namespace Sys2Proof.Machine.ExecModel

/-! ### Priority periods (R180) -/

theorem cast_newPeriod {s : State} {vf key : Nat} {k : Cast} (h : s.cast? vf key = some k) (start : Nat) :
    (s.newPeriod vf key start).cast? vf key = some { k with period := start, others := false, held := s.unplaced vf key k } :=
  cast_modCast_some h _

section
variable {s : State} {vf key : Nat} {k : Cast} (h : s.cast? vf key = some k)
include h

theorem endPeriod_due (hst : k.st = .dispatching ∨ k.st = .draining) (hr : s.running vf = true)
    (hdue : k.period + 2 ^ 20 ≤ s.cyc) :
    (s.endPeriod vf key).cast? vf key = some { k with
      raise := if k.others && k.held then k.raise + 1 else k.raise, others := false, period := k.period + 2 ^ 20
      held := s.unplaced vf key k } := by
  have hgo : ((k.st == .dispatching || k.st == .draining) && s.running vf && decide (k.period + 2 ^ 20 ≤ s.cyc)) = true := by
    rw [hr, decide_eq_true hdue]
    rcases hst with hst | hst <;> rw [hst] <;> rfl
  simp only [State.endPeriod, h]
  rw [if_pos hgo, cast_newPeriod (cast_modCast_some h _)]
  rfl

theorem endPeriod_early (hlate : s.cyc < k.period + 2 ^ 20) : s.endPeriod vf key = s := by
  have hgo : ((k.st == .dispatching || k.st == .draining) && s.running vf && decide (k.period + 2 ^ 20 ≤ s.cyc)) = false := by
    rw [decide_eq_false (Nat.not_le.mpr hlate), Bool.and_false]
  simp only [State.endPeriod, h]
  rw [if_neg (by rw [hgo]; exact Bool.false_ne_true)]
end

/-! ### The end of a cast (R24) -/

theorem cancelOps_ctxs (s : State) (cid : Nat) : (s.cancelOps cid).ctxs = s.ctxs := by
  unfold State.cancelOps
  split <;> rfl

theorem dropTurn_ctxs (s : State) (cid : Nat) : (s.dropTurn cid).ctxs = s.ctxs := by
  simp only [State.dropTurn]
  split
  · split <;> rfl
  · rfl

theorem removeCrew_ctxs (s : State) (cid : Nat) : (s.removeCrew cid).ctxs = s.ctxs := by
  unfold State.removeCrew
  split
  · rfl
  · exact (dropTurn_ctxs ..).trans (cancelOps_ctxs ..)

theorem removeCrews_ctxs (s : State) (cs : List Nat) : (cs.foldl State.removeCrew s).ctxs = s.ctxs :=
  foldl_keeps State.ctxs _ removeCrew_ctxs cs s

/-- A cast leaves its context's table, and with the last crew of the context what a supervisor core did for it. -/
def unlisted (s : State) (vf key : Nat) : State :=
  (if s.crews.any (fun e => e.2.vf == vf) then s else s.endEscalation vf).modCtx vf (fun c => { c with casts := kvDel c.casts key })

theorem endCast_none (s : State) (vf key : Nat) :
    s.endCast vf key none = unlisted ((s.castCrews vf key).foldl State.removeCrew s) vf key := by
  unfold State.endCast
  cases s.cast? vf key <;> rfl

theorem endCast_some {s : State} {vf key : Nat} {k : Cast} (h : s.cast? vf key = some k) (code kind : Nat) (detail : Word) :
    s.endCast vf key (some (code, kind, detail)) = unlisted (((s.castCrews vf key).foldl State.removeCrew s).logAbort vf
      { record := k.record, seq := k.seq, queue := k.queue, code := code, kind := kind, detail := detail }) vf key := by
  unfold State.endCast
  rw [h]
  rfl

theorem endCast_cast (s : State) (vf key : Nat) (e : Option (Nat × Nat × Word)) : (s.endCast vf key e).cast? vf key = none := by
  unfold State.endCast
  dsimp only
  rw [cast_modCtx, kvFind_kvDel, if_pos rfl]

theorem unlisted_aborts (s : State) (vf key : Nat) : ((unlisted s vf key).ctx vf).aborts = (s.ctx vf).aborts := by
  rw [unlisted, ctx_modCtx_self]
  dsimp only
  rw [ctx_congr (s := s)]
  exact ite_keeps State.ctxs rfl rfl

/-- A cast that ends without a report leaves the abort log as it was. -/
theorem endCast_aborts (s : State) (vf key : Nat) : ((s.endCast vf key none).ctx vf).aborts = (s.ctx vf).aborts := by
  rw [endCast_none, unlisted_aborts, ctx_congr (removeCrews_ctxs ..)]

/-- The abort log drops its oldest entries and keeps the newest. -/
theorem logAbort_last (s : State) (vf : Nat) (e : AbortEntry) : ((s.logAbort vf e).ctx vf).aborts.getLast? = some e := by
  rw [State.logAbort, ctx_modCtx_self]
  dsimp only
  rw [List.getLast?_drop, if_neg (by simp only [List.length_append, List.length_singleton]; omega), List.getLast?_concat]

/-- A cast that ends with a report stands last in the abort log. -/
theorem endCast_reports {s : State} {vf key : Nat} {k : Cast} (h : s.cast? vf key = some k) (code kind : Nat) (detail : Word) :
    ((s.endCast vf key (some (code, kind, detail))).ctx vf).aborts.getLast? =
      some { record := k.record, seq := k.seq, queue := k.queue, code := code, kind := kind, detail := detail } := by
  rw [endCast_some h, unlisted_aborts, logAbort_last]

/-- The completion word is written where its address leads, and the cast ends, with a report where the word cannot be written. -/
def releaseWord (s : State) (vf key done : Nat) : Except (Nat × Nat) (Nat × Nat × Word) → State
  | .error (code, _) => s.endCast vf key (some (code, 1, BitVec.ofNat 64 done))
  | .ok (pa, p, e) =>
    if s.badSpan pa 8 then ((s.setAD vf p true).tell vf (lineOf pa)).endCast vf key (some (0x1A, 1, BitVec.ofNat 64 done))
    else if !s.storable (lineOf pa) then s.askHolders [lineOf pa]
    else ((s.setAD vf p true).perform vf (numBytes pa 8 (((s.setAD vf p true).home64 pa).toNat + 1)) (pteMs e)).endCast vf key none

section
variable {s : State} {vf key : Nat} {k : Cast} (h : s.cast? vf key = some k) (hst : k.st = .draining)
  (hret : k.launch.crews ≤ k.retired) (hcrews : s.castCrews vf key = [])
include h hst hret hcrews

theorem completion_silent (h0 : k.launch.done = 0) :
    exec (.castCompletionRelease vf key) s = .next (s.endCast vf key none) := by
  have hgo : (k.st != .draining || decide (k.retired < k.launch.crews) || !(s.castCrews vf key).isEmpty) = false := by
    rw [hst, hcrews, decide_eq_false (Nat.not_lt.mpr hret)]
    rfl
  change execCastCompletionRelease vf key s = _
  unfold execCastCompletionRelease
  rw [h]
  dsimp -zeta -zetaHave only
  rw [hgo, if_neg Bool.false_ne_true, if_pos h0]

theorem completion_writes {r : Except (Nat × Nat) (Nat × Nat × Word)} (h0 : k.launch.done ≠ 0)
    (hr : s.devLoc vf ((s.ctx vf).spva.toNat, k.launch.spad) k.launch.done 8 true = r) (hup : r ≠ .error (0x07, 1)) :
    exec (.castCompletionRelease vf key) s = .next (releaseWord s vf key k.launch.done r) := by
  have hgo : (k.st != .draining || decide (k.retired < k.launch.crews) || !(s.castCrews vf key).isEmpty) = false := by
    rw [hst, hcrews, decide_eq_false (Nat.not_lt.mpr hret)]
    rfl
  change execCastCompletionRelease vf key s = _
  unfold execCastCompletionRelease
  rw [h]
  dsimp -zeta -zetaHave only
  rw [hgo, if_neg Bool.false_ne_true, if_neg h0]
  obtain ⟨devLoc, hloc⟩ : ∃ f, f = State.devLoc := ⟨_, rfl⟩
  rw [← hloc] at hr ⊢
  clear hloc
  extract_lets va fail write
  have hwrite : write s = releaseWord s vf key k.launch.done r := by
    unfold write
    rw [hr]
    cases r <;> rfl
  rw [hr]
  split
  · exact absurd rfl hup
  · rw [hwrite]

theorem completion_stored {pa p : Nat} {e : Word} (h0 : k.launch.done ≠ 0)
    (hr : s.devLoc vf ((s.ctx vf).spva.toNat, k.launch.spad) k.launch.done 8 true = .ok (pa, p, e))
    (hbad : s.badSpan pa 8 = false) (hstore : s.storable (lineOf pa) = true) (hhold : ∀ x, s.stashHolders [] x = []) :
    ∃ u, exec (.castCompletionRelease vf key) s = .next u ∧ u.cast? vf key = none ∧
      (u.ctx vf).aborts = (s.ctx vf).aborts ∧
      u.hbm = ((s.setAD vf p true).setHomeBytes (numBytes pa 8 (((s.setAD vf p true).home64 pa).toNat + 1))).hbm := by
  have hhold' : ∀ x, (s.setAD vf p true).stashHolders [] x = [] := fun x =>
    (stashHolders_congr (sameRun_setAD s vf p true).2.1 [] x).trans (hhold x)
  refine ⟨_, completion_writes h hst hret hcrews h0 hr (by simp), ?_⟩
  rw [releaseWord, hbad, hstore, if_neg Bool.false_ne_true, Bool.not_true, if_neg Bool.false_ne_true]
  refine ⟨endCast_cast .., ?_, ?_⟩
  · rw [endCast_aborts, ctx_congr (perform_ctxs _ _ _ _ hhold'), ctx_congr (setAD_ctxs ..)]
  · rw [(sameBytes_endCast ..).1, (sameBytes_perform _ _ _ _ fun e _ => hhold' _).1]

theorem completion_poisoned {pa p : Nat} {e : Word} (h0 : k.launch.done ≠ 0)
    (hr : s.devLoc vf ((s.ctx vf).spva.toNat, k.launch.spad) k.launch.done 8 true = .ok (pa, p, e))
    (hbad : s.badSpan pa 8 = true) :
    ∃ u, exec (.castCompletionRelease vf key) s = .next u ∧ u.cast? vf key = none ∧ u.hbm = (s.setAD vf p true).hbm ∧
      (u.ctx vf).aborts.getLast? = some { record := k.record, seq := k.seq, queue := k.queue, code := 0x1A, kind := 1
                                          detail := BitVec.ofNat 64 k.launch.done } := by
  have hcast : ((s.setAD vf p true).tell vf (lineOf pa)).cast? vf key = some k := by
    rw [cast_congr (tell_keeps ..).1, cast_congr (setAD_ctxs ..), h]
  refine ⟨_, completion_writes h hst hret hcrews h0 hr (by simp), ?_⟩
  rw [releaseWord, hbad, if_pos rfl]
  refine ⟨endCast_cast .., ?_, endCast_reports hcast ..⟩
  rw [(sameBytes_endCast ..).1, (sameBytes_tell ..).1]

theorem completion_fails {code sub : Nat} (h0 : k.launch.done ≠ 0)
    (hr : s.devLoc vf ((s.ctx vf).spva.toNat, k.launch.spad) k.launch.done 8 true = .error (code, sub))
    (hup : (code, sub) ≠ (0x07, 1)) :
    ∃ u, exec (.castCompletionRelease vf key) s = .next u ∧ u.cast? vf key = none ∧ u.hbm = s.hbm ∧
      (u.ctx vf).aborts.getLast? = some { record := k.record, seq := k.seq, queue := k.queue, code := code, kind := 1
                                          detail := BitVec.ofNat 64 k.launch.done } := by
  refine ⟨_, completion_writes h hst hret hcrews h0 hr (fun heq => hup (Except.error.inj heq)), ?_⟩
  rw [releaseWord]
  exact ⟨endCast_cast .., (sameBytes_endCast ..).1, endCast_reports h ..⟩
end

end Sys2Proof.Machine.ExecModel
end

section
/-! PROOF. Placements and waves (R165 to R170, R181 to R188), and O57 as a whole. -/

namespace Sys2Proof.Machine.ExecModel

/-! ### Placement (R181, R185, R188) -/

theorem writeRecord_crews (s : State) (cid : Nat) : (s.writeRecord cid).crews = s.crews := by
  unfold State.writeRecord
  split
  · rfl
  · split
    · rfl
    · exact (slicesOnly_ctxs (slicesOnly_markDirty ..)).2.1

theorem notePlaced_crews (s : State) (vf key : Nat) (isNew : Bool) : (s.notePlaced vf key isNew).crews = s.crews := rfl

theorem bindSlots_length (b : List Nat) (ts : KV Team) : (bindSlots b ts).length = ts.length := by
  induction ts generalizing b with
  | nil => rfl
  | cons t ts ih => rw [bindSlots, List.length_cons, List.length_cons, ih]

/-- The record of a crew that is placed for the first time. -/
theorem newCrew_crew (s : State) (vf key : Nat) (k : Cast) (copy : Copy) (partner block : Nat) (at_ : Nat × Nat) :
    ∃ c, kvFind (s.newCrew vf key k copy partner block at_).crews s.nextCid = some c ∧ c.vf = vf ∧ c.key = key ∧
      c.index = k.next ∧ c.cl = at_.1 ∧ c.core = at_.2 ∧ c.block = block ∧ c.copy = copy ∧ c.resident = true ∧
      c.saved = c.body ∧ c.body.teams.length = k.launch.teams := by
  rw [State.newCrew, writeRecord_crews]
  dsimp only
  refine ⟨_, kvFind_kvSet_self .., rfl, rfl, rfl, rfl, rfl, rfl, rfl, rfl, rfl, ?_⟩
  rw [bindSlots_length, startBody, List.length_map, List.length_range]

theorem place_new {s : State} {vf key : Nat} {k : Cast} {w : (Nat × Nat) × Option (Nat × Nat)} {b : Nat} {bs : List Nat}
    (hn : s.nextCrew vf key k = .new) (hf : s.freeBlocks vf = b :: bs) (hw : w.2 = none)
    (hpage : ((s.newCrew vf key k .solo 0 b w.1).notePlaced vf key true).areaGone s.nextCid = false) :
    s.place vf key k w = (s.newCrew vf key k .solo 0 b w.1).notePlaced vf key true := by
  unfold State.place
  rw [hn, hf, hw]
  dsimp only
  rw [hpage]
  rfl

theorem crewPlace_held {s : State} {vf key n : Nat} {p : Part} {k : Cast} (hpart : s.partOf vf = some (n, p))
    (h : s.cast? vf key = some k) (hover : s.sliceOver n p vf = true ∨ s.periodsDue vf = true) :
    exec (.crewPlace vf key) s = .next s := by
  have hgo : (!s.running vf || k.st == .waiting || s.sliceOver n p vf || s.periodsDue vf) = true := by
    rcases hover with hover | hover <;> simp [hover]
  change execCrewPlace vf key s = _
  unfold execCrewPlace
  rw [hpart, h]
  dsimp -zeta -zetaHave only
  rw [if_pos hgo]

/-- What a cast whose turn it is does: its next crew is placed, after spills where it would not fit. -/
def placeTurn (s : State) (vf key : Nat) (k : Cast) (live : List Nat) : State :=
  match s.placeFor vf key k live with
  | some w => s.place vf key k w
  | none => match s.spillFor vf key k live with
    | some u => (match u.placeFor vf key k live with | some w => u.place vf key k w | none => u)
    | none => s

theorem placeTurn_fits {s : State} {vf key : Nat} {k : Cast} {live : List Nat} {w : (Nat × Nat) × Option (Nat × Nat)}
    (hw : s.placeFor vf key k live = some w) : placeTurn s vf key k live = s.place vf key k w := by
  rw [placeTurn, hw]

theorem placeTurn_spills {s u : State} {vf key : Nat} {k : Cast} {live : List Nat} {w : (Nat × Nat) × Option (Nat × Nat)}
    (hno : s.placeFor vf key k live = none) (hu : s.spillFor vf key k live = some u)
    (hw : u.placeFor vf key k live = some w) : placeTurn s vf key k live = u.place vf key k w := by
  rw [placeTurn, hno, hu]
  dsimp only
  rw [hw]

section
variable {s : State} {vf key n : Nat} {p : Part} {k : Cast} (hpart : s.partOf vf = some (n, p)) (h : s.cast? vf key = some k)
  (hrun : s.running vf = true) (hst : k.st ≠ .waiting)
include hpart h hrun hst

theorem crewPlace_gate (hover : s.sliceOver n p vf = false) (hdue : s.periodsDue vf = false) (hg : k.gate = false) :
    exec (.crewPlace vf key) s = .next (if s.residencyMet vf k.launch.resid then s.modCast vf key (Cast.open s.cyc) else s) := by
  have hgo : (!s.running vf || k.st == .waiting || s.sliceOver n p vf || s.periodsDue vf) = false := by
    simp [hrun, hst, hover, hdue]
  change execCrewPlace vf key s = _
  unfold execCrewPlace
  rw [hpart, h]
  dsimp -zeta -zetaHave only
  rw [hgo, if_neg Bool.false_ne_true, hg, Bool.not_false, if_pos rfl]

theorem crewPlace_turn (hover : s.sliceOver n p vf = false) (hdue : s.periodsDue vf = false) (hg : k.gate = true) {x : Cast}
    (hturn : (s.offers vf).find? (fun e => (s.placeFor vf e.1 e.2 (s.liveClusters p)).isSome ||
      (s.spillFor vf e.1 e.2 (s.liveClusters p)).isSome) = some (key, x)) :
    exec (.crewPlace vf key) s = .next (placeTurn s vf key k (s.liveClusters p)) := by
  have hgo : (!s.running vf || k.st == .waiting || s.sliceOver n p vf || s.periodsDue vf) = false := by
    simp [hrun, hst, hover, hdue]
  have hself : ¬ ((key != key) = true) := by simp
  change execCrewPlace vf key s = _
  unfold execCrewPlace placeTurn
  rw [hpart, h]
  dsimp -zeta -zetaHave only
  rw [hgo, if_neg Bool.false_ne_true, hg, Bool.not_true, if_neg Bool.false_ne_true]
  extract_lets live go
  rw [hturn]
  dsimp only
  rw [if_neg hself]
  cases hw : s.placeFor vf key k live with
  | some w =>
    have hgo : go s = s.place vf key k w := by
      unfold go
      rw [hw]
    exact congrArg Host.Outcome.next hgo
  | none => cases s.spillFor vf key k live <;> rfl
end

/-! ### Waves (R166 to R170) -/

theorem waveForm_none {s : State} {vf key : Nat} {k : Cast} (h : s.cast? vf key = some k) (hw : k.wave = []) :
    exec (.waveForm vf key) s = .next s := by
  change execWaveForm vf key s = _
  unfold execWaveForm
  rw [h]
  dsimp only
  rw [hw]
  rfl

/-- The items of a wave get its number. -/
def joinWave (w : List Nat) (x : Cast) : Cast :=
  { x with waves := x.waves + 1, items := w.foldl (fun m i => kvSet m i { kvGet ({} : Item) m i with wave := x.waves + 1 }) x.items }

theorem waveForm_forms {s : State} {vf key : Nat} {k : Cast} (h : s.cast? vf key = some k) (hw : k.wave ≠ []) {cs : List Nat}
    (hcs : cs = (s.castCrews vf key).filter (fun cid => (kvFind s.crews cid).any (fun c => k.wave.contains c.index)))
    (hadm : cs.all s.admittable = true) :
    exec (.waveForm vf key) s = .next ((cs.foldl State.admitCrew (s.modCast vf key (joinWave k.wave))).recordCast vf key 3
      (k.wave.flatMap (leBytes 4))) := by
  have hcs' : (s.castCrews vf key).filter (fun cid => match kvFind s.crews cid with
      | some c => k.wave.contains c.index
      | none => false) = cs := by
    rw [hcs]
    refine List.filter_congr fun cid _ => ?_
    cases kvFind s.crews cid <;> rfl
  have hgo : (k.wave.isEmpty || !cs.all s.admittable) = false := by
    rw [hadm, Bool.not_true, Bool.or_false, List.isEmpty_eq_false_iff]
    exact hw
  change execWaveForm vf key s = _
  unfold execWaveForm
  rw [h]
  dsimp -zeta -zetaHave only
  extract_lets w cs' s1
  have hcs'' : cs' = cs := hcs'
  have hww : w = k.wave := rfl
  have hs1 : s1 = s.modCast vf key (joinWave k.wave) := rfl
  clear_value cs' s1 w
  rw [hcs'', hs1, hww, hgo, if_neg Bool.false_ne_true]

theorem item_foldl (n : Nat) (w : List Nat) (m : KV Item) (i : Nat) :
    kvGet {} (w.foldl (fun m i => kvSet m i { kvGet ({} : Item) m i with wave := n }) m) i =
      if i ∈ w then { kvGet ({} : Item) m i with wave := n } else kvGet {} m i := by
  induction w generalizing m with
  | nil => rfl
  | cons j w ih =>
    rw [List.foldl_cons, ih, kvGet_kvSet]
    by_cases hij : i = j
    · subst hij
      simp only [List.mem_cons, true_or, ↓reduceIte, ite_self]
    · simp only [List.mem_cons, hij, false_or, ↓reduceIte]

theorem item_joinWave (w : List Nat) (x : Cast) (i : Nat) :
    (joinWave w x).item i = if i ∈ w then { x.item i with wave := x.waves + 1 } else x.item i := item_foldl ..

theorem conflict_comm (a b : Item) : conflict a b = conflict b a := by
  rw [conflict, conflict, BitVec.and_comm]

/-- The items of an unordered wave, among some entries in their order. -/
def gather (k : Cast) (es : List (Nat × Item)) (w : List Nat) : List Nat :=
  es.foldl (fun w e => if w.any (fun j => conflict e.2 (k.item j)) then w else w ++ [e.1]) w

theorem gather_spec (k : Cast) (es : List (Nat × Item)) (hes : ∀ e ∈ es, k.item e.1 = e.2 ∧ e.2.waits = true) :
    ∀ w, (∀ i ∈ w, (k.item i).waits = true) → w.Pairwise (fun i j => conflict (k.item i) (k.item j) = false) →
      (∀ i ∈ gather k es w, (k.item i).waits = true) ∧
        (gather k es w).Pairwise (fun i j => conflict (k.item i) (k.item j) = false) := by
  induction es with
  | nil => exact fun w hw hp => ⟨hw, hp⟩
  | cons e es ih =>
    intro w hw hp
    obtain ⟨he, hwait⟩ := hes e (by simp)
    rw [gather, List.foldl_cons]
    refine ih (fun x hx => hes x (by simp [hx])) _ ?_ ?_
    · intro i hi
      split at hi
      · exact hw i hi
      · obtain hi | hi := List.mem_append.mp hi
        · exact hw i hi
        · rw [List.mem_singleton.mp hi, he]
          exact hwait
    · split
      · exact hp
      · next hno =>
        refine List.pairwise_append.mpr ⟨hp, List.pairwise_singleton _ _, fun i hi j hj => ?_⟩
        rw [List.mem_singleton.mp hj, he, conflict_comm]
        exact Bool.eq_false_iff.mpr fun hc => hno (List.any_eq_true.mpr ⟨i, hi, hc⟩)

theorem waits_iff (i : Item) : i.waits = true ↔ i.isSealed = true ∧ i.finished = false ∧ i.wave = 0 := by
  rw [Item.waits]
  simp only [Bool.and_eq_true, beq_iff_eq, Bool.not_eq_true']
  tauto

/-- In a table in order every entry is found by its key. -/
theorem kvFind_mem {β : Type} {m : KV β} (h : kvSorted m = true) {e : Nat × β} (he : e ∈ m) : kvFind m e.1 = some e.2 := by
  rw [kvSorted_iff] at h
  induction m with
  | nil => exact absurd he List.not_mem_nil
  | cons a m ih =>
    obtain ⟨hlt, hm⟩ := List.pairwise_cons.mp h
    obtain rfl | he := List.mem_cons.mp he
    · rw [kvFind, if_pos rfl]
    · rw [kvFind, if_neg (Nat.ne_of_gt (hlt e he)), ih hm he]

theorem gather_wave {k : Cast} (hs : kvSorted k.items = true) :
    (∀ i ∈ gather k (k.items.filter (fun e => e.2.waits)) [], (k.item i).waits = true) ∧
      (gather k (k.items.filter (fun e => e.2.waits)) []).Pairwise (fun i j => conflict (k.item i) (k.item j) = false) := by
  refine gather_spec k _ (fun e he => ?_) [] (fun i hi => absurd hi List.not_mem_nil) List.Pairwise.nil
  obtain ⟨hmem, hwait⟩ := List.mem_filter.mp he
  exact ⟨by rw [Cast.item, kvGet, kvFind_mem hs hmem, Option.getD_some], hwait⟩

/-- The items of an ordered wave, among those of its window. -/
def ordered (k : Cast) (win : List Nat) : List Nat :=
  win.filter (fun i => (k.item i).waits &&
    !win.any (fun j => decide (j < i) && !(k.item j).finished && conflict (k.item i) (k.item j)))

theorem waits_ordered {k : Cast} {win : List Nat} {i : Nat} (hi : i ∈ ordered k win) : i ∈ win ∧ (k.item i).waits = true ∧
    ∀ j ∈ win, j < i → (k.item j).finished = false → conflict (k.item i) (k.item j) = false := by
  obtain ⟨hwin, h⟩ := List.mem_filter.mp hi
  rw [Bool.and_eq_true, Bool.not_eq_true', List.any_eq_false] at h
  obtain ⟨hwait, hno⟩ := h
  refine ⟨hwin, hwait, fun j hj hlt hfin => Bool.eq_false_iff.mpr fun hc => hno j hj ?_⟩
  rw [decide_eq_true hlt, hfin, hc]
  rfl

theorem ordered_conflict {k : Cast} {win : List Nat} {i j : Nat} (hi : i ∈ ordered k win) (hj : j ∈ ordered k win)
    (hij : i ≠ j) : conflict (k.item i) (k.item j) = false := by
  obtain ⟨hiw, hiwait, hino⟩ := waits_ordered hi
  obtain ⟨hjw, hjwait, hjno⟩ := waits_ordered hj
  obtain hlt | hlt := Nat.lt_or_gt_of_ne hij
  · rw [conflict_comm]
    exact hjno i hiw hlt ((waits_iff _).mp hiwait).2.1
  · exact hino j hjw hlt ((waits_iff _).mp hjwait).2.1

/-- A wave is nothing, the ordered items of a window, or the unordered ones of the table. -/
theorem wave_cases (k : Cast) : k.wave = [] ∨ (∃ win, k.wave = ordered k win) ∨
    k.wave = gather k (k.items.filter (fun e => e.2.waits)) [] := by
  unfold Cast.wave
  split
  · exact .inl rfl
  · split
    · dsimp only
      split
      · exact .inr (.inl ⟨_, rfl⟩)
      · exact .inl rfl
    · exact .inr (.inr rfl)

theorem wave_spec {k : Cast} (hs : kvSorted k.items = true) {i j : Nat} (hi : i ∈ k.wave) (hj : j ∈ k.wave) :
    (k.item i).waits = true ∧ (i ≠ j → conflict (k.item i) (k.item j) = false) := by
  obtain h | ⟨win, h⟩ | h := wave_cases k
  · rw [h] at hi
    exact absurd hi List.not_mem_nil
  · rw [h] at hi hj
    exact ⟨(waits_ordered hi).2.1, ordered_conflict hi hj⟩
  · rw [h] at hi hj
    obtain ⟨hwait, hpair⟩ := gather_wave hs
    have hsymm : Std.Symm fun a b => conflict (k.item a) (k.item b) = false := ⟨fun a b h => (conflict_comm _ _).trans h⟩
    exact ⟨hwait i hi, fun hij => hpair.forall hi hj hij⟩

/-! ### The obligation -/

theorem cast_waveForm {s : State} {vf key : Nat} {k : Cast} (h : s.cast? vf key = some k) (hw : k.wave ≠ [])
    (hnone : s.castCrews vf key = []) : ∃ u, exec (.waveForm vf key) s = .next u ∧ u.cast? vf key = some (joinWave k.wave k) := by
  refine ⟨_, waveForm_forms h hw (cs := []) (by rw [hnone, List.filter_nil]) rfl, ?_⟩
  rw [(recordCast_keeps ..).1, List.foldl_nil, cast_modCast_some h]

/-- Settles O57: each event's clause is its own lemma about the model's function for it. -/
theorem dispatcherEvents : Obligations.DispatcherEvents := by
  unfold Obligations.DispatcherEvents
  refine ⟨?_, ?_, ?_, ?_, ?_, ?_, ?_⟩
  · intro vf q dpa p va seq d s u hq hroom hs hn hst hhold hp hva hseq hu
    have hu' : u = fetched s vf q dpa d.head (packetLines s vf (d.slot d.head) (p % 2 ^ 64)) := by
      rw [hu, hva, fetched, packetLines]
    rw [hva, hseq]
    refine ⟨by rw [hu', hbm_fetched _ _ _ _ _ hhold], fun cause => dispatchPacket_refuses hq hroom hs hn hst hp hu', fun hc => ?_⟩
    obtain ⟨v, hv, hexec⟩ := dispatchPacket_enters hq hroom hs hn hst hp hu' hc
    obtain ⟨k, hk, hwait, hqueue, hks, hrec, hlaunch, hnext, hret⟩ := enterCast_cast u vf q (p / 2 ^ 64) (p % 2 ^ 64) v
    exact ⟨v, _, k, hv, rfl, hexec, hk, hwait, hqueue, hks, hrec, hlaunch, hnext, hret, enterCast_hbm ..⟩
  · intro vf key s k h hw hlen
    refine ⟨fun hall => waitWordRead_starts h ⟨hw, hlen, fun i hi => absurd hi (Nat.not_lt_zero i), hall⟩, ?_⟩
    exact fun va tgt pa p e hn hr hword h0 hothers ha => waitWordRead_reads h hw hlen hn hr hword h0 hothers ha
  · intro vf key s k h hst hr
    refine ⟨fun hdue => ⟨_, rfl, endPeriod_due h hst hr hdue⟩, fun hlate => ?_⟩
    exact congrArg Host.Outcome.next (endPeriod_early h hlate)
  · intro vf key n s p k hpart h hrun hst
    refine ⟨crewPlace_held hpart h, fun hover hdue => ⟨fun hg hres => ?_, fun hg hres => ?_, fun x hg hturn => ?_⟩⟩
    · rw [crewPlace_gate hpart h hrun hst hover hdue hg, hres, if_neg Bool.false_ne_true]
    · exact ⟨_, by rw [crewPlace_gate hpart h hrun hst hover hdue hg, hres, if_pos rfl], cast_modCast_some h _⟩
    · rw [crewPlace_turn hpart h hrun hst hover hdue hg hturn]
      refine ⟨fun w hw => ⟨by rw [placeTurn_fits hw], fun b bs hnew hfree hsolo hpage => ?_⟩, fun u w hno hu hw => ?_⟩
      · rw [place_new hnew hfree hsolo hpage, notePlaced_crews]
        exact newCrew_crew ..
      · rw [placeTurn_spills hno hu hw]
  · intro vf key s k h hst hret hcrews
    refine ⟨fun h0 => ⟨_, completion_silent h hst hret hcrews h0, endCast_cast .., endCast_aborts .., (sameBytes_endCast ..).1⟩,
      fun pa p e h0 hr => ⟨fun hbad hstore hhold => completion_stored h hst hret hcrews h0 hr hbad hstore hhold,
        fun hbad => completion_poisoned h hst hret hcrews h0 hr hbad⟩,
      fun code sub h0 hr hup => completion_fails h hst hret hcrews h0 hr hup⟩
  · intro vf key s k h
    refine ⟨waveForm_none h, fun hw hnone => ?_, fun cs hw hcs hadm => waveForm_forms h hw hcs hadm⟩
    obtain ⟨u, hu, hcast⟩ := cast_waveForm h hw hnone
    refine ⟨u, _, hu, hcast, rfl, fun i hi => ?_, fun i hi => ?_⟩
    · rw [item_joinWave, if_pos hi]
    · rw [item_joinWave, if_neg hi]
  · intro k i j hs hi hj
    obtain ⟨hwait, hconf⟩ := wave_spec hs hi hj
    obtain ⟨hsealed, hfin, hwave⟩ := (waits_iff _).mp hwait
    exact ⟨hsealed, hfin, hwave, hconf⟩

end Sys2Proof.Machine.ExecModel
end

section
/-! SUPPORT. The agent that has the turn after an update of its own thread, its registers or its team, and how a step ends. -/

namespace Sys2Proof.Machine.ExecModel

/-! ### How a step ends -/

/-- What a step of an agent comes to, by the result of its meaning. -/
def outcome (s : State) (ag : Agent) : EStateM.Result Stop State Done → Host.Outcome State Fault Refusal
  | .ok d u => .next (s.finish u ag d)
  | .error e u => s.stopped u ag e

theorem run_eq_outcome {s : State} {ag : Agent} (h : s.cur = some ag) (m : M Done) : run m s = outcome s ag (m s) := by
  cases hm : m s with
  | ok d u => exact run_ok h hm
  | error e u => exact run_error h hm

/-- A fault other than the full label table is taken in the state that the instruction has reached. -/
theorem outcome_trap {s u : State} {ag : Agent} {x : Trap} (hx : (x.code == 0x10 && x.sub == 0) = false) :
    outcome s ag (.error (.trap x) u) = .next (u.takeTrap ag x) := by
  rw [outcome, State.stopped, hx, if_neg Bool.false_ne_true]

/-- A wait while no load is held is taken in the state that the instruction has reached. -/
theorem outcome_park {s u : State} {ag : Agent} {th : Thread} (h : s.Turn ag th) (hw : th.heldFree = true) {p : Park} :
    outcome s ag (.error (.park p) u) = .next (u.parkThread ag (keepPair (u.parkOf ag) p)) :=
  (run_eq_outcome h.1 (fun _ => .error (.park p) u)).symm.trans (run_park h hw rfl)

/-! ### Issue -/

/-- An instruction that names fewer registers and writes fewer passes the checks at issue too. -/
theorem mayIssue_mono {s : State} {ag : Agent} {th : Thread} {rs ws rs' ws' : List RegName} (hi : s.mayIssue ag th rs ws = true)
    (hn : ∀ r ∈ rs' ++ ws', r ∈ rs ++ ws) (hw : ∀ r ∈ ws', r ∈ ws) : s.mayIssue ag th rs' ws' = true := by
  simp only [State.mayIssue, Thread.free, Bool.and_eq_true, List.all_eq_true, Bool.not_eq_true', List.any_eq_false,
    List.contains_iff_mem] at hi ⊢
  obtain ⟨hname, hpend, hspan⟩ := hi
  refine ⟨fun r hr => hname r (hn r hr), fun p hp => ⟨(hpend p hp).1, fun d hd hc => (hpend p hp).2 d hd ⟨hn d hc.1, hc.2⟩⟩, ?_⟩
  cases ho : th.openSpan with
  | none => rfl
  | some o =>
    rw [ho] at hspan
    exact List.all_eq_true.mpr fun r hr => List.all_eq_true.mp hspan r (hw r hr)

/-- What an instruction that may issue writes is declared by the open span. -/
theorem declared_of_mayIssue {s u : State} {ag : Agent} {th : Thread} {rs ws : List RegName} (hi : s.mayIssue ag th rs ws = true)
    (h : u.Turn ag th) : declared ws u = .ok ⟨⟩ u := by
  simp only [State.mayIssue, Thread.free, Bool.and_eq_true] at hi
  exact declared_ok h hi.2.2

/-! ### The turn after an update -/

theorem turn_modThread {s : State} {ag : Agent} {th : Thread} (h : s.Turn ag th) (f : Thread → Thread) :
    (s.modThread ag f).Turn ag (f th) := by
  refine ⟨(modThread_cur ..).trans h.1, ?_⟩
  have ht := h.2
  cases ag with
  | frag cid t fn =>
    obtain ⟨tm, htm, hfr⟩ := Option.bind_eq_some_iff.mp ht
    simp only [State.thread?, State.modThread, State.team_modTeam, and_self, ↓reduceIte, htm, Option.map_some, Option.bind_some,
      kvFind_kvModify_self, hfr]
  | seq cid x =>
    obtain ⟨c, hc, hx⟩ := Option.bind_eq_some_iff.mp ht
    obtain ⟨q, hq, rfl⟩ := Option.map_eq_some_iff.mp hx
    simp only [State.thread?, State.modThread, State.crew_modCrew, ↓reduceIte, hc, Option.map_some, Option.bind_some,
      Crew.modBody, kvFind_kvModify_self, hq]
  | sup k =>
    simp only [State.thread?, Option.some.injEq] at ht
    simp only [State.thread?, State.modThread, State.sup_setSup, ↓reduceIte, ht]

@[simp] theorem writeS_cur (s : State) (ag : Agent) (n : Nat) (r : SReg) : (s.writeS ag n r).cur = s.cur := by
  unfold State.writeS
  split
  · rfl
  · cases ag <;> rfl

/-- A write of a uniform register leaves the thread as it is. -/
theorem turn_writeS {s : State} {ag : Agent} {th : Thread} (h : s.Turn ag th) (n : Nat) (r : SReg) :
    (s.writeS ag n r).Turn ag th := by
  refine ⟨(writeS_cur ..).trans h.1, ?_⟩
  have ht := h.2
  unfold State.writeS
  split
  · exact ht
  · cases ag with
    | frag cid t fn =>
      obtain ⟨tm, htm, hfr⟩ := Option.bind_eq_some_iff.mp ht
      simp only [State.thread?, State.team_modTeam, and_self, ↓reduceIte, htm, Option.map_some, Option.bind_some, hfr]
    | seq cid x =>
      obtain ⟨c, hc, hx⟩ := Option.bind_eq_some_iff.mp ht
      obtain ⟨q, hq, rfl⟩ := Option.map_eq_some_iff.mp hx
      simp only [State.thread?, State.crew_modCrew, ↓reduceIte, hc, Option.map_some, Option.bind_some, Crew.modBody,
        kvFind_kvModify_self, hq]
    | sup k =>
      simp only [State.thread?, Option.some.injEq] at ht
      simp only [State.thread?, State.sup_setSup, ↓reduceIte, ht]

theorem closed_of_empty {s : State} {ag : Agent} {th : Thread} (h : th.pend = []) : s.closed ag th = s := by
  rw [State.closed, if_pos h]

/-- The thread of an agent whose windows have ended. -/
theorem turn_closed {s : State} {ag : Agent} {th : Thread} (h : s.Turn ag th) : (s.closed ag th).Turn ag { th with pend := [] } := by
  by_cases hp : th.pend = []
  · rw [closed_of_empty hp, ← hp]
    exact h
  · rw [State.closed, if_neg hp]
    exact turn_modThread h _

/-- A team after a write of a uniform register: sz holds nothing. -/
def writtenTeam (tm : Team) (n : Nat) (r : SReg) : Team := if n = 63 then tm else { tm with s := kvPut {} tm.s n r }

theorem writtenTeam_keeps (tm : Team) (n : Nat) (r : SReg) : (writtenTeam tm n r).v = tm.v ∧ (writtenTeam tm n r).m = tm.m ∧
    (writtenTeam tm n r).pkr = tm.pkr ∧ (writtenTeam tm n r).frame = tm.frame ∧ (writtenTeam tm n r).frags = tm.frags ∧
    (writtenTeam tm n r).nextSid = tm.nextSid := by
  unfold writtenTeam
  split
  · exact ⟨rfl, rfl, rfl, rfl, rfl, rfl⟩
  · exact ⟨rfl, rfl, rfl, rfl, rfl, rfl⟩

section
variable {s : State} {cid t fn : Nat} {c : Crew} {tm : Team} {th : Thread} (h : s.AtFrag cid t fn c tm th)
include h

theorem atFrag_modTeam {f : Team → Team} {th' : Thread} (hf : kvFind (f tm).frags fn = some th') :
    (s.modTeam cid t f).AtFrag cid t fn (c.modBody (fun b => b.modTeam t f)) (f tm) th' := by
  obtain ⟨hcur, hcrew, hteam, -⟩ := h
  refine ⟨hcur, ?_, ?_, hf⟩
  · rw [State.modTeam, State.crew_modCrew, if_pos rfl, hcrew, Option.map_some]
  · rw [Crew.modBody, Body.team_modTeam, if_pos rfl, hteam, Option.map_some]

theorem atFrag_modThread (f : Thread → Thread) : ∃ c', (s.modThread (.frag cid t fn) f).AtFrag cid t fn c'
    { tm with frags := kvModify tm.frags fn f } (f th) :=
  ⟨_, atFrag_modTeam h (f := fun tm => { tm with frags := kvModify tm.frags fn f })
    (by rw [kvFind_kvModify_self, h.2.2.2, Option.map_some])⟩

theorem atFrag_writeS (n : Nat) (r : SReg) :
    ∃ c', (s.writeS (.frag cid t fn) n r).AtFrag cid t fn c' (writtenTeam tm n r) th := by
  unfold State.writeS writtenTeam
  split
  · exact ⟨c, h⟩
  · exact ⟨_, atFrag_modTeam h (f := fun tm => { tm with s := kvPut {} tm.s n r }) h.2.2.2⟩

theorem atFrag_closed : ∃ c' tm', (s.closed (.frag cid t fn) th).AtFrag cid t fn c' tm' { th with pend := [] } ∧
    tm'.nextSid = tm.nextSid := by
  by_cases hp : th.pend = []
  · rw [closed_of_empty hp, ← hp]
    exact ⟨c, tm, h, rfl⟩
  · rw [State.closed, if_neg hp]
    obtain ⟨c', hc⟩ := atFrag_modThread h (fun th => { th with pend := [] })
    exact ⟨c', _, hc, rfl⟩
end

end Sys2Proof.Machine.ExecModel
end


section
/-! PROOF. Moves between masks, uniform registers and exm (R50, R112): O5. -/

namespace Sys2Proof.Machine.ExecModel

/-! ### MPOPC and MTEST -/

/-- The bit that MTEST answers: an active lane that the mask has. -/
theorem boolWord_lane (x b : Mask) (n : Nat) : boolWord (decide (n < 1024) && mhas x n && mhas b n) =
    if n < 1024 ∧ x.getLsbD n = true ∧ b.getLsbD n = true then 1 else 0 := by
  simp only [boolWord, mhas, Bool.and_eq_true, decide_eq_true_eq, and_assoc]

section
variable {s : State} {cid t fn : Nat} {c : Crew} {tm : Team} {th : Thread} (h : s.AtFrag cid t fn c tm th)
include h

theorem mpopc_next {d a : Nat} (hi : s.mayIssue (.frag cid t fn) th [.m a] [.s d] = true) {l : Lbl} {tab : List (BitVec 64)}
    (hj : s.joined (.frag cid t fn) [maskLbl tm th a, th.pcl] = some (l, tab)) :
    exec (.mpopc d a) s = .next (s.finish ((s.setLabels c.vf tab).writeS (.frag cid t fn) d
      { val := BitVec.ofNat 64 (mcount (th.exm &&& maskVal tm th a)), lab := l }) (.frag cid t fn) {}) := by
  refine run_ok h.cur ?_
  simp only [M_bind, issue_ok h.turn hi, myTh_ok h.turn, maskBits_ok h, maskLab_ok h, joinAll_ok h.turn hj, h.ctx,
    writeS_ok (h.setLabels c.vf tab).cur, done, M_pure]

theorem mtest_next {d a b : Nat} (hi : s.mayIssue (.frag cid t fn) th [.m a, .s b] [.s d] = true) {l : Lbl}
    {tab : List (BitVec 64)}
    (hj : s.joined (.frag cid t fn) [maskLbl tm th a, (s.readS (.frag cid t fn) b).lab, th.pcl] = some (l, tab)) :
    exec (.mtest d a b) s = .next (s.finish ((s.setLabels c.vf tab).writeS (.frag cid t fn) d
      { val := if (s.readS (.frag cid t fn) b).val.toNat < 1024 ∧
                  th.exm.getLsbD (s.readS (.frag cid t fn) b).val.toNat = true ∧
                  (maskVal tm th a).getLsbD (s.readS (.frag cid t fn) b).val.toNat = true then 1 else 0
        lab := l }) (.frag cid t fn) {}) := by
  refine run_ok h.cur ?_
  simp only [M_bind, issue_ok h.turn hi, myTh_ok h.turn, maskBits_ok h, rdS_ok h.cur, maskLab_ok h, joinAll_ok h.turn hj, h.ctx,
    boolWord_lane, writeS_ok (h.setLabels c.vf tab).cur, done, M_pure]

/-! ### EXMW and EXMR -/

theorem exmw_zero (hi : s.mayIssue (.frag cid t fn) th [.m 0] [] = true) :
    exec (.exmw 0) s = .next (s.finish s (.frag cid t fn) {}) := by
  refine run_ok h.cur ?_
  simp only [M_bind, issue_ok h.turn hi, ↓reduceIte, done, M_pure]

theorem exmr_zero (hi : s.mayIssue (.frag cid t fn) th [] [.m 0] = true) :
    exec (.exmr 0) s = .next (s.finish s (.frag cid t fn) {}) := by
  refine run_ok h.cur ?_
  simp only [M_bind, issue_ok h.turn hi, ↓reduceIte, done, M_pure]

section
variable {a : Nat} (ha : a ≠ 0)
include ha

/-- EXMW under a PC label that dominates its mask's (R50). -/
theorem exmw_next (hi : s.mayIssue (.frag cid t fn) th [.m a] [] = true)
    (hd : (s.ctx c.vf).dominates th.pcl (maskLbl tm th a) = true) :
    exec (.exmw a) s = .next (s.finish (s.modThread (.frag cid t fn) (fun x => { x with exm := maskVal tm th a &&& x.f }))
      (.frag cid t fn) {}) := by
  refine run_ok h.cur ?_
  simp only [M_bind, issue_ok h.turn hi, ha, ↓reduceIte, myTh_ok h.turn, maskLab_ok h, dominates_ok h.turn, h.ctx, hd,
    maskBits_ok h, modTh_ok h.cur, done, M_pure]

/-- EXMW under another PC label raises missing write span before it changes anything. -/
theorem exmw_trap (hi : s.mayIssue (.frag cid t fn) th [.m a] [] = true)
    (hd : (s.ctx c.vf).dominates th.pcl (maskLbl tm th a) = false) :
    exec (.exmw a) s = .next (s.takeTrap (.frag cid t fn) { code := 0x0D, lanes := th.exm }) := by
  refine run_trap h.cur ?_ rfl
  simp only [M_bind, issue_ok h.turn hi, ha, ↓reduceIte, myTh_ok h.turn, maskLab_ok h, dominates_ok h.turn, h.ctx, hd,
    Bool.false_eq_true, trapU_error h.turn]

theorem exmr_next (hi : s.mayIssue (.frag cid t fn) th [] [.m a] = true) {l : Lbl} {tab : List (BitVec 64)}
    (hl : s.maskLabel (.frag cid t fn) tm a th.f [th.pcl] = some (l, tab)) :
    exec (.exmr a) s =
      .next (s.finish ((s.setLabels c.vf tab).putMask cid t fn tm a th.f th.exm l) (.frag cid t fn) {}) := by
  refine run_ok h.cur ?_
  simp only [M_bind, issue_ok h.turn hi, ha, ↓reduceIte, myTh_ok h.turn,
    writeM_ok (labs := []) h hl (fun h0 => absurd h0 ha), done, M_pure]
end
end

/-- Settles O5: each instruction passes its checks and writes its one result; EXMW of a mask whose label the PC label does not
dominate stops at that check, with exm as it was. -/
theorem maskMoves : Obligations.MaskMoves := by
  unfold Obligations.MaskMoves
  refine ⟨fun d a b s cid t fn c tm th l tab h => ⟨fun hi hj => mpopc_next h hi hj, fun hi hj => mtest_next h hi hj⟩,
    fun a s cid t fn c tm th h => ⟨?_, ?_, ?_, ?_, ?_⟩⟩
  · exact fun hi ha hd => exmw_next h ha hi hd
  · exact fun hi ha hd => exmw_trap h ha hi hd
  · exact exmw_zero h
  · exact exmr_zero h
  · exact fun l tab hi ha hl => exmr_next h ha hi hl

end Sys2Proof.Machine.ExecModel
end

section
/-! PROOF. Conditional and labelled branches (R58 to R62, R79, R104, R105): O10 and O11. -/

namespace Sys2Proof.Machine.ExecModel

/-! ### What reads of code leave of the labels -/

section
variable {s s1 : State} (r : SameRun s s1)
include r

theorem ctxOf_same (ag : Agent) : s1.ctxOf ag = s.ctxOf ag := by
  obtain ⟨-, hcrews, hsups, -⟩ := r
  exact State.ctxOf_congr hcrews hsups ag

theorem readS_same (ag : Agent) (n : Nat) : s1.readS ag n = s.readS ag n := by
  obtain ⟨-, hcrews, hsups, -⟩ := r
  exact State.readS_congr hcrews hsups ag n

theorem clearOf_same (ag : Agent) : s1.clearOf ag = s.clearOf ag := by
  obtain ⟨-, hcrews, -⟩ := r
  cases ag <;> simp only [State.clearOf, State.team?, hcrews]

theorem dominates_same (vf : Nat) (x y : Lbl) : (s1.ctx vf).dominates x y = (s.ctx vf).dominates x y := by
  obtain ⟨-, -, -, hlabels, -⟩ := r
  simp only [Context.dominates, Context.owners, hlabels]

theorem joined_same (ag : Agent) (ls : List Lbl) : s1.joined ag ls = s.joined ag ls := by
  have hctx := ctxOf_same r ag
  obtain ⟨-, -, -, hlabels, -⟩ := r
  simp only [State.joined, hctx, hlabels]
end

/-! ### The flow checks of a conditional branch (R58, R59) -/

section
variable {s : State} {ag : Agent} {th : Thread} (h : s.Turn ag th) {l : Lbl}
include h

/-- A condition label that the clearance does not dominate. -/
theorem flowCheck_clearance (hc : (s.ctx (s.ctxOf ag)).dominates (s.clearOf ag) l = false) (j : Bool) :
    flowCheck l j s = .error (.trap { code := 0x0B, lanes := th.exm }) s := by
  simp only [flowCheck, M_bind, myTh_ok h, myClear_ok h, dominates_ok h, hc, Bool.not_false, ↓reduceIte, trapU_error h]

variable (hc : (s.ctx (s.ctxOf ag)).dominates (s.clearOf ag) l = true) (hp : (s.ctx (s.ctxOf ag)).dominates th.pcl l = false)
include hc hp

/-- A labelled branch that has no span to open. -/
theorem flowCheck_missing {j : Bool} (hm : th.spanMissing j = true) :
    flowCheck l j s = .error (.trap { code := 0x0D, lanes := th.exm }) s := by
  simp only [flowCheck, M_bind, myTh_ok h, myClear_ok h, dominates_ok h, hc, hp, Bool.not_true, Bool.false_eq_true, ↓reduceIte]
  unfold Thread.spanMissing at hm
  cases harm : th.armed with
  | none => simp only [trapU_error h]
  | some sp =>
    cases j with
    | false => simp only [trapU_error h]
    | true =>
      rw [harm] at hm
      cases ho : th.openSpan with
      | none => simp only [ho, Bool.not_true, Bool.or_false, Bool.false_eq_true] at hm
      | some o =>
        simp only [ho, Bool.not_true, Bool.false_or, Bool.not_eq_true'] at hm
        simp only [M_bind, hm, Bool.false_eq_true, ↓reduceIte, trapU_error h]

/-- A labelled branch whose armed span lies within the open one: the join of the labels is formed. -/
theorem flowCheck_span {sp : Span} (harm : th.armed = some sp) (hm : th.spanMissing true = false) {r : Lbl}
    {tab : List (BitVec 64)} (hj : s.joined ag [th.pcl, l] = some (r, tab)) :
    flowCheck l true s =
      .ok (some ({ span := sp, cond := l, groups := mgroups th.exm }, r)) (s.setLabels (s.ctxOf ag) tab) := by
  simp only [flowCheck, M_bind, myTh_ok h, myClear_ok h, dominates_ok h, hc, hp, Bool.not_true, Bool.false_eq_true, ↓reduceIte, harm]
  simp only [Thread.spanMissing, harm, Bool.not_true, Bool.false_or] at hm
  cases ho : th.openSpan with
  | none => simp only [M_bind, M_pure, join2, joinAll_ok h hj]
  | some o =>
    simp only [ho, Bool.not_eq_false'] at hm
    simp only [hm, ↓reduceIte, M_bind, M_pure, join2, joinAll_ok h hj]
end

/-! ### Where the fragment goes -/

/-- A branch that opens a span moves the whole fragment or lets it go on, and takes an entry of its team's split table. -/
theorem moveWhole_span {s : State} {cid t fn : Nat} {c : Crew} {tm : Team} {th : Thread} (h : s.AtFrag cid t fn c tm th)
    {taken : Bool} (hf : taken = true → th.heldFree = true) (pc j : Int) (o : OpenSpan) (l : Lbl) :
    moveWhole taken pc j (some (o, l)) s = .ok { ctl := if taken then .jump pc.toNat else .next }
      (((if taken then s.closed (.frag cid t fn) th else s).modTeam cid t (fun x => { x with nextSid := tm.nextSid + 1 })).spanOpened
        (.frag cid t fn) tm.nextSid j.toNat l o taken) := by
  cases taken with
  | false =>
    have h1 : (s.modTeam cid t (fun x => { x with nextSid := tm.nextSid + 1 })).cur = some (.frag cid t fn) := h.cur
    simp only [moveWhole, newSid, Bool.false_eq_true, ↓reduceIte, M_bind, M_pure, me_ok h.cur, myTeam_ok h, modTeam_ok h.cur,
      modTh_ok h1, done, State.spanOpened]
  | true =>
    obtain ⟨c', tm', h1, hsid⟩ := atFrag_closed h
    have h2 : ((s.closed (.frag cid t fn) th).modTeam cid t (fun x => { x with nextSid := tm.nextSid + 1 })).cur =
        some (.frag cid t fn) := h1.cur
    simp only [moveWhole, newSid, ↓reduceIte, M_bind, M_pure, closeWindows_ok h.turn (hf rfl), me_ok h1.cur, myTeam_ok h1, hsid,
      modTeam_ok h1.cur, modTh_ok h2, goto, State.spanOpened]

/-! ### BRC -/

/-- A uniform conditional branch whose target and join can be read comes to its flow checks. -/
theorem branchIf_eq {s s1 : State} {ag : Agent} {th : Thread} (h : s.Turn ag th) {b : Bool} (l : Lbl) {tgt join : BitVec 17}
    (hh : s.headersAt ag ((if b then [targetOf th tgt] else []) ++ (if join = 0 then [] else [targetOf th join])) = some s1) :
    branchIf b l tgt join s =
      (do let sp ← flowCheck l (join != 0); moveWhole b (targetOf th tgt) (targetOf th join) sp : M Done) s1 := by
  rw [branchIf, M_bind_ok (myTh_ok h)]
  exact M_bind_ok (checkHeaders_ok h hh).1

/-- A branch that needs no span (R58). -/
theorem branchIf_unlabelled {s s1 : State} {ag : Agent} {th : Thread} (h : s.Turn ag th) {b : Bool} {l : Lbl}
    {tgt join : BitVec 17}
    (hh : s.headersAt ag ((if b then [targetOf th tgt] else []) ++ (if join = 0 then [] else [targetOf th join])) = some s1)
    (hu : s.unlabelled ag th l = true) (hf : b = true → th.heldFree = true) :
    branchIf b l tgt join s = .ok { ctl := if b then .jump (targetOf th tgt).toNat else .next } (s1.moved ag th b) := by
  have r : SameRun s s1 := (checkHeaders_ok (ls := []) h hh).2
  have h1 := h.same r
  rw [branchIf_eq h l hh, M_bind_ok (flowCheck_ok h1 ((State.unlabelled_same r).trans hu) _)]
  exact moveWhole_ok h1 hf _ _

/-- The condition of a BRC on a uniform register. -/
theorem exec_brc_reg {s : State} {ag : Agent} {th : Thread} (h : s.Turn ag th) {k : BrKind} (hk : k = .nz ∨ k = .z) {a : Nat}
    (hi : s.mayIssue ag th [.s a] [] = true) (tgt join : BitVec 17) :
    exec (.brc k a tgt join) s = outcome s ag (branchIf (s.regTest ag k a) (s.readS ag a).lab tgt join s) := by
  refine (run_eq_outcome h.1 _).trans ?_
  rcases hk with rfl | rfl
  · simp only [M_bind, brName, issue_ok h hi, brCond, myTh_ok h, rdS_ok h.1, M_pure, State.regTest, reduceCtorEq, ↓reduceIte]
  · simp only [M_bind, brName, issue_ok h hi, brCond, myTh_ok h, rdS_ok h.1, M_pure, State.regTest, ↓reduceIte]

/-- The condition of a fragment's BRC. -/
theorem exec_brc {s : State} {cid t fn : Nat} {c : Crew} {tm : Team} {th : Thread} (h : s.AtFrag cid t fn c tm th) {k : BrKind}
    {a : Nat} (hi : s.mayIssue (.frag cid t fn) th [brName k a] [] = true) (tgt join : BitVec 17) :
    exec (.brc k a tgt join) s = outcome s (.frag cid t fn)
      (branchIf (s.brTest (.frag cid t fn) tm th k a).1 (s.brTest (.frag cid t fn) tm th k a).2 tgt join s) := by
  refine (run_eq_outcome h.cur _).trans ?_
  simp only [M_bind, issue_ok h.turn hi]
  cases k with
  | nz | z => simp only [brCond, M_bind, myTh_ok h.turn, rdS_ok h.cur, M_pure, State.brTest]
  | any | all => simp only [brCond, M_bind, myTh_ok h.turn, maskBits_ok h, maskLab_ok h, M_pure, State.brTest]

/-! ### LOOP -/

/-- What LOOP does once its checks of headers and of its own write have passed and its label is formed. -/
def loopRest (a : Nat) (tgt join : BitVec 17) (th : Thread) (v : Word) (l : Lbl) : M Done := do
  let sp ← flowCheck l (join != 0)
  if v != 0 then closeWindows else pure ()
  writeS a v l
  moveWhole (v != 0) (targetOf th tgt) (targetOf th join) sp

/-- LOOP branches while the count is not at its end. -/
theorem count_ne_zero (v : Word) : (v - 1 != 0) = decide (v ≠ 1) := by
  rw [bne, decide_not, Bool.not_eq_eq_eq_not, Bool.not_not, Bool.beq_eq_decide_eq, decide_eq_decide]
  exact sub_eq_zero

section
variable {s s1 s2 : State} {ag : Agent} {th : Thread} (h : s.Turn ag th) {a : Nat} {tgt join : BitVec 17} {l : Lbl}
  {tab : List (BitVec 64)} (hi : s.mayIssue ag th [.s a] [.s a] = true)
  (hh : s.headersAt ag ((if (s.readS ag a).val ≠ 1 then [targetOf th tgt] else []) ++
    (if join = 0 then [] else [targetOf th join])) = some s1)
  (hj : s1.joined ag [(s1.readS ag a).lab, th.pcl] = some (l, tab)) (h2 : s2 = s1.setLabels (s.ctxOf ag) tab)
include h hi hh hj h2

theorem exec_loop : exec (.loop a tgt join) s = outcome s ag (loopRest a tgt join th ((s.readS ag a).val - 1) l s2) := by
  have hi0 : s.mayIssue ag th [.s a] [] = true := mayIssue_mono hi (by simp) (by simp)
  have hv := count_ne_zero (s.readS ag a).val
  obtain ⟨hc, r⟩ := checkHeaders_ok (ls := []) h hh
  have h1 := h.same r
  have hl : labelU [a] s1 = .ok l s2 := by
    rw [h2, ← ctxOf_same r]
    exact labelU_ok h1 hj
  refine (run_eq_outcome h.1 _).trans ?_
  simp only [M_bind, issue_ok h hi0, myTh_ok h, valS_ok h.1, hv, decide_eq_true_eq, hc, declared_of_mayIssue hi h1, hl, loopRest]
end

/-- The count and the windows of a LOOP whose flow checks have passed. -/
def counted (s : State) (ag : Agent) (th : Thread) (a : Nat) (v : Word) (l : Lbl) : State :=
  (if v ≠ 1 then s.closed ag th else s).writeS ag a { val := v - 1, lab := l }

/-- The thread of a LOOP once its windows have ended. -/
def loopThread (th : Thread) (v : Word) : Thread := if v ≠ 1 then { th with pend := [] } else th

theorem loopRest_eq {s s2 : State} {ag : Agent} {th : Thread} (h : s2.Turn ag th) {a : Nat} {tgt join : BitVec 17} {l : Lbl} {v : Word}
    {sp : Option (OpenSpan × Lbl)} (hf : flowCheck l (join != 0) s = .ok sp s2) (hw : v ≠ 1 → th.heldFree = true) :
    loopRest a tgt join th (v - 1) l s =
      moveWhole (decide (v ≠ 1)) (targetOf th tgt) (targetOf th join) sp (counted s2 ag th a v l) := by
  rw [loopRest, M_bind_ok hf, count_ne_zero]
  by_cases hv : v = 1
  · simp only [hv, ne_eq, not_true_eq_false, decide_false, Bool.false_eq_true, ↓reduceIte, M_bind, writeS_ok h.1, counted]
  · simp only [hv, ne_eq, not_false_eq_true, decide_true, ↓reduceIte, M_bind, closeWindows_ok h (hw hv),
      writeS_ok ((closed_cur ..).trans h.1), counted]

theorem turn_counted {s : State} {ag : Agent} {th : Thread} (h : s.Turn ag th) (a : Nat) (v : Word) (l : Lbl) :
    (counted s ag th a v l).Turn ag (loopThread th v) := by
  unfold counted loopThread
  split
  · exact turn_writeS (turn_closed h) _ _
  · exact turn_writeS h _ _

theorem atFrag_counted {s : State} {cid t fn : Nat} {c : Crew} {tm : Team} {th : Thread} (h : s.AtFrag cid t fn c tm th) (a : Nat)
    (v : Word) (l : Lbl) : ∃ c' tm', (counted s (.frag cid t fn) th a v l).AtFrag cid t fn c' tm' (loopThread th v) ∧
      tm'.nextSid = tm.nextSid := by
  have hsid : ∀ tm0, (writtenTeam tm0 a { val := v - 1, lab := l }).nextSid = tm0.nextSid := fun tm0 => by
    obtain ⟨-, -, -, -, -, hn⟩ := writtenTeam_keeps tm0 a { val := v - 1, lab := l }
    exact hn
  unfold counted loopThread
  split
  · obtain ⟨c1, tm1, h1, hn⟩ := atFrag_closed h
    obtain ⟨c2, h2⟩ := atFrag_writeS h1 a { val := v - 1, lab := l }
    exact ⟨c2, _, h2, (hsid tm1).trans hn⟩
  · obtain ⟨c2, h2⟩ := atFrag_writeS h a { val := v - 1, lab := l }
    exact ⟨c2, _, h2, hsid tm⟩

/-- A LOOP's windows have ended before it moves the fragment. -/
theorem closed_counted (s : State) (ag : Agent) (th : Thread) (v : Word) :
    (if decide (v ≠ 1) = true then s.closed ag (loopThread th v) else s) = s := by
  split
  · next hv => exact closed_of_empty (by rw [loopThread, if_pos (of_decide_eq_true hv)])
  · rfl

theorem heldFree_loopThread (th : Thread) {v : Word} (hv : decide (v ≠ 1) = true) : (loopThread th v).heldFree = true := by
  rw [loopThread, if_pos (of_decide_eq_true hv)]
  rfl

/-! ### BRX, BRV and RET -/

/-- BRX comes to its flow checks once its target can be read. -/
theorem exec_brx {s s1 : State} {ag : Agent} {th : Thread} (h : s.Turn ag th) {a : Nat} (hi : s.mayIssue ag th [.s a] [] = true)
    (hh : s.headersAt ag [((s.readS ag a).val.toNat : Int)] = some s1) :
    exec (.brx a) s = outcome s ag
      ((do let sp ← flowCheck (s.readS ag a).lab false; moveWhole true (s.readS ag a).val.toNat 0 sp : M Done) s1) := by
  refine (run_eq_outcome h.1 _).trans ?_
  rw [M_bind_ok (issue_ok h hi), M_bind_ok (rdS_ok h.1 a)]
  exact congrArg _ (M_bind_ok (checkHeaders_ok h hh).1)

/-- BRV comes to its flow checks once its target and its join can be read. -/
theorem exec_brv_stops {s s1 : State} {cid t fn : Nat} {c : Crew} {tm : Team} {th : Thread} (h : s.AtFrag cid t fn c tm th)
    {m : Nat} {tgt join : BitVec 17} (hi : s.mayIssue (.frag cid t fn) th [.m m] [] = true)
    (hh : s.headersAt (.frag cid t fn) ((if th.exm &&& maskVal tm th m ≠ 0 then [targetOf th tgt] else []) ++ [targetOf th join]) =
      some s1) {e : Stop} (hf : flowCheck (maskLbl tm th m) true s1 = .error e s1) :
    exec (.brv m tgt join) s = outcome s (.frag cid t fn) (.error e s1) := by
  refine (run_eq_outcome h.cur _).trans ?_
  simp only [M_bind, issue_ok h.turn hi, myTh_ok h.turn, maskBits_ok h, maskLab_ok h, bne_iff_ne, ne_eq, ite_not,
    (checkHeaders_ok (ls := []) h.turn (by simpa only [ne_eq, ite_not] using hh)).1, hf]

/-- RET under a PC label that does not dominate lnk's raises a clearance fault (R58). -/
theorem exec_ret_trap {s s1 : State} {ag : Agent} {th : Thread} (h : s.Turn ag th) (hi : s.mayIssue ag th [.s 62] [] = true)
    (hh : s.headersAt ag [((s.readS ag 62).val.toNat : Int)] = some s1)
    (hd : (s.ctx (s.ctxOf ag)).dominates th.pcl (s.readS ag 62).lab = false) :
    exec .ret s = .next (s1.takeTrap ag { code := 0x0B, lanes := th.exm }) := by
  obtain ⟨hc, r⟩ := checkHeaders_ok (ls := [(s.readS ag 62).lab]) h hh
  have h1 := h.same r
  have hd1 : (s1.ctx (s1.ctxOf ag)).dominates th.pcl (s.readS ag 62).lab = false := by
    rw [ctxOf_same r, dominates_same r]
    exact hd
  refine (run_eq_outcome h.1 _).trans (Eq.trans (congrArg _ ?_) (outcome_trap rfl))
  simp only [M_bind, issue_ok h hi, myTh_ok h, rdS_ok h.1, hc, dominates_ok h1, hd1, Bool.false_eq_true, ↓reduceIte,
    trapU_error h1]

/-! ### Branches that need no span -/

theorem brx_next {s s1 : State} {ag : Agent} {th : Thread} (h : s.Turn ag th) {a : Nat} (hi : s.mayIssue ag th [.s a] [] = true)
    (hw : th.heldFree = true) (hh : s.headersAt ag [((s.readS ag a).val.toNat : Int)] = some s1)
    (hu : s.unlabelled ag th (s.readS ag a).lab = true) :
    exec (.brx a) s = .next (s.finish (s1.moved ag th true) ag { ctl := .jump (s.readS ag a).val.toNat }) := by
  have r : SameRun s s1 := (checkHeaders_ok (ls := []) h hh).2
  have h1 := h.same r
  rw [exec_brx h hi hh, M_bind_ok (flowCheck_ok h1 ((State.unlabelled_same r).trans hu) _), moveWhole_ok h1 (fun _ => hw)]
  rfl

/-- LOOP under a clearance and a PC label that dominate its count's label. -/
theorem loop_next {s s1 s2 : State} {ag : Agent} {th : Thread} (h : s.Turn ag th) {a : Nat} {tgt join : BitVec 17} {l : Lbl}
    {tab : List (BitVec 64)} (hi : s.mayIssue ag th [.s a] [.s a] = true) (hw : (s.readS ag a).val ≠ 1 → th.heldFree = true)
    (hh : s.headersAt ag ((if (s.readS ag a).val ≠ 1 then [targetOf th tgt] else []) ++
      (if join = 0 then [] else [targetOf th join])) = some s1)
    (hj : s1.joined ag [(s1.readS ag a).lab, th.pcl] = some (l, tab)) (h2 : s2 = s1.setLabels (s.ctxOf ag) tab)
    (hu : s2.unlabelled ag th l = true) :
    exec (.loop a tgt join) s = .next (s.finish
      ((counted s2 ag th a (s.readS ag a).val l).modThread ag (fun x => { x with armed := none })) ag
      { ctl := if (s.readS ag a).val ≠ 1 then .jump (targetOf th tgt).toNat else .next }) := by
  have r : SameRun s s1 := (checkHeaders_ok (ls := []) h hh).2
  have ht : s2.Turn ag th := h2 ▸ (h.same r).setLabels _ _
  rw [exec_loop h hi hh hj h2, loopRest_eq ht (flowCheck_ok ht hu _) hw,
    moveWhole_ok (turn_counted ht a _ l) (heldFree_loopThread th), State.moved, closed_counted]
  simp only [outcome, decide_eq_true_eq]

/-- Settles O10: each branch reads its headers, passes the flow checks without a span, and moves the fragment; LOOP has written
its count and ended its windows by then. -/
theorem conditionalBranches : Obligations.ConditionalBranches := by
  unfold Obligations.ConditionalBranches
  refine ⟨?_, ?_, ?_, ?_⟩
  · intro k a tgt join s s1 ag th hk h hi hu hw hh
    rw [exec_brc_reg h hk hi, branchIf_unlabelled h hh hu hw]
    rfl
  · intro k a tgt join s s1 cid t fn c tm th hk h hi hu hw hh
    have hname : brName k a = .m a := by
      rcases hk with rfl | rfl
      · rfl
      · rfl
    have hlab : (s.brTest (.frag cid t fn) tm th k a).2 = maskLbl tm th a := by
      rcases hk with rfl | rfl
      · rfl
      · rfl
    rw [exec_brc h (hname ▸ hi), branchIf_unlabelled h.turn hh (hlab ▸ hu) hw]
    rfl
  · exact fun a s s1 ag th h hi hw hh hu => brx_next h hi hw hh hu
  · exact fun a tgt join s s1 ag th l tab h hi hw hh hj hu => loop_next h hi hw hh hj rfl hu

end Sys2Proof.Machine.ExecModel
end

section
/-! PROOF. Labelled branches (R58 to R62, R105): O11. -/

namespace Sys2Proof.Machine.ExecModel

/-! ### Flow checks after reads of code -/

section
variable {s s1 : State} {ag : Agent} {th : Thread} (h : s.Turn ag th) (r : SameRun s s1) {l : Lbl}
include h r

theorem flowCheck_clearance_same (hc : (s.ctx (s.ctxOf ag)).dominates (s.clearOf ag) l = false) (j : Bool) :
    flowCheck l j s1 = .error (.trap { code := 0x0B, lanes := th.exm }) s1 :=
  flowCheck_clearance (h.same r) (by rw [ctxOf_same r, dominates_same r, clearOf_same r, hc]) j

theorem flowCheck_missing_same (hc : (s.ctx (s.ctxOf ag)).dominates (s.clearOf ag) l = true)
    (hp : (s.ctx (s.ctxOf ag)).dominates th.pcl l = false) {j : Bool} (hm : th.spanMissing j = true) :
    flowCheck l j s1 = .error (.trap { code := 0x0D, lanes := th.exm }) s1 :=
  flowCheck_missing (h.same r) (by rw [ctxOf_same r, dominates_same r, clearOf_same r, hc])
    (by rw [ctxOf_same r, dominates_same r, hp]) hm

theorem flowCheck_span_same (hc : (s.ctx (s.ctxOf ag)).dominates (s.clearOf ag) l = true)
    (hp : (s.ctx (s.ctxOf ag)).dominates th.pcl l = false) {sp : Span} (harm : th.armed = some sp)
    (hm : th.spanMissing true = false) {k : Lbl} {tab : List (BitVec 64)} (hj : s.joined ag [th.pcl, l] = some (k, tab)) :
    flowCheck l true s1 =
      .ok (some ({ span := sp, cond := l, groups := mgroups th.exm }, k)) (s1.setLabels (s.ctxOf ag) tab) := by
  rw [← ctxOf_same r]
  exact flowCheck_span (h.same r) (by rw [ctxOf_same r, dominates_same r, clearOf_same r, hc])
    (by rw [ctxOf_same r, dominates_same r, hp]) harm hm ((joined_same r ..).trans hj)
end

theorem clearOf_frag {s : State} {cid t fn : Nat} {c : Crew} {tm : Team} {th : Thread} (h : s.AtFrag cid t fn c tm th) :
    s.clearOf (.frag cid t fn) = tm.clear := by
  simp only [State.clearOf, h.team]

/-! ### BRC -/

/-- A labelled BRC opens the armed span. -/
theorem brc_opens {k : BrKind} {a : Nat} {tgt join : BitVec 17} {s s1 : State} {cid t fn : Nat} {c : Crew} {tm : Team} {th : Thread}
    {sp : Span} {l : Lbl} {tab : List (BitVec 64)} (h : s.AtFrag cid t fn c tm th)
    (hi : s.mayIssue (.frag cid t fn) th [brName k a] [] = true) (hw : th.heldFree = true) (hjoin : join ≠ 0)
    (hh : s.headersAt (.frag cid t fn) ((if (s.brTest (.frag cid t fn) tm th k a).1 then [targetOf th tgt] else []) ++
      [targetOf th join]) = some s1)
    (hc : (s.ctx c.vf).dominates tm.clear (s.brTest (.frag cid t fn) tm th k a).2 = true)
    (hp : (s.ctx c.vf).dominates th.pcl (s.brTest (.frag cid t fn) tm th k a).2 = false)
    (harm : th.armed = some sp) (hm : th.spanMissing true = false)
    (hj : s.joined (.frag cid t fn) [th.pcl, (s.brTest (.frag cid t fn) tm th k a).2] = some (l, tab)) :
    exec (.brc k a tgt join) s = .next (s.finish
      ((((if (s.brTest (.frag cid t fn) tm th k a).1 then (s1.setLabels c.vf tab).closed (.frag cid t fn) th
          else s1.setLabels c.vf tab)).modTeam cid t (fun x => { x with nextSid := tm.nextSid + 1 })).spanOpened
        (.frag cid t fn) tm.nextSid (targetOf th join).toNat l
        { span := sp, cond := (s.brTest (.frag cid t fn) tm th k a).2, groups := mgroups th.exm }
        (s.brTest (.frag cid t fn) tm th k a).1) (.frag cid t fn)
      { ctl := if (s.brTest (.frag cid t fn) tm th k a).1 then .jump (targetOf th tgt).toNat else .next }) := by
  have hjb : (join != 0) = true := bne_iff_ne.mpr hjoin
  have hh' : s.headersAt (.frag cid t fn) ((if (s.brTest (.frag cid t fn) tm th k a).1 then [targetOf th tgt] else []) ++
      (if join = 0 then [] else [targetOf th join])) = some s1 := by rwa [if_neg hjoin]
  have r : SameRun s s1 := (checkHeaders_ok (ls := []) h.turn hh).2
  have h1 := h.same r
  rw [← h.ctx, ← clearOf_frag h] at hc
  rw [← h.ctx] at hp ⊢
  rw [exec_brc h hi, branchIf_eq h.turn _ hh', hjb, M_bind_ok (flowCheck_span_same h.turn r hc hp harm hm hj),
    moveWhole_span (h1.setLabels _ tab) (fun _ => hw)]
  rfl

/-- A fragment's BRC whose flow checks raise a fault takes it, with its place as it was. -/
theorem brc_stops {k : BrKind} {a : Nat} {tgt join : BitVec 17} {s s1 : State} {cid t fn : Nat} {c : Crew} {tm : Team} {th : Thread}
    (h : s.AtFrag cid t fn c tm th) (hi : s.mayIssue (.frag cid t fn) th [brName k a] [] = true)
    (hh : s.headersAt (.frag cid t fn) ((if (s.brTest (.frag cid t fn) tm th k a).1 then [targetOf th tgt] else []) ++
      (if join = 0 then [] else [targetOf th join])) = some s1) {x : Trap} (hx : (x.code == 0x10 && x.sub == 0) = false)
    (hf : flowCheck (s.brTest (.frag cid t fn) tm th k a).2 (join != 0) s1 = .error (.trap x) s1) :
    exec (.brc k a tgt join) s = .next (s1.takeTrap (.frag cid t fn) x) := by
  rw [exec_brc h hi, branchIf_eq h.turn _ hh, M_bind_error hf, outcome_trap hx]

/-! ### LOOP -/

section
variable {s s1 s2 : State} {ag : Agent} {th : Thread} (h : s.Turn ag th) {a : Nat} {tgt join : BitVec 17} {l : Lbl}
  {tab : List (BitVec 64)} (hi : s.mayIssue ag th [.s a] [.s a] = true)
  (hh : s.headersAt ag ((if (s.readS ag a).val ≠ 1 then [targetOf th tgt] else []) ++
    (if join = 0 then [] else [targetOf th join])) = some s1)
  (hj : s1.joined ag [(s1.readS ag a).lab, th.pcl] = some (l, tab)) (h2 : s2 = s1.setLabels (s.ctxOf ag) tab)
include h hi hh hj h2

/-- A LOOP whose flow checks raise a fault takes it, with its count as it was. -/
theorem loop_stops {x : Trap} (hx : (x.code == 0x10 && x.sub == 0) = false)
    (hf : flowCheck l (join != 0) s2 = .error (.trap x) s2) : exec (.loop a tgt join) s = .next (s2.takeTrap ag x) := by
  rw [exec_loop h hi hh hj h2, loopRest, M_bind_error hf, outcome_trap hx]

/-- A labelled LOOP of a fragment opens the armed span, with its count written and its windows ended. -/
theorem loop_opens {cid t fn : Nat} {c : Crew} {tm : Team} (hag : ag = .frag cid t fn) (hfrag : s2.AtFrag cid t fn c tm th)
    (hjoin : join ≠ 0) (hw : (s.readS ag a).val ≠ 1 → th.heldFree = true) {o : OpenSpan} {k : Lbl} {tab2 : List (BitVec 64)}
    (hf : flowCheck l true s2 = .ok (some (o, k)) (s2.setLabels c.vf tab2)) :
    exec (.loop a tgt join) s = .next (s.finish
      (((counted (s2.setLabels c.vf tab2) ag th a (s.readS ag a).val l).modTeam cid t
        (fun x => { x with nextSid := tm.nextSid + 1 })).spanOpened ag tm.nextSid (targetOf th join).toNat k o
        (decide ((s.readS ag a).val ≠ 1))) ag
      { ctl := if (s.readS ag a).val ≠ 1 then .jump (targetOf th tgt).toNat else .next }) := by
  have hjb : (join != 0) = true := bne_iff_ne.mpr hjoin
  have hl := hfrag.setLabels c.vf tab2
  rw [exec_loop h hi hh hj h2]
  subst hag
  obtain ⟨c', tm', hc, hsid⟩ := atFrag_counted hl a (s.readS (.frag cid t fn) a).val l
  rw [loopRest_eq hl.turn (hjb ▸ hf) hw, moveWhole_span hc (heldFree_loopThread th), closed_counted, hsid]
  simp only [outcome, decide_eq_true_eq]
end

/-! ### BRX -/

theorem brx_stops {s s1 : State} {ag : Agent} {th : Thread} (h : s.Turn ag th) {a : Nat} (hi : s.mayIssue ag th [.s a] [] = true)
    (hh : s.headersAt ag [((s.readS ag a).val.toNat : Int)] = some s1) {x : Trap} (hx : (x.code == 0x10 && x.sub == 0) = false)
    (hf : flowCheck (s.readS ag a).lab false s1 = .error (.trap x) s1) : exec (.brx a) s = .next (s1.takeTrap ag x) := by
  rw [exec_brx h hi hh, M_bind_error hf, outcome_trap hx]

/-- A branch with no join has no span to open. -/
theorem spanMissing_no_join (th : Thread) : th.spanMissing false = true := by
  unfold Thread.spanMissing
  cases th.armed with
  | none => rfl
  | some sp => rfl

/-- Settles O11: a labelled BRC or LOOP of a fragment opens its span after its checks; where a check fails, the fault comes before
the branch has written anything but the label table. -/
theorem labelledBranches : Obligations.LabelledBranches := by
  unfold Obligations.LabelledBranches
  refine ⟨?_, ?_, ?_, ?_, ?_, ?_⟩
  · exact fun k a tgt join s s1 cid t fn c tm th sp l tab h hi hw hjoin hh hc hp harm hm hj =>
      brc_opens h hi hw hjoin hh hc hp harm hm hj
  · intro k a tgt join s s1 cid t fn c tm th h hi hh
    have r : SameRun s s1 := (checkHeaders_ok (ls := []) h.turn hh).2
    rw [← h.ctx, ← clearOf_frag h]
    exact ⟨fun hc => brc_stops h hi hh rfl (flowCheck_clearance_same h.turn r hc _),
      fun hc hp hm => brc_stops h hi hh rfl (flowCheck_missing_same h.turn r hc hp hm)⟩
  · intro a tgt join s s1 s2 ag th l tab h hi hh hj h2
    have r : SameRun s s1 := (checkHeaders_ok (ls := []) h hh).2
    have ht : s2.Turn ag th := h2 ▸ (h.same r).setLabels _ _
    have hctx : s2.ctxOf ag = s.ctxOf ag := by rw [h2, State.setLabels_ctxOf, ctxOf_same r]
    have hclear : s2.clearOf ag = s.clearOf ag := by
      rw [h2, ← clearOf_same r]
      rfl
    refine ⟨fun hc => ?_, fun hc hp hm => ?_, fun cid t fn c tm sp k tab2 hag hfrag hjoin hw hc hp harm hm hk => ?_⟩
    · exact loop_stops h hi hh hj h2 rfl (flowCheck_clearance ht (by rw [hctx, hclear, hc]) _)
    · exact loop_stops h hi hh hj h2 rfl (flowCheck_missing ht (by rw [hctx, hclear, hc]) (by rw [hctx, hp]) hm)
    · subst hag
      have hfrag2 : s2.AtFrag cid t fn c tm th := h2 ▸ (hfrag.same r).setLabels _ _
      rw [← hfrag2.ctx, ← clearOf_frag hfrag2] at hc
      rw [← hfrag2.ctx] at hp
      have hf := flowCheck_span ht hc hp harm hm hk
      rw [hfrag2.ctx] at hf
      exact loop_opens h hi hh hj h2 rfl hfrag2 hjoin hw hf
  · intro a s s1 ag th h hi hh
    have r : SameRun s s1 := (checkHeaders_ok (ls := []) h hh).2
    exact ⟨fun hc => brx_stops h hi hh rfl (flowCheck_clearance_same h r hc _),
      fun hc hp => brx_stops h hi hh rfl (flowCheck_missing_same h r hc hp (spanMissing_no_join th))⟩
  · intro m tgt join s s1 cid t fn c tm th h hi hh
    have r : SameRun s s1 := (checkHeaders_ok (ls := []) h.turn hh).2
    rw [← h.ctx, ← clearOf_frag h]
    exact ⟨fun hc => (exec_brv_stops h hi hh (flowCheck_clearance_same h.turn r hc _)).trans (outcome_trap rfl),
      fun hc hp hm => (exec_brv_stops h hi hh (flowCheck_missing_same h.turn r hc hp hm)).trans (outcome_trap rfl)⟩
  · exact fun s s1 ag th h hi hh hd => exec_ret_trap h hi hh hd

end Sys2Proof.Machine.ExecModel
end

section
/-! PROOF. Barrier words (R56, R160 to R163): O35. -/

namespace Sys2Proof.Machine.ExecModel

/-! ### Whether an agent acts, and its uniform address -/

theorem acts_true {s : State} {ag : Agent} {th : Thread} (h : s.Turn ag th) (ha : Acts ag th) : acts s = .ok true s := by
  cases ag with
  | frag cid t fn => simp only [acts, M_bind, me_ok h.1, myTh_ok h, M_pure, bne_iff_ne.mpr ha]
  | seq cid x => simp only [acts, M_bind, me_ok h.1, M_pure]
  | sup k => simp only [acts, M_bind, me_ok h.1, M_pure]

theorem acts_false {s : State} {ag : Agent} {th : Thread} (h : s.Turn ag th) (ha : ¬ Acts ag th) : acts s = .ok false s := by
  cases ag with
  | frag cid t fn => simp only [acts, M_bind, me_ok h.1, myTh_ok h, M_pure, not_not.mp ha, bne_self_eq_false]
  | seq cid x => exact absurd trivial ha
  | sup k => exact absurd trivial ha

theorem claimLabel_ok {s : State} {ag : Agent} {th : Thread} (h : s.Turn ag th) : claimLabel s = .ok (s.claimLabs ag) s := by
  cases ag with
  | frag cid t fn =>
    obtain ⟨c, hc⟩ := h.crew (cid := cid) rfl
    simp only [claimLabel, inCommitPhase, M_bind, me_ok h.1, M_get, M_pure, State.team?, hc, Option.bind_some, State.claimLabs]
    split
    · simp only [M_bind, myCrew_ok h.1 rfl hc, M_pure]
    · rfl
  | seq cid x =>
    obtain ⟨c, hc⟩ := h.crew (cid := cid) rfl
    simp only [claimLabel, inCommitPhase, M_bind, me_ok h.1, getCrew_ok hc, M_pure, hc, State.claimLabs]
    split
    · simp only [M_bind, myCrew_ok h.1 rfl hc, M_pure]
    · rfl
  | sup k => simp only [claimLabel, inCommitPhase, M_bind, me_ok h.1, M_pure, Bool.false_eq_true, ↓reduceIte, State.claimLabs]

theorem uniAcc_ok {s : State} {ag : Agent} {th : Thread} (h : s.Turn ag th) (size a b : Nat) (ofs : Int) :
    uniAcc size a b ofs s = .ok (s.uniAccess ag size a b ofs) s := by
  simp only [uniAcc, M_bind, rdS_ok h.1, claimLabel_ok h, M_pure, State.uniAccess]

/-! ### Values that an unpaired agent obtains -/

/-- The agent's crew, if it has one, is unpaired. -/
def Unpaired (s : State) (ag : Agent) : Prop := ∀ cid, agentCid ag = some cid → ∃ c, kvFind s.crews cid = some c ∧ c.copy = .solo

theorem isTrail_unpaired {s : State} {ag : Agent} (h : s.cur = some ag) (hs : Unpaired s ag) : isTrail s = .ok false s := by
  cases hc : agentCid ag with
  | none => simp only [isTrail, M_bind, me_ok h, hc, M_pure]
  | some cid =>
    obtain ⟨c, hk, hsolo⟩ := hs cid hc
    have hne : (Copy.solo == Copy.trail) = false := rfl
    simp only [isTrail, M_bind, me_ok h, hc, getCrew_ok hk, hsolo, hne, M_pure]

theorem effScope_next {s : State} {ag : Agent} (h : s.cur = some ag) (sc : Scope) : ∃ sc', effScope sc s = .ok sc' s := by
  simp only [effScope, M_bind, me_ok h]
  split
  · exact ⟨_, rfl⟩
  · exact ⟨_, rfl⟩

theorem acquireTrail_unpaired {s : State} {ag : Agent} (h : s.cur = some ag) (hs : Unpaired s ag) (sc : Scope) :
    acquireTrail sc s = .ok ⟨⟩ s := by
  obtain ⟨sc', he⟩ := effScope_next h sc
  simp only [acquireTrail, M_bind, isTrail_unpaired h hs, he, Bool.false_and, Bool.false_eq_true, ↓reduceIte, M_pure]

theorem once_unpaired {s : State} {ag : Agent} {th : Thread} (h : s.Turn ag th) (hs : Unpaired s ag) (addrs : List Nat)
    (act : M (List Word)) : once addrs act s = act s := by
  cases hc : agentCid ag with
  | none => simp only [once, M_bind, me_ok h.1, hc]
  | some cid =>
    obtain ⟨c, hk, hsolo⟩ := hs cid hc
    simp only [once, M_bind, me_ok h.1, hc, getCrew_ok hk, myTh_ok h, hsolo]

/-! ### WBARA and WBARI -/

section
variable {s : State} {ag : Agent} {th : Thread} (h : s.Turn ag th) {scp : Scope} {d a b : Nat} {ofs : BitVec 18}
include h

theorem wbara_idle (hi : s.mayIssue ag th [.s a, .s b] [] = true) (ha : ¬ Acts ag th) :
    exec (.wbara scp a b ofs) s = .next (s.finish s ag {}) := by
  refine run_ok h.1 ?_
  simp only [M_bind, issue_ok h hi, acts_false h ha, Bool.false_eq_true, ↓reduceIte, done, M_pure]

theorem wbari_idle (hi : s.mayIssue ag th [.s a, .s b, .s d] [] = true) (ha : ¬ Acts ag th) :
    exec (.wbari scp d a b ofs) s = .next (s.finish s ag {}) := by
  refine run_ok h.1 ?_
  simp only [M_bind, issue_ok h hi, acts_false h ha, Bool.false_eq_true, ↓reduceIte, done, M_pure]

/-- WBARA is an arrival at the word that its checks have found. -/
theorem wbara_next (ha : Acts ag th) (hi : s.mayIssue ag th [.s a, .s b] [] = true) {w : WordAt} {s2 s3 : State} {e : Done}
    (hw : checkWord .atomic (s.uniAccess ag 4 a b ofs.toInt)
      (some (joinAll ((s.uniAccess ag 4 a b ofs.toInt).alab ++ [th.pcl]))) s = .ok w s2)
    (hu : updateWord .atomic scp .rel (s.uniAccess ag 4 a b ofs.toInt) 0 (bwArrive none) w s2 = .ok e s3) :
    exec (.wbara scp a b ofs) s = .next (s.finish s3 ag e) := by
  refine run_ok h.1 ?_
  simp only [M_bind, issue_ok h hi, acts_true h ha, ↓reduceIte, uniAcc_ok h, myPcl_ok h, hw, hu]

/-- WBARI stores the low half of its register at the word that its checks have found. -/
theorem wbari_next (ha : Acts ag th) (hi : s.mayIssue ag th [.s a, .s b, .s d] [] = true) {w : WordAt} {s2 s3 : State} {e : Done}
    (hw : checkWord .store (s.uniAccess ag 4 a b ofs.toInt)
      (some (joinAll ([(s.readS ag d).lab] ++ (s.uniAccess ag 4 a b ofs.toInt).alab ++ [th.pcl]))) s = .ok w s2)
    (hu : updateWord .store scp .rlx (s.uniAccess ag 4 a b ofs.toInt) (BitVec.ofNat 64 ((s.readS ag d).val.toNat % 2 ^ 32))
      (fun _ => (s.readS ag d).val.toNat % 2 ^ 32) w s2 = .ok e s3) :
    exec (.wbari scp d a b ofs) s = .next (s.finish s3 ag e) := by
  refine run_ok h.1 ?_
  simp only [M_bind, issue_ok h hi, acts_true h ha, ↓reduceIte, rdS_ok h.1, uniAcc_ok h, myPcl_ok h, hw, hu]

/-! ### WBARW -/

/-- What WBARW answers about a word. -/
def phaseWord (v : Nat) : Word := BitVec.ofNat 64 ((if bwErr v then 64 else 0) + bwFc v)

/-- WBARW on a word of the crew's scratchpad: it answers, or parks, once its label is formed. -/
theorem wbarw_pad {p : Bool} {cid : Nat} {c : Crew} {off : Nat} {l : Lbl} {tab : List (BitVec 64)} (hc : agentCid ag = some cid)
    (hk : kvFind s.crews cid = some c) (hi : s.mayIssue ag th [.s a, .s b] [.s d] = true)
    (hw : checkWord .load (s.uniAccess ag 4 a b ofs.toInt) none s = .ok (.pad off) s)
    (hj : s.joined ag [c.body.pad.lab (padLine off), th.pcl] = some (l, tab)) :
    exec (.wbarw scp p d a b ofs) s = outcome s ag (if bwPh (c.body.pad.nat off 4) = p
      then .error (.park .word) (s.setLabels (s.ctxOf ag) tab)
      else .ok {} ((s.setLabels (s.ctxOf ag) tab).writeS ag d { val := phaseWord (c.body.pad.nat off 4), lab := l })) := by
  have h1 := h.setLabels (s.ctxOf ag) tab
  have hk1 : kvFind (s.setLabels (s.ctxOf ag) tab).crews cid = some c := hk
  refine (run_eq_outcome h.1 _).trans (congrArg _ ?_)
  simp only [M_bind, issue_ok h hi, uniAcc_ok h, hw, myCrew_ok h.1 hc hk, M_pure, myPcl_ok h, joinAll_ok h hj, myCrew_ok h1.1 hc hk1,
    beq_iff_eq]
  by_cases hp : bwPh (c.body.pad.nat off 4) = p
  · simp only [hp, ↓reduceIte, M_bind, M_throw]
  · simp only [hp, ↓reduceIte, M_bind, M_pure, writeS_ok h1.1, done, phaseWord]

section
variable {x : Loc} {p : Bool} {v : Nat} {s2 s3 s4 : State} {out : List Bool} {l : Lbl} {tab : List (BitVec 64)}
  (hi : s.mayIssue ag th [.s a, .s b] [.s d] = true)
  (hw : checkWord .load (s.uniAccess ag 4 a b ofs.toInt) none s = .ok (.mem x) s2) (h2 : s2.Turn ag th)
  (hj : s2.joined ag [s2.granLab x.line, th.pcl] = some (l, tab)) (h3 : s3 = s2.setLabels (s2.ctxOf ag) tab)
  (hs : Unpaired s2 ag) (ho : fromOutside 4 [x] s3 = .ok out s3) (hv : loadLoc scp .acq 4 x s3 = .ok v s4)
include hi hw h2 hj h3 hs ho hv

/-- WBARW on a word in memory whose phase is its own waits. -/
theorem wbarw_mem_waits (hp : bwPh v = p) (hf : th.heldFree = true) :
    exec (.wbarw scp p d a b ofs) s = .next (s4.parkThread ag (keepPair (s4.parkOf ag) .word)) := by
  have ht3 : s3.Turn ag th := h3 ▸ h2.setLabels _ _
  have hs3 : Unpaired s3 ag := by
    rw [h3]
    exact hs
  refine run_park h hf ?_
  simp only [M_bind, issue_ok h hi, uniAcc_ok h, hw, M_get, M_pure, myPcl_ok h2, joinAll_ok h2 hj, ← h3, onceLogged, ho,
    once_unpaired ht3 hs3, hv, hp, beq_self_eq_true, ↓reduceIte, M_throw]

/-- WBARW on a word in memory whose phase differs answers, and its core acquires. -/
theorem wbarw_mem_next {s5 : State} (hp : bwPh v ≠ p) (hlt : v < 2 ^ 32)
    (hr : recordHere 2 ((([BitVec.ofNat 64 v].zip out).filter Prod.snd).map Prod.fst) s4 = .ok ⟨⟩ s5) (hc5 : s5.cur = some ag)
    (hs5 : Unpaired s5 ag) :
    exec (.wbarw scp p d a b ofs) s = .next (s.finish (s5.writeS ag d { val := phaseWord v, lab := l }) ag {}) := by
  have ht3 : s3.Turn ag th := h3 ▸ h2.setLabels _ _
  have hs3 : Unpaired s3 ag := by
    rw [h3]
    exact hs
  have hv64 : (BitVec.ofNat 64 v).toNat = v := by
    rw [BitVec.toNat_ofNat]
    omega
  refine run_ok h.1 ?_
  simp only [M_bind, issue_ok h hi, uniAcc_ok h, hw, M_get, M_pure, myPcl_ok h2, joinAll_ok h2 hj, ← h3, onceLogged, ho,
    once_unpaired ht3 hs3, hv, beq_eq_false_iff_ne.mpr hp, Bool.false_eq_true, ↓reduceIte, hr, acquireTrail_unpaired hc5 hs5,
    List.headD_cons, hv64, writeS_ok hc5, done, phaseWord]
end
end

/-- Settles O35: the arrivals and the store follow from their checks and their update; WBARW compares the phase of the word that it
has read, in the scratchpad or in memory. -/
theorem barrierWords : Obligations.BarrierWords := by
  unfold Obligations.BarrierWords
  intro scp p d a b ofs s s2 ag th w l tab h
  refine ⟨wbara_idle h, wbari_idle h, fun e s3 ha hi hw hu => wbara_next h ha hi hw hu,
    fun e s3 ha hi hw hu => wbari_next h ha hi hw hu, ?_, ?_⟩
  · intro cid c off hc hk hi hw hj
    have hexec := wbarw_pad (scp := scp) (p := p) h hc hk hi hw hj
    refine ⟨fun hp => hexec.trans (by rw [if_neg hp]; rfl), fun hp hf => ?_⟩
    rw [hexec, if_pos hp, outcome_park h hf, State.parkOf, State.setLabels_thread, h.2]
  · intro x v s3 s4 s5 out hi hw h2 hj h3 hs ho hv hlt
    exact ⟨fun hp hr hc5 hs5 => wbarw_mem_next h hi hw h2 hj h3 hs ho hv hp hlt hr hc5 hs5,
      fun hp hf => wbarw_mem_waits h hi hw h2 hj h3 hs ho hv hp hf⟩

end Sys2Proof.Machine.ExecModel
end

section
/-! SUPPORT. Who has the turn after a commit point: the agent that had it, with its crew in its context, or nobody, where the commit
point has ended the agent's own cast (R326, R391). -/

namespace Sys2Proof.Machine.ExecModel

/-! ### What leaves the turn and every crew's context -/

/-- The turn is the same agent's, and every crew is there as before, in its context. -/
def SameTurn (s t : State) : Prop :=
  t.cur = s.cur ∧ ∀ k, (kvFind t.crews k).map Crew.vf = (kvFind s.crews k).map Crew.vf

theorem SameTurn.refl (s : State) : SameTurn s s := ⟨rfl, fun _ => rfl⟩
theorem SameTurn.trans {s t u : State} (h : SameTurn s t) (k : SameTurn t u) : SameTurn s u :=
  ⟨k.1.trans h.1, fun j => (k.2 j).trans (h.2 j)⟩
theorem SameTurn.ite {s x y : State} (c : Prop) [Decidable c] (h : SameTurn s x) (k : SameTurn s y) :
    SameTurn s (if c then x else y) := by
  split <;> assumption
theorem SameTurn.foldl {α : Type} (f : State → α → State) (hf : ∀ s x, SameTurn s (f s x)) (l : List α) :
    ∀ s, SameTurn s (l.foldl f s) := by
  induction l with
  | nil => exact SameTurn.refl
  | cons x xs ih => exact fun s => (hf s x).trans (ih _)

theorem sameTurn_of_crews {s t : State} (h0 : t.cur = s.cur) (h1 : t.crews = s.crews) : SameTurn s t :=
  ⟨h0, fun _ => by rw [h1]⟩
theorem sameTurn_run {s t : State} (h : SameRun s t) : SameTurn s t := by
  obtain ⟨hcur, hcrews, -⟩ := h
  exact sameTurn_of_crews hcur hcrews

theorem sameTurn_modCrew (s : State) (cid : Nat) {f : Crew → Crew} (hf : ∀ c, (f c).vf = c.vf) : SameTurn s (s.modCrew cid f) := by
  refine ⟨rfl, fun k => ?_⟩
  rw [State.crew_modCrew]
  split
  · next hk =>
    rw [hk, Option.map_map]
    exact congrArg (fun g => (kvFind s.crews cid).map g) (funext hf)
  · rfl

theorem kvFind_mapVals {β γ : Type} (f : Nat × β → γ) (m : KV β) (k : Nat) :
    kvFind (m.map (fun e => (e.1, f e))) k = (kvFind m k).map (fun v => f (k, v)) := by
  induction m with
  | nil => rfl
  | cons e rest ih =>
    obtain ⟨a, v⟩ := e
    rw [List.map_cons, kvFind, kvFind, ih]
    by_cases hk : k = a
    · rw [if_pos hk, if_pos hk, hk, Option.map_some]
    · rw [if_neg hk, if_neg hk]

theorem sameTurn_spoil (s : State) (lines : List Nat) : SameTurn s (s.spoil lines) := by
  refine SameTurn.ite _ (SameTurn.refl s) ⟨rfl, fun k => ?_⟩
  rw [kvFind_mapVals, Option.map_map]
  refine congrArg (fun g => (kvFind s.crews k).map g) (funext fun c => ?_)
  simp only [Function.comp_apply]
  split <;> rfl

theorem sameTurn_dropStashOf (s : State) (line k : Nat) : SameTurn s (s.dropStashOf line k) := sameTurn_modCrew s k fun _ => rfl
theorem sameTurn_dropStash (s : State) (keep : List Nat) (line : Nat) : SameTurn s (s.dropStash keep line) :=
  SameTurn.foldl (fun t k => t.dropStashOf line k) (fun t k => sameTurn_dropStashOf t line k) _ s
theorem sameTurn_dropMates (s : State) (cl core line : Nat) (but : Option Nat) : SameTurn s (s.dropMates cl core line but) :=
  SameTurn.foldl (fun t k => t.dropStashOf line k) (fun t k => sameTurn_dropStashOf t line k) _ s
theorem sameTurn_tell (s : State) (vf line : Nat) : SameTurn s (s.tell vf line) :=
  SameTurn.ite _ (sameTurn_of_crews rfl rfl) (SameTurn.refl s)
theorem sameTurn_noteOrigin (s : State) (cid : Nat) (bs : List (Nat × Byte)) : SameTurn s (s.noteOrigin cid bs) :=
  SameTurn.ite _ (sameTurn_of_crews rfl rfl) (SameTurn.refl s)
theorem sameTurn_dropOrigin (s : State) (bs : List (Nat × Byte)) : SameTurn s (s.dropOrigin bs) :=
  SameTurn.ite _ (SameTurn.refl s) (sameTurn_of_crews rfl rfl)
theorem sameTurn_l1Enter (s : State) (cl core : Nat) (lines : List Nat) : SameTurn s (s.l1Enter cl core lines) :=
  SameTurn.ite _ (SameTurn.refl s) (sameTurn_of_crews rfl rfl)

theorem sameTurn_modL1 (s : State) (cl core : Nat) (f : L1 → L1) : SameTurn s (s.modL1 cl core f) := sameTurn_of_crews rfl rfl
theorem sameTurn_commitBytes (s : State) (cl core cid : Nat) (bs : List (Nat × Byte)) :
    SameTurn s (s.commitBytes cl core cid bs) := sameTurn_of_crews rfl rfl
theorem sameTurn_notices (s : State) (n : List Notice) (p : List Nat) : SameTurn s { s with notices := n, poison := p } :=
  sameTurn_of_crews rfl rfl

theorem sameTurn_performFor (s : State) (vfs keep : List Nat) (bs : List (Nat × Byte)) (ms : Bool) :
    SameTurn s (s.performFor vfs keep bs ms) := by
  simp only [State.performFor]
  refine ((sameTurn_run (setHomeBytes_frame bs s).1).trans (sameTurn_spoil _ _)).trans
    ((SameTurn.foldl _ (fun t l => ?_) _ _).trans ((SameTurn.foldl _ (fun t l => ?_) _ _).trans (sameTurn_dropOrigin _ _)))
  · exact SameTurn.trans (SameTurn.foldl _ (fun u v => (SameTurn.ite _ (sameTurn_run (slicesOnly_meterLine ..).sameRun)
      (sameTurn_run (slicesOnly_markDirty ..).sameRun)).trans (sameTurn_tell ..)) vfs t) (sameTurn_dropStash ..)
  · exact SameTurn.ite _ (sameTurn_of_crews rfl rfl) (SameTurn.refl t)

/-! ### Commit windows and write-through -/

theorem sameTurn_commitStores (s : State) (cid : Nat) (c : Crew) (own : List (Nat × Byte)) (p : Pad) :
    SameTurn s (s.commitStores cid c own p) := by
  simp only [State.commitStores]
  refine SameTurn.trans ?_ (SameTurn.foldl _ (fun t l => sameTurn_dropMates t ..) _ _)
  refine (sameTurn_l1Enter s c.cl c.core p.dirtyGlobal).trans ?_
  generalize s.l1Enter c.cl c.core p.dirtyGlobal = t
  exact (sameTurn_commitBytes t c.cl c.core cid (own ++ p.dirtyBytes)).trans (sameTurn_modL1 _ c.cl c.core _)

theorem sameTurn_writeRecord (s : State) (cid : Nat) : SameTurn s (s.writeRecord cid) := by
  unfold State.writeRecord
  split
  · exact SameTurn.refl s
  · split
    · exact SameTurn.refl s
    · refine SameTurn.trans ?_ (sameTurn_run (slicesOnly_markDirty ..).sameRun)
      exact sameTurn_of_crews rfl rfl

theorem sameTurn_commitWindow (s : State) (cid : Nat) : SameTurn s (s.commitWindow cid) := by
  unfold State.commitWindow
  split
  · exact SameTurn.refl s
  · refine SameTurn.trans ?_ (sameTurn_writeRecord _ cid)
    exact (sameTurn_commitStores ..).trans (sameTurn_modCrew _ cid fun _ => rfl)

theorem sameTurn_wtPut (s : State) (cl core line : Nat) : SameTurn s (s.wtPut cl core line) := by
  unfold State.wtPut
  dsimp only
  refine SameTurn.ite _ (SameTurn.refl s) (SameTurn.trans ?_ (sameTurn_notices ..))
  have hput : ∀ vfs keep bs f, SameTurn s ((s.modL1 cl core f).performFor vfs keep bs) :=
    fun _ _ _ _ => (sameTurn_modL1 ..).trans (sameTurn_performFor ..)
  split
  · exact (hput ..).trans (sameTurn_noteOrigin ..)
  · exact hput ..

/-! ### Casts that end -/

/-- Nobody has the turn, or an agent has it whose crew is there, in its context. -/
def TurnKept (ag : Agent) (cid v : Nat) (s : State) : Prop :=
  s.cur = none ∨ s.cur = some ag ∧ (kvFind s.crews cid).map Crew.vf = some v

theorem TurnKept.same {ag : Agent} {cid v : Nat} {s t : State} (h : TurnKept ag cid v s) (k : SameTurn s t) : TurnKept ag cid v t := by
  obtain ⟨hcur, hcrews⟩ := k
  unfold TurnKept
  rw [hcur, hcrews]
  exact h

theorem TurnKept.foldl {α : Type} {ag : Agent} {cid v : Nat} (f : State → α → State)
    (hf : ∀ s x, TurnKept ag cid v s → TurnKept ag cid v (f s x)) (l : List α) :
    ∀ s, TurnKept ag cid v s → TurnKept ag cid v (l.foldl f s) := by
  induction l with
  | nil => exact fun _ h => h
  | cons x xs ih => exact fun s h => ih _ (hf s x h)

section
variable {ag : Agent} {cid v : Nat} (hag : agentCid ag = some cid)
include hag

/-- The turn of a crew's agents ends with it. -/
theorem turnKept_dropTurn {s : State} {k : Nat} (h : s.cur = none ∨ s.cur = some ag ∧
    (cid ≠ k → (kvFind s.crews cid).map Crew.vf = some v)) : TurnKept ag cid v (s.dropTurn k) := by
  unfold State.dropTurn
  rcases h with h0 | ⟨hcur, hcrew⟩
  · simp only [h0]
    exact .inl h0
  · simp only [hcur, hag, beq_iff_eq, Option.some.injEq]
    by_cases hk : cid = k
    · rw [if_pos hk]
      exact .inl rfl
    · rw [if_neg hk]
      exact .inr ⟨hcur, hcrew hk⟩

/-- A crew that goes takes the turn of its own agents with it. -/
theorem turnKept_removeCrew (s : State) (k : Nat) (h : TurnKept ag cid v s) : TurnKept ag cid v (s.removeCrew k) := by
  have hcancel : SameTurn s (s.cancelOps k) := by
    unfold State.cancelOps
    split
    · exact SameTurn.refl s
    · exact sameTurn_of_crews rfl rfl
  have h1 := h.same hcancel
  unfold State.removeCrew
  split
  · exact h
  · refine turnKept_dropTurn hag (h1.imp_right fun h2 => ⟨h2.1, fun hk => ?_⟩)
    exact (congrArg _ ((kvFind_kvDel _ k cid).trans (if_neg hk))).trans h2.2

theorem turnKept_abortCrew (s : State) (k code : Nat) (d : Word) (h : TurnKept ag cid v s) :
    TurnKept ag cid v (s.abortCrew k code d) := by
  unfold State.abortCrew
  split
  · next c _ =>
    simp only [State.endCast]
    have h1 := TurnKept.foldl State.removeCrew (turnKept_removeCrew hag) (s.castCrews c.vf c.key) s h
    generalize (s.castCrews c.vf c.key).foldl State.removeCrew s = t at h1
    refine h1.same (SameTurn.trans ?_ (sameTurn_of_crews rfl rfl))
    split
    · exact SameTurn.ite _ (sameTurn_of_crews rfl rfl) (sameTurn_of_crews rfl rfl)
    · exact SameTurn.ite _ (SameTurn.refl t) (sameTurn_of_crews rfl rfl)
  · exact h

/-! ### Commit points -/

theorem turnKept_forceHolders (n : Nat) : ∀ (s : State) (but : List Nat) (line : Nat), TurnKept ag cid v s →
    TurnKept ag cid v (s.forceHolders n but line) := by
  induction n with
  | zero => exact fun _ _ _ h => h
  | succ n ih =>
    intro s but line h
    refine TurnKept.foldl _ (fun t k ht => ?_) _ s h
    split
    · exact turnKept_abortCrew hag t k _ _ ht
    · split
      · exact ht
      · exact TurnKept.foldl _ (fun u l hu => (ih u _ l hu).same (sameTurn_wtPut ..)) _ _ (ht.same (sameTurn_commitWindow ..))

theorem turnKept_commitNow (s : State) (h : TurnKept ag cid v s) : TurnKept ag cid v (s.commitNow cid) := by
  refine TurnKept.same ?_ (sameTurn_commitWindow ..)
  unfold State.wtCrew
  split
  · exact TurnKept.foldl _ (fun t l ht => (turnKept_forceHolders hag _ t _ l ht).same (sameTurn_wtPut ..)) _ s h
  · exact h
end

end Sys2Proof.Machine.ExecModel
end

section
/-! PROOF. ENDORSE and DECL (R64 to R66, R120, R121): O38. -/

namespace Sys2Proof.Machine.ExecModel

/-! ### Operations that are never undone, of an unpaired crew -/

theorem trapU_info_error {α : Type} {s : State} {ag : Agent} {th : Thread} (h : s.Turn ag th) (code sub : Nat) (info : Option Word) :
    (trapU code sub info : M α) s = .error (.trap { code := code, sub := sub, lanes := th.exm, info := info }) s := by
  simp only [trapU, M_bind, myTh_ok h, M_throw]

theorem owners_ok {s : State} {ag : Agent} {th : Thread} (h : s.Turn ag th) (l : Lbl) :
    owners l s = .ok ((s.ctx (s.ctxOf ag)).owners l) s := by
  simp only [owners, M_bind, M_get, myVf_ok h, M_pure]

theorem myVf_of_crew {s : State} {ag : Agent} {cid : Nat} {c : Crew} (h : s.cur = some ag) (hc : agentCid ag = some cid)
    (hk : kvFind s.crews cid = some c) : myVf s = .ok c.vf s := by
  cases ag with
  | frag k t fn => simp only [myVf, myVf?, M_bind, me_ok h, hc, getCrew_ok hk, M_pure, Option.getD_some]
  | seq k x => simp only [myVf, myVf?, M_bind, me_ok h, hc, getCrew_ok hk, M_pure, Option.getD_some]
  | sup k => exact absurd hc (by simp only [agentCid, reduceCtorEq, not_false_eq_true])

section
variable {s : State} {cid t fn : Nat} {c : Crew} {tm : Team} {th : Thread} (h : s.AtFrag cid t fn c tm th)
include h

theorem myAuth_ok : myAuth s = .ok tm.auth s := by
  simp only [myAuth, M_bind, me_ok h.cur, myTeam_ok h, M_pure]

theorem acts_frag : acts s = .ok (th.exm != 0) s := by
  simp only [acts, M_bind, me_ok h.cur, myTh_ok h.turn, M_pure]

theorem isPaired_solo (hs : c.copy = .solo) : isPaired s = .ok false s := by
  simp only [isPaired, M_bind, me_ok h.cur, agentCid, getCrew_ok h.crew, hs, M_pure, bne_self_eq_false]

theorem commitHere_ok (hm : s.mayCommit cid c = true) : commitHere s = .ok ⟨⟩ (s.commitNow cid) := by
  simp only [State.mayCommit, Bool.and_eq_true, Bool.not_eq_true'] at hm
  obtain ⟨⟨hs, hw⟩, hg⟩ := hm
  simp only [commitHere, M_bind, me_ok h.cur, agentCid, getCrew_ok h.crew, myTh_ok h.turn, hs, ↓reduceIte, M_get, hw,
    Bool.false_eq_true, hg, M_modify]

/-- The operation is not performed where its checks deny it. -/
theorem irrevocable_denied (hs : c.copy = .solo) (addr : Nat) {check : M Nat} (eff : M Unit) {r : Nat} (hr : r ≠ 0) {u : State}
    (hc : check s = .ok r u) : irrevocable addr check eff s = .ok r u := by
  simp only [irrevocable, M_bind, isPaired_solo h hs, Bool.false_eq_true, ↓reduceIte, hc, hr, M_pure]

/-- The operation is performed behind a commit point. -/
theorem irrevocable_performed (hs : c.copy = .solo) (addr : Nat) {check : M Nat} {eff : M Unit} {u v w : State}
    (hc : check s = .ok 0 u) (hh : commitHere u = .ok ⟨⟩ v) (he : eff v = .ok ⟨⟩ w) : irrevocable addr check eff s = .ok 0 w := by
  simp only [irrevocable, M_bind, isPaired_solo h hs, Bool.false_eq_true, ↓reduceIte, hc, hh, he, M_pure]

/-- The context of a fragment that has the turn after its crew's commit point is as before. -/
theorem commitNow_vf (hcur : (s.commitNow cid).cur ≠ none) : myVf (s.commitNow cid) = .ok c.vf (s.commitNow cid) := by
  have hkept := turnKept_commitNow (ag := .frag cid t fn) (v := c.vf) rfl s (.inr ⟨h.cur, by rw [h.crew, Option.map_some]⟩)
  obtain ⟨hc, hk⟩ := hkept.resolve_left hcur
  obtain ⟨c', hk', hv⟩ := Option.map_eq_some_iff.mp hk
  rw [← hv]
  exact myVf_of_crew hc rfl hk'
end

theorem myEndorse_of_vf {s : State} {vf : Nat} (h : myVf s = .ok vf s) : myEndorse s = .ok (s.ctx vf).endorse s := by
  simp only [myEndorse, M_bind, M_get, h, M_pure]

theorem setEndorse_of_vf {s : State} {vf : Nat} (h : myVf s = .ok vf s) (e : List Endorse) :
    setEndorse e s = .ok ⟨⟩ (s.modCtx vf (fun x => { x with endorse := e })) := by
  simp only [setEndorse, M_bind, h, M_modify]

/-! ### ENDORSE -/

section
variable {s : State} {cid t fn : Nat} {c : Crew} {tm : Team} {th : Thread} (h : s.AtFrag cid t fn c tm th)
  (hi : s.mayIssue (.frag cid t fn) th [] [] = true) {site : BitVec 16} {count : BitVec 10}
include h hi

theorem endorse_idle (hx : th.exm = 0) : exec (.endorse site count) s = .next (s.finish s (.frag cid t fn) {}) := by
  refine run_ok h.cur ?_
  simp only [M_bind, issue_ok h.turn hi, acts_frag h, hx, bne_self_eq_false, Bool.not_false, ↓reduceIte, done, M_pure]

/-- With no authority, or under a PC label beyond it. -/
theorem endorse_denied (hx : th.exm ≠ 0) (ha : tm.auth = 0 ∨ (s.ctx c.vf).owners th.pcl &&& ~~~tm.auth ≠ 0) :
    exec (.endorse site count) s = .next (s.takeTrap (.frag cid t fn) { code := 0x0F, lanes := th.exm }) := by
  have hb : (decide (tm.auth = 0) || (s.ctx c.vf).owners th.pcl &&& ~~~tm.auth != 0) = true := by
    rw [Bool.or_eq_true, decide_eq_true_eq, bne_iff_ne]
    exact ha
  refine run_trap h.cur ?_ rfl
  simp only [M_bind, issue_ok h.turn hi, acts_frag h, bne_iff_ne.mpr hx, Bool.not_true, Bool.false_eq_true, ↓reduceIte, myAuth_ok h,
    myPcl_ok h.turn, owners_ok h.turn, h.ctx, hb, trapU_error h.turn]

/-- ENDORSE adds to the table that the commit point has left. -/
theorem endorse_next (hs : c.copy = .solo) {tabl : List Endorse} (hx : th.exm ≠ 0) (ha : tm.auth ≠ 0)
    (hp : (s.ctx c.vf).owners th.pcl &&& ~~~tm.auth = 0) (hm : s.mayCommit cid c = true)
    (hadd : addCounts site.toNat count.toNat (bitsOf tm.auth) (s.ctx c.vf).endorse = some tabl)
    (hsame : ((s.commitNow cid).ctx c.vf).endorse = (s.ctx c.vf).endorse) (hcur : (s.commitNow cid).cur = s.cur) :
    exec (.endorse site count) s = .next (s.finish ((s.commitNow cid).modCtx c.vf (fun x => { x with endorse := tabl }))
      (.frag cid t fn) { past := true }) := by
  have hb : (decide (tm.auth = 0) || (s.ctx c.vf).owners th.pcl &&& ~~~tm.auth != 0) = false := by
    rw [hp, decide_eq_false ha, bne_self_eq_false, Bool.or_self]
  have hvf : myVf s = .ok c.vf s := by rw [myVf_ok h.turn, h.ctx]
  have hvf1 := commitNow_vf h (by rw [hcur, h.cur]; exact Option.some_ne_none _)
  refine run_ok h.cur ?_
  simp only [M_bind, issue_ok h.turn hi, acts_frag h, bne_iff_ne.mpr hx, Bool.not_true, Bool.false_eq_true, ↓reduceIte, myAuth_ok h,
    myPcl_ok h.turn, owners_ok h.turn, h.ctx, hb]
  rw [irrevocable_performed h hs site.toNat (u := s)
    (w := (s.commitNow cid).modCtx c.vf (fun x => { x with endorse := tabl })) ?_ (commitHere_ok h hm) ?_]
  · simp only [↓reduceIte, donePast, M_pure]
  · simp only [M_bind, myEndorse_of_vf hvf, hadd, M_pure]
  · simp only [M_bind, myEndorse_of_vf hvf1, hsame, hadd, setEndorse_of_vf hvf1]
end

/-! ### Labels that cannot be formed -/

theorem joinAll_error {s t : State} {ag : Agent} {th : Thread} (h : s.Turn ag th) {ls : List Lbl} {e : Stop}
    (hj : joinAll ls s = .error e t) : t = s := by
  simp only [joinAll, M_bind, myVf_ok h, M_get] at hj
  cases hx : joinAllIn (s.ctx (s.ctxOf ag)).labels 0 ls with
  | none =>
    simp only [hx, trapU_error h, EStateM.Result.error.injEq] at hj
    exact hj.2.symm
  | some p =>
    simp only [hx, M_bind, M_modify, M_pure, reduceCtorEq] at hj

/-- Labels that cannot be formed leave the agents as they are. -/
theorem wordLabels_error {ag : Agent} {th : Thread} (tm : Team) (exm : Mask) (d : Nat) (labs : Nat → List Lbl) (gs : List Nat) :
    ∀ {s t : State} {e : Stop}, s.Turn ag th → wordLabels tm exm d labs gs s = .error e t →
      t.cur = s.cur ∧ t.crews = s.crews ∧ t.sups = s.sups := by
  induction gs with
  | nil => exact fun _ hw => nomatch hw
  | cons g gs ih =>
    intro s t e h hw
    rw [wordLabels, M_bind] at hw
    cases h1 : wordLabel tm.live exm g (tm.vlab d g) (labs g) s with
    | error e1 t1 =>
      simp only [h1, EStateM.Result.error.injEq] at hw
      obtain ⟨-, rfl⟩ := hw
      rw [wordLabel, M_bind] at h1
      cases hj : joinAll (labs g) s with
      | error e2 t2 =>
        simp only [hj, EStateM.Result.error.injEq] at h1
        rw [← h1.2, joinAll_error h hj]
        exact ⟨rfl, rfl, rfl⟩
      | ok w t2 =>
        obtain ⟨tab, -, rfl⟩ := joinAll_inv h hj
        simp only [hj] at h1
        split at h1
        · exact nomatch h1
        · rw [joinAll_error (h.setLabels _ tab) h1]
          exact ⟨rfl, rfl, rfl⟩
    | ok l s2 =>
      have hone : wordLabels tm exm d labs [g] s = .ok [(g, l)] s2 := by simp only [wordLabels, M_bind, h1, M_pure]
      obtain ⟨hcur, hcrews, hsups, -⟩ := wordLabels_frame tm exm d labs [g] h hone
      simp only [h1, M_bind] at hw
      cases h3 : wordLabels tm exm d labs gs s2 with
      | ok rest s3 => simp only [h3, M_pure, reduceCtorEq] at hw
      | error e3 t3 =>
        simp only [h3, EStateM.Result.error.injEq] at hw
        obtain ⟨-, rfl⟩ := hw
        obtain ⟨hcur', hcrews', hsups'⟩ := ih (h.congr hcur hcrews hsups) h3
        exact ⟨hcur'.trans hcur, hcrews'.trans hcrews, hsups'.trans hsups⟩

/-- The check of a DECL's destination labels leaves the agents as they are, whatever it finds. -/
theorem declLabels_frame {s u : State} {ag : Agent} {th : Thread} (h : s.Turn ag th) {tm : Team} {thd : Thread} {d : Nat} {l : Lbl}
    {r : Nat} (hd : declLabels tm thd d l s = .ok r u) : u.cur = s.cur ∧ u.crews = s.crews ∧ u.sups = s.sups := by
  have heq : declLabels tm thd d l s = match wordLabels tm thd.exm d (fun _ => [l, thd.pcl]) (mgroups thd.exm) s with
      | .ok _ v => .ok 0 v
      | .error _ v => .ok 65 v := by
    show EStateM.tryCatch _ _ s = _
    rw [EStateM.tryCatch, M_bind]
    cases wordLabels tm thd.exm d (fun _ => [l, thd.pcl]) (mgroups thd.exm) s <;> rfl
  rw [heq] at hd
  cases hw : wordLabels tm thd.exm d (fun _ => [l, thd.pcl]) (mgroups thd.exm) s with
  | ok ls v =>
    simp only [hw, EStateM.Result.ok.injEq] at hd
    obtain ⟨-, rfl⟩ := hd
    obtain ⟨hcur, hcrews, hsups, -⟩ := wordLabels_frame tm thd.exm d _ _ h hw
    exact ⟨hcur, hcrews, hsups⟩
  | error e v =>
    simp only [hw, EStateM.Result.ok.injEq] at hd
    obtain ⟨-, rfl⟩ := hd
    exact wordLabels_error tm thd.exm d _ _ h hw

/-! ### DECL -/

/-- What DECL does once its target and its source label have passed: it writes at once where no owner goes, and else takes a count
of every owner that does. -/
def declRest (tm : Team) (th : Thread) (d a : Nat) (site : BitVec 16) (l : Lbl) (gone : List Nat) : M Done :=
  if gone.isEmpty then do
    writeV d (fun _ => [l]) (tm.lane a)
    done
  else do
    logWords ((mgroups th.exm).map (vkey d))
    let r ← irrevocable site.toNat
      (do
        let e ← myEndorse
        match gone.find? (fun k => endorseCount e site.toNat k == 0) with
        | some k => pure (k + 1)
        | none => declLabels tm th d l)
      (do
        let e ← myEndorse
        setEndorse (gone.foldl (fun e k => takeCount e site.toNat k) e))
    if r = 0 then do
      writeV d (fun _ => [l]) (tm.lane a)
      donePast
    else if r = 65 then trapU 0x10
    else trapU 0x0E 0 (some (declInfo site (r - 1)))

section
variable {s : State} {cid t fn : Nat} {c : Crew} {tm : Team} {th : Thread} (h : s.AtFrag cid t fn c tm th) {d a : Nat}
  {site : BitVec 16} {target : BitVec 8} (hd : s.hasName (.frag cid t fn) (.v d) = true)
  (hi : s.mayIssue (.frag cid t fn) th [.v a] (if th.exm = 0 then [] else [.v d]) = true)
include h hd hi

theorem decl_no_label (hl : (s.ctx c.vf).labels.length ≤ target.toNat) :
    exec (.decl d a site target) s = .next (s.takeTrap (.frag cid t fn)
      { code := 0x0E, sub := 1, lanes := th.exm, info := some (declInfo site 0) }) := by
  refine run_trap h.cur ?_ rfl
  simp only [M_bind, vDst_ok h.turn hd, issue_ok h.turn hi, myTh_ok h.turn, M_get, myVf_ok h.turn, h.ctx, hl, ↓reduceIte,
    trapU_info_error h.turn]

theorem decl_below_pcl (hl : target.toNat < (s.ctx c.vf).labels.length) (hp : (s.ctx c.vf).dominates target.toNat th.pcl = false) :
    exec (.decl d a site target) s = .next (s.takeTrap (.frag cid t fn)
      { code := 0x0E, sub := 2, lanes := th.exm, info := some (declInfo site 0) }) := by
  refine run_trap h.cur ?_ rfl
  simp only [M_bind, vDst_ok h.turn hd, issue_ok h.turn hi, myTh_ok h.turn, M_get, myVf_ok h.turn, h.ctx, Nat.not_le.mpr hl, hp,
    Bool.not_false, ↓reduceIte, trapU_info_error h.turn]

section
variable (hl : target.toNat < (s.ctx c.vf).labels.length) (hp : (s.ctx c.vf).dominates target.toNat th.pcl = true)
include hl hp

theorem decl_idle (hx : th.exm = 0) : exec (.decl d a site target) s = .next (s.finish s (.frag cid t fn) {}) := by
  rw [if_pos hx] at hi
  refine run_ok h.cur ?_
  simp only [M_bind, vDst_ok h.turn hd, hx, ↓reduceIte, issue_ok h.turn hi, myTh_ok h.turn, M_get, myVf_ok h.turn, h.ctx,
    Nat.not_le.mpr hl, hp, Bool.not_true, Bool.false_eq_true, done, M_pure]

/-- DECL of an active lane comes to the owners that its target lacks. -/
theorem exec_decl (hx : th.exm ≠ 0) {src : Lbl} {tab : List (BitVec 64)} {s1 : State}
    (hj : s.joined (.frag cid t fn) ((mgroups th.exm).map (fun g => tm.vlab a g) ++ [th.pcl]) = some (src, tab))
    (h1 : s1 = s.setLabels c.vf tab) :
    exec (.decl d a site target) s = outcome s (.frag cid t fn) (declRest tm th d a site target.toNat
      (bitsOf ((s1.ctx c.vf).owners src &&& ~~~((s1.ctx c.vf).owners target.toNat))) s1) := by
  have hf1 := h.setLabels c.vf tab
  rw [if_neg hx] at hi
  refine (run_eq_outcome h.cur _).trans (congrArg _ ?_)
  simp only [M_bind, vDst_ok h.turn hd, hx, ↓reduceIte, issue_ok h.turn hi, myTh_ok h.turn, M_get, myVf_ok h.turn, h.ctx,
    Nat.not_le.mpr hl, hp, Bool.not_true, Bool.false_eq_true, myTeam_ok h, Team.crossLab, joinAll_ok h.turn hj,
    owners_ok hf1.turn, hf1.ctx, h1]
  rfl
end
end

/-! ### The owners that DECL removes -/

/-- An agent that writes a vector register has the turn. -/
theorem cur_of_writeV {s u : State} {d : Nat} {labs : Nat → List Lbl} {f : Nat → Lane} (h : writeV d labs f s = .ok ⟨⟩ u) :
    s.cur ≠ none := by
  intro hc
  have he : myTh s = .error (.fault .noAgent) s := by simp only [myTh, me, M_bind, M_get, hc, M_throw]
  rw [writeV, M_bind_error he] at h
  exact nomatch h

theorem find_counted {e : List Endorse} {site : Nat} {gone : List Nat} (hcount : ∀ k ∈ gone, endorseCount e site k ≠ 0) :
    gone.find? (fun k => endorseCount e site k == 0) = none := by
  simp only [List.find?_eq_none, beq_iff_eq]
  exact hcount

section
variable {s1 s2 : State} {cid t fn : Nat} {c2 : Crew} {tm tm2 : Team} {th : Thread} {d a : Nat} {site : BitVec 16} {l : Lbl}
  {gone : List Nat} (hne : gone ≠ []) (hlog : logWords ((mgroups th.exm).map (vkey d)) s1 = .ok ⟨⟩ s2)
  (h2 : s2.AtFrag cid t fn c2 tm2 th) (hs : c2.copy = .solo)
include hne hlog h2 hs

/-- An owner that has no count left. -/
theorem declRest_missing {k : Nat} (hk : k < 64)
    (hfind : gone.find? (fun k => endorseCount (s2.ctx c2.vf).endorse site.toNat k == 0) = some k) :
    declRest tm th d a site l gone s1 =
      .error (.trap { code := 0x0E, lanes := th.exm, info := some (declInfo site k) }) s2 := by
  have hvf : myVf s2 = .ok c2.vf s2 := by rw [myVf_ok h2.turn, h2.ctx]
  rw [declRest, if_neg (by rw [List.isEmpty_iff]; exact hne), M_bind_ok hlog,
    M_bind_ok (irrevocable_denied h2 hs site.toNat _ (Nat.succ_ne_zero k) ?_), if_neg (Nat.succ_ne_zero k), if_neg (by omega)]
  · exact trapU_info_error h2.turn 0x0E 0 _
  · simp only [M_bind, myEndorse_of_vf hvf, hfind, M_pure]

section
variable (hcount : ∀ k ∈ gone, endorseCount (s2.ctx c2.vf).endorse site.toNat k ≠ 0) {s3 : State}
include hcount

/-- A label table that is full for the destination. -/
theorem declRest_full (hlab : declLabels tm th d l s2 = .ok 65 s3) :
    declRest tm th d a site l gone s1 = .error (.trap { code := 0x10, lanes := th.exm }) s3 := by
  have hvf : myVf s2 = .ok c2.vf s2 := by rw [myVf_ok h2.turn, h2.ctx]
  obtain ⟨hcur, hcrews, -⟩ := declLabels_frame h2.turn hlab
  rw [declRest, if_neg (by rw [List.isEmpty_iff]; exact hne), M_bind_ok hlog,
    M_bind_ok (irrevocable_denied h2 hs site.toNat (r := 65) (u := s3) _ (by decide) ?_), if_neg (by decide), if_pos rfl]
  · exact trapU_error (h2.congr hcur hcrews).turn 0x10 0
  · simp only [M_bind, myEndorse_of_vf hvf, find_counted hcount, hlab]

/-- A count of every owner that goes is taken behind the commit point, and the lanes are written. -/
theorem declRest_takes {s4 : State} (hlab : declLabels tm th d l s2 = .ok 0 s3) (hm : s3.mayCommit cid c2 = true)
    (hsame : ((s3.commitNow cid).ctx c2.vf).endorse = (s3.ctx c2.vf).endorse)
    (hw : writeV d (fun _ => [l]) (tm.lane a) ((s3.commitNow cid).modCtx c2.vf (fun x => { x with
      endorse := gone.foldl (fun e k => takeCount e site.toNat k) (s3.ctx c2.vf).endorse })) = .ok ⟨⟩ s4) :
    declRest tm th d a site l gone s1 = .ok { past := true } s4 := by
  have hvf : myVf s2 = .ok c2.vf s2 := by rw [myVf_ok h2.turn, h2.ctx]
  obtain ⟨hcur, hcrews, -⟩ := declLabels_frame h2.turn hlab
  have h3 := h2.congr hcur hcrews
  have hturn := cur_of_writeV hw
  rw [State.modCtx_cur] at hturn
  have hvf3 := commitNow_vf h3 hturn
  rw [declRest, if_neg (by rw [List.isEmpty_iff]; exact hne), M_bind_ok hlog,
    M_bind_ok (irrevocable_performed h2 hs site.toNat (u := s3) (w := (s3.commitNow cid).modCtx c2.vf (fun x => { x with
      endorse := gone.foldl (fun e k => takeCount e site.toNat k) (s3.ctx c2.vf).endorse })) ?_ (commitHere_ok h3 hm) ?_),
    if_pos rfl, M_bind_ok hw]
  · rfl
  · simp only [M_bind, myEndorse_of_vf hvf, find_counted hcount, hlab]
  · simp only [M_bind, myEndorse_of_vf hvf3, hsame, setEndorse_of_vf hvf3]
end
end

/-- Settles O38: ENDORSE and DECL stop at their checks, or perform their change of the endorsement table behind the crew's commit
point, after which the crew still stands in its context. -/
theorem declassification : Obligations.Declassification := by
  unfold Obligations.Declassification
  intro s cid t fn c tm th h hs
  refine ⟨fun site count hi => ⟨endorse_idle h hi, endorse_denied h hi, fun tabl hx ha hp hm hadd hsame hcur =>
    endorse_next h hi hs hx ha hp hm hadd hsame hcur⟩, fun d a site target hd hi => ⟨decl_no_label h hd hi,
    decl_below_pcl h hd hi, fun hl hp => ⟨decl_idle h hd hi hl hp, ?_⟩⟩⟩
  intro src tab gone s1 hx hj h1 hg
  have hexec := exec_decl (site := site) h hd hi hl hp hx hj h1
  rw [← hg] at hexec
  rw [hexec]
  refine ⟨fun s3 hempty hw => ?_, fun s2 c2 tm2 hne hlog h2 hs2 hvf => ?_⟩
  · rw [declRest, hempty, List.isEmpty_nil, if_pos rfl, M_bind_ok hw]
    rfl
  · rw [← hvf]
    refine ⟨fun k hfind hk => ?_, fun hcount s3 => ⟨fun hlab => ?_, fun s4 hlab hm hsame hw => ?_⟩⟩
    · rw [declRest_missing hne hlog h2 hs2 hk hfind, outcome_trap rfl]
    · rw [declRest_full hne hlog h2 hs2 hcount hlab]
      rfl
    · rw [declRest_takes hne hlog h2 hs2 hcount hlab hm hsame hw]
      rfl

end Sys2Proof.Machine.ExecModel
end

section
/-! PROOF. The uniform integer instructions (R48, R101): what each computes, and O3, what it leaves unchanged. -/

namespace Sys2Proof.Machine.ExecModel

/-! ### Values of the table of R101 -/

theorem sat64_eq (v : Int) : narrow64 true v = sat64 v := by
  have hlo : BitVec.ofInt 64 (-(2 ^ 63)) = BitVec.intMin 64 := by decide
  have hhi : BitVec.ofInt 64 (2 ^ 63 - 1) = BitVec.intMax 64 := by decide
  have hsat : satTo v (tyLo .i64) (tyHi .i64) = if v < -(2 ^ 63) then -(2 ^ 63) else if 2 ^ 63 - 1 < v then 2 ^ 63 - 1 else v := rfl
  simp only [narrow64, sat64, ↓reduceIte, hsat]
  by_cases h1 : v < -(2 ^ 63)
  · rw [if_pos h1, if_pos h1, hlo]
  · rw [if_neg h1, if_neg h1]
    by_cases h2 : 2 ^ 63 - 1 < v
    · rw [if_pos h2, if_pos h2, hhi]
    · rw [if_neg h2, if_neg h2]

theorem ofInt_wordInt (i64 : Bool) (x : Word) : BitVec.ofInt 64 (wordInt i64 x) = x := by
  cases i64 with
  | false => simp [wordInt]
  | true => simp [wordInt]

theorem ofInt_add_words (i64 : Bool) (a b : Word) : BitVec.ofInt 64 (wordInt i64 a + wordInt i64 b) = a + b := by
  rw [BitVec.ofInt_add, ofInt_wordInt, ofInt_wordInt]
theorem ofInt_sub_words (i64 : Bool) (a b : Word) : BitVec.ofInt 64 (wordInt i64 a - wordInt i64 b) = a - b := by
  rw [Int.sub_eq_add_neg, BitVec.ofInt_add, BitVec.ofInt_neg, ofInt_wordInt, ofInt_wordInt, ← BitVec.sub_eq_add_neg]
theorem ofInt_mul_words (i64 : Bool) (a b : Word) : BitVec.ofInt 64 (wordInt i64 a * wordInt i64 b) = a * b := by
  rw [BitVec.ofInt_mul, ofInt_wordInt, ofInt_wordInt]
theorem ofInt_add_imm (i64 : Bool) (a : Word) (imm : BitVec 26) :
    BitVec.ofInt 64 (wordInt i64 a + imm.toInt) = a + imm.signExtend 64 := by
  rw [BitVec.ofInt_add, ofInt_wordInt]
  rfl

/-- An exact sum, difference or product of two words, saturated or wrapped. -/
theorem narrow64_eq (sat : Bool) (v : Int) {w : Word} (h : BitVec.ofInt 64 v = w) : narrow64 sat v = if sat then sat64 v else w := by
  cases sat with
  | false => exact h
  | true => exact sat64_eq v

theorem wordInt_inj (i64 : Bool) {a b : Word} : wordInt i64 a = wordInt i64 b ↔ a = b :=
  ⟨fun h => by rw [← ofInt_wordInt i64 a, h, ofInt_wordInt], fun h => by rw [h]⟩

/-- Comparisons of words are comparisons of the integers that their TY reads. -/
theorem condInt_wordInt (i64 : Bool) (c : Cond) (a b : Word) : condInt c (wordInt i64 a) (wordInt i64 b) = wordCond i64 c a b := by
  have hlt : ∀ x y : Word, decide (wordInt i64 x < wordInt i64 y) = if i64 then x.slt y else x.ult y := by
    intro x y
    cases i64 with
    | false => simp [wordInt, BitVec.ult]
    | true => simp [wordInt, BitVec.slt]
  have hle : ∀ x y : Word, decide (wordInt i64 x ≤ wordInt i64 y) = if i64 then x.sle y else x.ule y := by
    intro x y
    cases i64 with
    | false => simp [wordInt, BitVec.ule]
    | true => simp [wordInt, BitVec.sle]
  have heq : (wordInt i64 a == wordInt i64 b) = (a == b) := by
    rw [Bool.beq_eq_decide_eq, Bool.beq_eq_decide_eq, decide_eq_decide]
    exact wordInt_inj i64
  cases c with
  | eq => exact heq
  | ne => exact congrArg (!·) heq
  | lt => exact hlt a b
  | le => exact hle a b
  | gt => exact hlt b a
  | ge => exact hle b a
  | un | ord => rfl

/-- The lesser or the greater of two words as their TY reads them. -/
theorem narrow64_choice (i64 : Bool) (a b x y : Word) :
    narrow64 false (if wordInt i64 a ≤ wordInt i64 b then wordInt i64 x else wordInt i64 y) =
      if wordCond i64 .le a b then x else y := by
  have h := condInt_wordInt i64 .le a b
  simp only [condInt] at h
  simp only [← h, decide_eq_true_eq, narrow64, Bool.false_eq_true, ↓reduceIte]
  split
  · exact ofInt_wordInt i64 x
  · exact ofInt_wordInt i64 y

theorem smulh_eq (i64 : Bool) (a b : Word) : narrow64 false (wordInt i64 a * wordInt i64 b / 2 ^ 64) =
    if i64 then BitVec.ofInt 64 (a.toInt * b.toInt / 2 ^ 64) else BitVec.ofNat 64 (a.toNat * b.toNat / 2 ^ 64) := by
  cases i64 with
  | true => rfl
  | false =>
    simp only [narrow64, wordInt, Bool.false_eq_true, ↓reduceIte]
    rw [← BitVec.ofInt_natCast]
    push_cast
    rfl

theorem shl_eq (a b : Word) : (if b.toNat < 64 then a <<< b.toNat else 0) = a <<< b.toNat := by
  split
  · rfl
  · exact (BitVec.shiftLeft_eq_zero (by omega)).symm

theorem shr_eq (a b : Word) : (if b.toNat < 64 then a >>> b.toNat else 0) = a >>> b.toNat := by
  split
  · rfl
  · exact (BitVec.ushiftRight_eq_zero (by omega)).symm

theorem sar_eq (a b : Word) : a.sshiftRight (min b.toNat 64) = a.sshiftRight b.toNat := by
  apply BitVec.eq_of_getLsbD_eq
  intro k hk
  rw [BitVec.getLsbD_sshiftRight, BitVec.getLsbD_sshiftRight]
  by_cases hb : b.toNat ≤ 64
  · rw [Nat.min_eq_left hb]
  · have h1 : ¬ min b.toNat 64 + k < 64 := by omega
    have h2 : ¬ b.toNat + k < 64 := by omega
    rw [if_neg h1, if_neg h2]

theorem bfe_eq (a b c : Word) :
    (if b.toNat < 64 then BitVec.ofNat 64 (a.toNat / 2 ^ b.toNat % 2 ^ min c.toNat 64) else 0) =
      BitVec.ofNat 64 (a.toNat / 2 ^ b.toNat % 2 ^ min c.toNat 64) := by
  split
  · rfl
  · next hb =>
    have hlt : a.toNat < 2 ^ b.toNat := lt_of_lt_of_le a.isLt (Nat.pow_le_pow_right (by decide) (by omega))
    rw [Nat.div_eq_of_lt hlt, Nat.zero_mod]
    rfl

/-! ### One step of a uniform instruction -/

section
variable {i : Instr} {s : State} {ag : Agent} {th : Thread} {d : Nat} {srcs : List Nat} {v : Word} {l : Lbl} {tab : List (BitVec 64)}

/-- An instruction that is a uniform one with the value of the table. -/
theorem exec_of_uniform {f : List Word → Word} (hexec : exec i s = run (uniform d srcs f) s)
    (hv : f (srcs.map (fun r => (s.readS ag r).val)) = v) (h : s.Turn ag th) (hi : s.mayIssue ag th (srcs.map .s) [.s d] = true)
    (hj : s.joined ag (srcs.map (fun r => (s.readS ag r).lab) ++ [th.pcl]) = some (l, tab)) :
    exec i s = .next (s.finish ((s.setLabels (s.ctxOf ag) tab).writeS ag d { val := v, lab := l }) ag {}) := by
  rw [hexec, run_uniform h hi hj, hv]

/-- Every row of the table of R101 is a uniform instruction with its result. -/
theorem uniform_of_uniResult (hu : uniResult i (fun r => (s.readS ag r).val) = some (d, srcs, v)) :
    ∃ f, exec i s = run (uniform d srcs f) s ∧ f (srcs.map (fun r => (s.readS ag r).val)) = v := by
  unfold uniResult at hu
  split at hu
  case h_21 => exact nomatch hu
  all_goals
    simp only [Option.some.injEq, Prod.mk.injEq] at hu
    obtain ⟨rfl, rfl, rfl⟩ := hu
  case h_1 | h_2 => exact ⟨_, rfl, rfl⟩
  case h_3 => exact ⟨_, rfl, narrow64_eq _ _ (ofInt_add_words ..)⟩
  case h_4 => exact ⟨_, rfl, narrow64_eq _ _ (ofInt_sub_words ..)⟩
  case h_5 => exact ⟨_, rfl, narrow64_eq _ _ (ofInt_mul_words ..)⟩
  case h_6 => exact ⟨_, rfl, smulh_eq ..⟩
  case h_7 | h_8 | h_9 => exact ⟨_, rfl, rfl⟩
  case h_10 => exact ⟨_, rfl, shl_eq ..⟩
  case h_11 => exact ⟨_, rfl, shr_eq ..⟩
  case h_12 => exact ⟨_, rfl, sar_eq ..⟩
  case h_13 | h_14 => exact ⟨_, rfl, narrow64_choice ..⟩
  case h_15 => exact ⟨_, rfl, congrArg boolWord (condInt_wordInt ..)⟩
  case h_16 => exact ⟨_, rfl, ite_not ..⟩
  case h_17 => exact ⟨_, rfl, narrow64_eq _ _ (ofInt_add_imm ..)⟩
  case h_18 | h_19 => exact ⟨_, rfl, rfl⟩
  case h_20 => exact ⟨_, rfl, bfe_eq ..⟩
end

/-! ### The end of an instruction -/

/-- An instruction that answers nothing but that it is done, with no load held and no request left waiting, ends with its thread at
the next slot; the turn may end. -/
theorem finish_plain {s u : State} {ag : Agent} {th : Thread} (h : s.Turn ag th) (hw : th.pend.any (fun p => p.held.isSome) = false)
    (hq : u.tbQueue = s.tbQueue) : ∃ o, s.finish u ag {} = { u.modThread ag (advance .next u.cyc) with cur := o } := by
  have hhold : s.mustHold u ag = false := by
    simp only [State.mustHold, h.2, Option.any_some, Thread.holding, hw, Bool.false_and]
  have hundo : s.noteUndo u ag (u.pendCount ag) = u := by
    unfold State.noteUndo
    cases ag with
    | frag cid t fn =>
      simp only [h.2]
      split
      · next h0 _ _ _ heq _ _ _ =>
        cases heq
        rw [if_neg (by rw [Thread.holding, hw]; exact Bool.false_ne_true)]
      · rfl
    | seq cid x => rfl
    | sup k => rfl
  have hclaim : s.claimRequests u ag = u := if_pos hq
  have hturn : ∀ (v : State), ∃ o, (match v.thread? ag with
      | some th => if turnEnds ag th then { v with cur := none } else v
      | none => { v with cur := none }) = { v with cur := o } := by
    intro v
    split
    · split
      · exact ⟨none, rfl⟩
      · exact ⟨v.cur, rfl⟩
    · exact ⟨none, rfl⟩
  obtain ⟨o, ho⟩ := hturn (u.modThread ag (advance .next u.cyc))
  refine ⟨o, ?_⟩
  rw [← ho]
  unfold State.finish
  simp only [hhold, hundo, hclaim, Bool.false_eq_true, ↓reduceIte, Bool.false_and]
  split
  · rfl
  · split <;> rfl

theorem advance_next_keeps (n : Nat) (th : Thread) : (advance .next n th).exm = th.exm ∧ (advance .next n th).f = th.f ∧
    (advance .next n th).pcl = th.pcl ∧ (advance .next n th).priv = th.priv ∧ (advance .next n th).stack = th.stack := by
  unfold advance
  dsimp only
  split
  · exact ⟨rfl, rfl, rfl, rfl, rfl⟩
  · exact ⟨rfl, rfl, rfl, rfl, rfl⟩

/-! ### A change of one team alone -/

/-- One state comes from another by a change of one team of a crew and of the turn. -/
def TeamOnly (s u : State) (cid t : Nat) : Prop :=
  (∃ m o, u = { s with crews := m, cur := o }) ∧ SameOthers s u cid ∧ ∀ k, k ≠ t → u.team? cid k = s.team? cid k

theorem TeamOnly.refl (s : State) (cid t : Nat) : TeamOnly s s cid t := ⟨⟨s.crews, s.cur, rfl⟩, fun _ _ => rfl, fun _ _ => rfl⟩

theorem TeamOnly.trans {s u v : State} {cid t : Nat} (h : TeamOnly s u cid t) (k : TeamOnly u v cid t) : TeamOnly s v cid t := by
  obtain ⟨⟨_, _, rfl⟩, hothers, hteams⟩ := h
  obtain ⟨⟨m, o, rfl⟩, hothers', hteams'⟩ := k
  exact ⟨⟨m, o, rfl⟩, fun j hj => (hothers' j hj).trans (hothers j hj), fun j hj => (hteams' j hj).trans (hteams j hj)⟩

theorem teamOnly_modTeam (s : State) (cid t : Nat) (f : Team → Team) : TeamOnly s (s.modTeam cid t f) cid t := by
  refine ⟨⟨(s.modTeam cid t f).crews, s.cur, rfl⟩, fun k hk => ?_, fun k hk => ?_⟩
  · rw [State.modTeam, State.crew_modCrew, if_neg hk]
  · rw [State.team_modTeam, if_neg (fun hc => hk hc.2)]

theorem teamOnly_writeS (s : State) (cid t fn n : Nat) (r : SReg) : TeamOnly s (s.writeS (.frag cid t fn) n r) cid t := by
  unfold State.writeS
  split
  · exact TeamOnly.refl ..
  · exact teamOnly_modTeam ..

theorem teamOnly_cur (s : State) (cid t : Nat) (o : Option Agent) : TeamOnly s { s with cur := o } cid t :=
  ⟨⟨s.crews, o, rfl⟩, fun _ _ => rfl, fun _ _ => rfl⟩

section
variable {s u : State} {vf cid t : Nat} {tab : List (BitVec 64)} (h : TeamOnly (s.setLabels vf tab) u cid t)
include h

theorem sameMachine_of_teamOnly : SameMachine s u := by
  obtain ⟨⟨m, o, rfl⟩, -⟩ := h
  refine ⟨⟨rfl, rfl, rfl⟩, fun k => ?_, rfl, rfl, rfl, rfl, rfl, rfl, rfl, rfl, rfl⟩
  show { (s.setLabels vf tab).ctx k with labels := [] } = { s.ctx k with labels := [] }
  rw [State.setLabels, State.ctx_modCtx]
  split
  · next hk => rw [hk]
  · rfl

theorem homeByte_of_teamOnly (a : Nat) : u.homeByte a = s.homeByte a := by
  obtain ⟨⟨m, o, rfl⟩, -⟩ := h
  rfl
end

theorem readS_frag {s : State} {cid t : Nat} {tm : Team} (h : s.team? cid t = some tm) (fn r : Nat) :
    s.readS (.frag cid t fn) r = if r = 63 then {} else kvGet {} tm.s r := by
  simp only [State.readS, h]

theorem regs_writtenTeam (tm : Team) (d r : Nat) (x : SReg) (hr : r ≠ 63) :
    kvGet {} (writtenTeam tm d x).s r = if r = d then x else kvGet {} tm.s r := by
  unfold writtenTeam
  split
  · next hd => rw [if_neg (fun h => hr (h.trans hd))]
  · exact kvGet_kvPut {} tm.s d r x

/-! ### O3 -/

/-- A uniform write by a fragment and the end of its instruction. -/
theorem uniform_frame {s u : State} {vf cid t fn d : Nat} {c : Crew} {tm : Team} {th : Thread} {tab : List (BitVec 64)} {x : SReg}
    {n : Nat} {o : Option Agent} (h : s.AtFrag cid t fn c tm th)
    (hu : u = { ((s.setLabels vf tab).writeS (.frag cid t fn) d x).modThread (.frag cid t fn) (advance .next n) with cur := o }) :
    TeamOnly (s.setLabels vf tab) u cid t ∧ u.team? cid t = some { writtenTeam tm d x with
      frags := kvModify tm.frags fn (advance .next n) } := by
  obtain ⟨c1, h1⟩ := atFrag_writeS (h.setLabels vf tab) d x
  obtain ⟨c2, h2⟩ := atFrag_modThread h1 (advance .next n)
  obtain ⟨-, -, -, -, hfrags, -⟩ := writtenTeam_keeps tm d x
  refine ⟨hu ▸ ((teamOnly_writeS ..).trans (teamOnly_modTeam ..)).trans (teamOnly_cur ..), ?_⟩
  rw [hu, ← hfrags]
  exact h2.team

/-- Settles O3: the instruction writes its one register and moves its own thread on, which changes its team alone; what else it
changes is the context's label table and the turn. -/
theorem uniformFrame : Obligations.UniformFrame := by
  unfold Obligations.UniformFrame
  intro i s cid t fn c tm th d srcs v l tab hres h hw hi hj
  obtain ⟨f, hexec, hv⟩ := uniform_of_uniResult hres
  obtain ⟨o, hfin⟩ := finish_plain (u := (s.setLabels (s.ctxOf (.frag cid t fn)) tab).writeS (.frag cid t fn) d
    { val := v, lab := l }) h.turn hw (by unfold State.writeS; split <;> rfl)
  obtain ⟨honly, hteam⟩ := uniform_frame (u := s.finish _ (.frag cid t fn) {}) h hfin
  obtain ⟨hvec, hmask, hpkr, hframe, hfrags, -⟩ := writtenTeam_keeps tm d { val := v, lab := l }
  obtain ⟨hexm, hf, hpcl, hpriv, hstack⟩ := advance_next_keeps
    ((s.setLabels (s.ctxOf (.frag cid t fn)) tab).writeS (.frag cid t fn) d { val := v, lab := l }).cyc th
  refine ⟨_, _, _, exec_of_uniform hexec hv h.turn hi hj, hteam, ?_, fun hd => ?_, fun r hr => ?_, ?_, hvec, hmask, hpkr, hframe, hexm,
    hf, hpcl, hpriv, hstack, fun k hk => kvFind_kvModify_ne _ _ _ _ hk, honly.2.2, honly.2.1, sameMachine_of_teamOnly honly,
    homeByte_of_teamOnly honly⟩
  · rw [kvFind_kvModify_self, h.2.2.2, Option.map_some]
  · rw [readS_frag hteam, if_neg hd, regs_writtenTeam _ _ _ _ hd, if_pos rfl]
  · rw [readS_frag hteam, readS_frag h.team]
    split
    · rfl
    · next h63 => rw [regs_writtenTeam _ _ _ _ h63, if_neg hr]
  · rw [readS_frag hteam, if_pos rfl]

end Sys2Proof.Machine.ExecModel
end

section
/-! SUPPORT. Instruction words by format (R77): a word of a format is known by its fields, and a field by its parts. -/

namespace Sys2Proof.Machine.ExecModel

/-! ### Words by their fields -/

theorem append_eq_iff {n m : Nat} (x : BitVec n) (y : BitVec m) (w : BitVec (n + m)) :
    x ++ y = w ↔ x = w.extractLsb' m n ∧ y = w.extractLsb' 0 m := by
  constructor
  · rintro rfl
    exact ⟨BitVec.extractLsb'_append_eq_left.symm, BitVec.extractLsb'_append_eq_right.symm⟩
  · rintro ⟨rfl, rfl⟩
    exact BitVec.extractLsb'_append_extractLsb'

theorem append_eq_extractLsb'_iff {n m k : Nat} (x : BitVec n) (y : BitVec m) (w : BitVec k) (s : Nat) :
    x ++ y = w.extractLsb' s (n + m) ↔ x = w.extractLsb' (s + m) n ∧ y = w.extractLsb' s m := by
  rw [← BitVec.extractLsb'_append_extractLsb'_eq_extractLsb' (x := w) rfl, append_eq_iff,
    BitVec.extractLsb'_append_eq_left, BitVec.extractLsb'_append_eq_right]

theorem ofNat_eq_iff {n : Nat} (d : Nat) (x : BitVec n) : BitVec.ofNat n d = x ↔ x.toNat = d % 2 ^ n := by
  rw [BitVec.toNat_eq, BitVec.toNat_ofNat, eq_comm]

section
variable {op la d a b c : Nat} {ty : BitVec 4} {md : BitVec 6} {w : Word}

theorem encR_eq_iff {x : BitVec 10} :
    encR op la ty md d a b c x = w ↔ fOp w = op % 256 ∧ fLa w = la % 16 ∧ fTy w = ty ∧ fMod w = md ∧ fD w = d % 256 ∧
      fA w = a % 256 ∧ fB w = b % 256 ∧ fC w = c % 256 ∧ fX w = x := by
  refine Iff.trans (append_eq_iff _ _ _) ?_
  simp only [append_eq_extractLsb'_iff, r8, ofNat_eq_iff, and_assoc, eq_comm (a := ty), eq_comm (a := md), eq_comm (a := x)]
  rfl

theorem encM_eq_iff {ofs : BitVec 18} :
    encM op la ty md d a b ofs = w ↔ fOp w = op % 256 ∧ fLa w = la % 16 ∧ fTy w = ty ∧ fMod w = md ∧ fD w = d % 256 ∧
      fA w = a % 256 ∧ fB w = b % 256 ∧ fOfs18 w = ofs := by
  refine Iff.trans (append_eq_iff _ _ _) ?_
  simp only [append_eq_extractLsb'_iff, r8, ofNat_eq_iff, and_assoc, eq_comm (a := ty), eq_comm (a := md), eq_comm (a := ofs)]
  rfl

theorem encI_eq_iff {imm : BitVec 26} :
    encI op ty md d a imm = w ↔ fOp w = op % 256 ∧ fLa w = 0 ∧ fTy w = ty ∧ fMod w = md ∧ fD w = d % 256 ∧
      fA w = a % 256 ∧ fImm26 w = imm := by
  refine Iff.trans (append_eq_iff _ _ _) ?_
  simp only [append_eq_extractLsb'_iff, r8, BitVec.ofNat_eq_ofNat, ofNat_eq_iff, and_assoc, eq_comm (a := ty), eq_comm (a := md), eq_comm (a := imm)]
  rfl

theorem encL_eq_iff {imm : BitVec 32} :
    encL op d imm = w ↔ fOp w = op % 256 ∧ fLa w = 0 ∧ fTy w = 0 ∧ fMod w = 0 ∧ fD w = d % 256 ∧
      w.extractLsb' 32 2 = 0 ∧ fImm32 w = imm := by
  refine Iff.trans (append_eq_iff _ _ _) ?_
  simp only [append_eq_extractLsb'_iff, r8, BitVec.ofNat_eq_ofNat, ofNat_eq_iff, and_assoc, eq_comm (a := imm)]
  simp only [fTy, fMod, BitVec.toNat_eq]
  rfl

theorem encJ_eq_iff {tgt join : BitVec 17} :
    encJ op ty a tgt join = w ↔ fOp w = op % 256 ∧ fLa w = 0 ∧ fTy w = ty ∧ fMod w = 0 ∧ fD w = a % 256 ∧
      fTgt w = tgt ∧ fJoin w = join := by
  refine Iff.trans (append_eq_iff _ _ _) ?_
  simp only [append_eq_extractLsb'_iff, r8, BitVec.ofNat_eq_ofNat, ofNat_eq_iff, and_assoc, eq_comm (a := ty), eq_comm (a := tgt), eq_comm (a := join)]
  simp only [fMod, BitVec.toNat_eq]
  rfl
end

@[simp] theorem fOp_mod (w : Word) : fOp w % 256 = fOp w := Nat.mod_eq_of_lt (w.extractLsb' 56 8).isLt
@[simp] theorem fLa_mod (w : Word) : fLa w % 16 = fLa w := Nat.mod_eq_of_lt (w.extractLsb' 52 4).isLt
@[simp] theorem fD_mod (w : Word) : fD w % 256 = fD w := Nat.mod_eq_of_lt (w.extractLsb' 34 8).isLt
@[simp] theorem fA_mod (w : Word) : fA w % 256 = fA w := Nat.mod_eq_of_lt (w.extractLsb' 26 8).isLt
@[simp] theorem fB_mod (w : Word) : fB w % 256 = fB w := Nat.mod_eq_of_lt (w.extractLsb' 18 8).isLt
@[simp] theorem fC_mod (w : Word) : fC w % 256 = fC w := Nat.mod_eq_of_lt (w.extractLsb' 10 8).isLt

/-! ### Codes -/

theorem rndOf_eq_iff {c : BitVec 2} {r : Rnd} : rndOf c = r ↔ c = rndCode r := by
  revert c; cases r <;> decide
theorem condOf_eq_iff {c : BitVec 3} {k : Cond} : condOf c = k ↔ c = condCode k := by
  revert c; cases k <;> decide
theorem ordOf_eq_iff {c : BitVec 2} {o : Ord4} : ordOf c = o ↔ c = ordCode o := by
  revert c; cases o <;> decide
theorem faultFieldOf_eq_iff {c : BitVec 3} {f : FaultField} : faultFieldOf c = f ↔ c = faultFieldCode f := by
  revert c; cases f <;> decide
theorem tyOf_eq_iff {c : BitVec 4} {t : Ty} : tyOf c = some t ↔ c = tyCode t := by
  revert c; cases t <;> decide
theorem scopeOf_eq_iff {c : BitVec 3} {s : Scope} : scopeOf c = some s ↔ c = scopeCode s := by
  revert c; cases s <;> decide
theorem mopOf_eq_iff {c : BitVec 3} {op : MOp} : mopOf c = some op ↔ c = mopCode op := by
  revert c; cases op <;> decide
theorem shufOf_eq_iff {c : BitVec 3} {m : ShufMode} : shufOf c = some m ↔ c = shufCode m := by
  revert c; cases m <;> decide
theorem brKindOf_eq_iff {c : BitVec 4} {k : BrKind} : brKindOf c = some k ↔ c = brKindCode k := by
  revert c; cases k <;> decide
theorem aopOf_eq_iff {c : BitVec 4} {op : AOp} : aopOf c.toNat = some op ↔ c = aopCode op := by
  revert c; cases op <;> decide
theorem aopOf_sel_eq_iff {c : BitVec 3} {op : AOp} : aopOf c.toNat = some op ↔ c = aopSel op := by
  revert c; cases op <;> decide

end Sys2Proof.Machine.ExecModel
end

section
/-! SUPPORT. What the parts of a field hold, and what each check of a decoder says. -/

namespace Sys2Proof.Machine.ExecModel

/-! ### Numbers that a field holds -/

theorem mod_of_isS {n : Nat} (h : isS n = true) : n % 256 = n := Nat.mod_eq_of_lt ((of_decide_eq_true h).trans (by decide))
theorem mod_of_isM {n : Nat} (h : isM n = true) : n % 256 = n := Nat.mod_eq_of_lt ((of_decide_eq_true h).trans (by decide))
theorem mod_of_isV {n : Nat} (h : isV n = true) : n % 256 = n := Nat.mod_eq_of_lt (of_decide_eq_true h)
theorem mod_of_isTile {n : Nat} (h : isTile n = true) : n % 256 = n := Nat.mod_eq_of_lt ((of_decide_eq_true h).trans (by decide))
theorem mod_of_laWf {n : Nat} (h : laWf n = true) : n % 16 = n := Nat.mod_eq_of_lt (of_decide_eq_true h)

/-! ### Parts of fields (R81, R97, R146) -/

theorem bit_eq_extractLsb'_iff {n : Nat} {b : Bool} {w : BitVec n} {k : Nat} : bit b = w.extractLsb' k 1 ↔ w.getLsbD k = b := by
  rw [eq_comm, BitVec.toNat_eq]
  cases b <;> simp [bit, BitVec.extractLsb'_toNat, BitVec.getLsbD, Nat.testBit, Nat.and_comm, Nat.and_one_is_mod]

section
variable {w : Word}

theorem fMod_eq_mArith {s : Bool} {r : Rnd} {sel : BitVec 3} :
    fMod w = mArith s r sel ↔ fSat w = s ∧ rndOf (fRnd w) = r ∧ fSel w = sel := by
  rw [eq_comm, mArith, fMod]
  refine Iff.trans (append_eq_extractLsb'_iff _ _ _ _) ?_
  rw [append_eq_extractLsb'_iff, bit_eq_extractLsb'_iff, rndOf_eq_iff, and_assoc, eq_comm (a := rndCode r), eq_comm (a := sel)]
  rfl

theorem fMod_eq_mMem {s : Scope} {o : Ord4} {b : Bool} :
    fMod w = mMem s o b ↔ fTop w = scopeCode s ∧ ordOf (fOrd w) = o ∧ fLow w = b := by
  rw [eq_comm, mMem, fMod]
  refine Iff.trans (append_eq_extractLsb'_iff _ _ _ _) ?_
  rw [append_eq_extractLsb'_iff, bit_eq_extractLsb'_iff, ordOf_eq_iff, and_assoc, eq_comm (a := scopeCode s), eq_comm (a := ordCode o)]
  rfl

/-- The modifier field that holds bit 42 alone. -/
theorem fMod_eq_low {b : Bool} : fMod w = mMem .core .rlx b ↔ fTop w = 0 ∧ fOrd w = 0 ∧ fLow w = b := by
  rw [fMod_eq_mMem, ordOf_eq_iff]
  rfl

theorem low_eq_mMem (b : Bool) : (0 : BitVec 5) ++ bit b = mMem .core .rlx b := by
  cases b <;> rfl

theorem fMod_eq_mSel {sel : BitVec 3} : fMod w = mSel sel ↔ fTop w = 0 ∧ fSel w = sel := by
  rw [eq_comm, mSel, fMod]
  refine Iff.trans (append_eq_extractLsb'_iff _ _ _ _) ?_
  rw [eq_comm, eq_comm (a := sel)]
  rfl

theorem fMod_eq_mCmp {c : Cond} : fMod w = mCmp c ↔ condOf (fTop w) = c ∧ fSel w = 0 := by
  rw [eq_comm, mCmp, fMod]
  refine Iff.trans (append_eq_extractLsb'_iff _ _ _ _) ?_
  rw [condOf_eq_iff, eq_comm, eq_comm (b := BitVec.extractLsb' _ 3 _)]
  rfl

theorem fOfs18_eq_nxOfs {i : Option Nat} {ofs : BitVec 17} :
    fOfs18 w = nxOfs i ofs ↔ fNx w = i.isNone ∧ fOfs17 w = ofs := by
  rw [eq_comm, nxOfs, fOfs18]
  refine Iff.trans (append_eq_extractLsb'_iff _ _ _ _) ?_
  rw [bit_eq_extractLsb'_iff, eq_comm (a := ofs)]
  rfl

theorem fOfs18_eq_aOfs {op : AOp} {ofs : BitVec 14} :
    fOfs18 w = aOfs op ofs ↔ fAop w = aopCode op ∧ fOfs14 w = ofs := by
  rw [eq_comm, aOfs, fOfs18]
  refine Iff.trans (append_eq_extractLsb'_iff _ _ _ _) ?_
  rw [eq_comm, eq_comm (a := ofs)]
  rfl

/-! ### Immediates -/

theorem fImm26_eq_zero_append {n : BitVec 25} :
    fImm26 w = 0#1 ++ n ↔ w.getLsbD 25 = false ∧ w.extractLsb' 0 25 = n := by
  rw [eq_comm, fImm26]
  refine Iff.trans (append_eq_extractLsb'_iff _ _ _ _) ?_
  rw [show 0#1 = bit false from rfl, bit_eq_extractLsb'_iff, eq_comm (a := n)]

theorem fImm26_eq_decl {site : BitVec 16} {tgt : BitVec 8} : fImm26 w = 0#2 ++ tgt ++ site ↔
    w.extractLsb' 24 2 = 0#2 ∧ w.extractLsb' 16 8 = tgt ∧ w.extractLsb' 0 16 = site := by
  rw [eq_comm, fImm26]
  refine Iff.trans (append_eq_extractLsb'_iff _ _ _ _) ?_
  rw [append_eq_extractLsb'_iff, and_assoc, eq_comm (a := tgt), eq_comm (a := site), eq_comm (a := 0#2)]

theorem fImm26_eq_endorse {site : BitVec 16} {n : BitVec 10} :
    fImm26 w = n ++ site ↔ w.extractLsb' 16 10 = n ∧ w.extractLsb' 0 16 = site := by
  rw [eq_comm, fImm26]
  refine Iff.trans (append_eq_extractLsb'_iff _ _ _ _) ?_
  rw [eq_comm (a := n), eq_comm (a := site)]

theorem fImm26_eq_scopeo {n base : Nat} : fImm26 w = 0#9 ++ BitVec.ofNat 8 base ++ BitVec.ofNat 9 n ↔
    w.extractLsb' 17 9 = 0#9 ∧ (w.extractLsb' 9 8).toNat = base % 256 ∧ (w.extractLsb' 0 9).toNat = n % 512 := by
  rw [eq_comm, fImm26]
  refine Iff.trans (append_eq_extractLsb'_iff _ _ _ _) ?_
  rw [append_eq_extractLsb'_iff, and_assoc, eq_comm (a := 0#9), ofNat_eq_iff, ofNat_eq_iff]
  rfl

theorem fImm26_eq_words {n : Nat} : fImm26 w = 0#12 ++ BitVec.ofNat 14 n ↔
    w.extractLsb' 14 12 = 0#12 ∧ (w.extractLsb' 0 14).toNat = n % 16384 := by
  rw [eq_comm, fImm26]
  refine Iff.trans (append_eq_extractLsb'_iff _ _ _ _) ?_
  rw [eq_comm (a := 0#12), ofNat_eq_iff]
  rfl

theorem fX_eq_ofNat {n : Nat} : fX w = BitVec.ofNat 10 n ↔ (fX w).toNat = n % 1024 := by
  rw [eq_comm, ofNat_eq_iff]
  rfl

theorem fX_eq_zero : fX w = 0#10 ↔ (fX w).toNat = 0 := BitVec.toNat_eq

theorem fX_eq_count {n : Nat} (hn : n < 512) :
    fX w = BitVec.ofNat 10 n ↔ w.getLsbD 9 = false ∧ (w.extractLsb' 0 9).toNat = n := by
  have h : BitVec.ofNat 10 n = (bit false ++ BitVec.ofNat 9 n : BitVec 10) :=
    BitVec.eq_of_toNat_eq (Eq.trans (by simp [bit]; omega) (BitVec.toNat_append _ _).symm)
  rw [eq_comm, h, fX]
  refine Iff.trans (append_eq_extractLsb'_iff _ _ _ _) ?_
  rw [bit_eq_extractLsb'_iff, ofNat_eq_iff, show n % 2 ^ 9 = n from Nat.mod_eq_of_lt hn]

theorem fX_eq_ty {c : BitVec 4} : fX w = 0#6 ++ c ↔ (fX w).extractLsb' 4 6 = 0#6 ∧ (fX w).extractLsb' 0 4 = c := by
  rw [eq_comm, eq_comm (b := 0#6), eq_comm (b := c)]
  exact append_eq_iff _ _ _

theorem fX_eq_paths {p : BitVec 6} : fX w = 0#4 ++ p ↔ (fX w).extractLsb' 6 4 = 0#4 ∧ (fX w).extractLsb' 0 6 = p := by
  rw [eq_comm, eq_comm (b := 0#4), eq_comm (b := p)]
  exact append_eq_iff _ _ _

theorem eq_zero_append_bit {n : Nat} {x : BitVec (n + 1)} {b : Bool} :
    x = 0#n ++ bit b ↔ x.toNat ≤ 1 ∧ x.getLsbD 0 = b := by
  rw [BitVec.toNat_eq]
  cases b <;> simp [bit, BitVec.toNat_append, BitVec.getLsbD, Nat.testBit] <;> omega

theorem fX_eq_flag {b : Bool} : fX w = 0#9 ++ bit b ↔ (fX w).toNat ≤ 1 ∧ (fX w).getLsbD 0 = b :=
  eq_zero_append_bit

theorem fOfs18_eq_flag {b : Bool} : fOfs18 w = 0#17 ++ bit b ↔ (fOfs18 w).toNat ≤ 1 ∧ w.getLsbD 0 = b := by
  rw [show w.getLsbD 0 = (fOfs18 w).getLsbD 0 by simp [fOfs18]]
  exact eq_zero_append_bit

theorem fOfs18_eq_zero : fOfs18 w = 0#18 ↔ (fOfs18 w).toNat = 0 := BitVec.toNat_eq

theorem fOfs18_eq_ofNat {n : Nat} : fOfs18 w = BitVec.ofNat 18 n ↔ (fOfs18 w).toNat = n % 262144 := by
  rw [eq_comm, ofNat_eq_iff]
  rfl

/-! ### Indices and bases of addresses (R146, R223) -/

@[simp] theorem isV_fD : isV (fD w) = true := decide_eq_true (w.extractLsb' 34 8).isLt
@[simp] theorem isV_fA : isV (fA w) = true := decide_eq_true (w.extractLsb' 26 8).isLt
@[simp] theorem isV_fB : isV (fB w) = true := decide_eq_true (w.extractLsb' 18 8).isLt
@[simp] theorem isV_fC : isV (fC w) = true := decide_eq_true (w.extractLsb' 10 8).isLt
@[simp] theorem laWf_fLa : laWf (fLa w) = true := decide_eq_true (w.extractLsb' 52 4).isLt

theorem idxWf_fIdx {t : Ty} : idxWf (fLow w) t (fIdx w) = scOk w t := by
  unfold fIdx scOk
  cases fNx w <;> simp [idxWf]

/-- The index that stands in B and NX. -/
theorem index_eq_iff {x : Option Nat} {sc : Bool} {t : Ty} {ofs : BitVec 17} (hx : idxWf sc t x = true) :
    fB w = x.getD 0 % 256 ∧ fOfs18 w = nxOfs x ofs ↔ idxOk w = true ∧ fIdx w = x ∧ fOfs17 w = ofs := by
  rw [fOfs18_eq_nxOfs]
  unfold idxOk fIdx
  cases x with
  | none => cases fNx w <;> simp
  | some b =>
    simp only [idxWf, Bool.and_eq_true] at hx
    cases fNx w <;> simp [mod_of_isV hx.1]

theorem encM_index_iff {op la d a : Nat} {ty : BitVec 4} {md : BitVec 6} {x : Option Nat} {sc : Bool} {t : Ty} {ofs : BitVec 17}
    (hx : idxWf sc t x = true) : encM op la ty md d a (x.getD 0) (nxOfs x ofs) = w ↔ fOp w = op % 256 ∧ fLa w = la % 16 ∧
      fTy w = ty ∧ fMod w = md ∧ fD w = d % 256 ∧ fA w = a % 256 ∧ idxOk w = true ∧ fIdx w = x ∧ fOfs17 w = ofs := by
  rw [encM_eq_iff, index_eq_iff hx]

theorem fLow_eq_pbBit {p : ABase} : fLow w = pbBit p ↔ abaseOf w = p := by
  unfold abaseOf
  cases fLow w <;> cases p <;> decide

theorem mod_of_pairWf {p : ABase} {a : Nat} (h : pairWf p a = true) : a % 256 = a := by
  cases p with
  | uniform => exact mod_of_isS h
  | pair => exact mod_of_isV (Bool.and_eq_true_iff.mp h).1

theorem pairWf_abaseOf : pairWf (abaseOf w) (fA w) = (abaseOk w && abaseEven w) := by
  unfold abaseOf abaseOk abaseEven
  cases fLow w <;> simp [pairWf]
end

@[simp] theorem tyCode_inj {t u : Ty} : tyCode t = tyCode u ↔ t = u := by
  cases t <;> cases u <;> decide
@[simp] theorem scopeCode_inj {s t : Scope} : scopeCode s = scopeCode t ↔ s = t := by
  cases s <;> cases t <;> decide
@[simp] theorem uTy_inj {u v : Bool} : uTy u = uTy v ↔ u = v := by
  cases u <;> cases v <;> decide

/-! ### Checks -/

theorem Dec_bind {α β : Type} {x : Dec α} {f : α → Dec β} {b : β} : (x >>= f) = .ok b ↔ ∃ a, x = .ok a ∧ f a = .ok b := by
  cases x with
  | error e => exact ⟨nofun, nofun⟩
  | ok a => exact ⟨fun h => ⟨a, rfl, h⟩, fun ⟨_, ha, h⟩ => Except.ok.inj ha ▸ h⟩

@[simp] theorem need_bind {α : Type} {e : Illegal} {b : Bool} {f : Unit → Dec α} {a : α} :
    (need e b >>= f) = .ok a ↔ b = true ∧ f () = .ok a := by
  cases b
  · exact ⟨nofun, nofun⟩
  · exact (and_iff_right rfl).symm

@[simp] theorem need_map {α : Type} {e : Illegal} {b : Bool} {f : Unit → α} {a : α} :
    (f <$> need e b) = .ok a ↔ b = true ∧ f () = a := by
  cases b
  · exact ⟨nofun, nofun⟩
  · exact ⟨fun h => ⟨rfl, Except.ok.inj h⟩, fun ⟨_, h⟩ => h ▸ rfl⟩

section
variable {w : Word}

@[simp] theorem Dec_ok_bind {α β : Type} {a : α} {f : α → Dec β} : ((.ok a : Dec α) >>= f) = f a := rfl

@[simp] theorem noTy_bind {i : Instr} {f : Unit → Dec Instr} : (noTy w >>= f) = .ok i ↔ fTy w = 0 ∧ f () = .ok i := by
  rw [noTy, need_bind, beq_iff_eq]
@[simp] theorem noMod_bind {i : Instr} {f : Unit → Dec Instr} : (noMod w >>= f) = .ok i ↔ fMod w = 0 ∧ f () = .ok i := by
  rw [noMod, need_bind, beq_iff_eq]
@[simp] theorem noLa_bind {i : Instr} {f : Unit → Dec Instr} : (noLa w >>= f) = .ok i ↔ fLa w = 0 ∧ f () = .ok i := by
  rw [noLa, need_bind, beq_iff_eq]

@[simp] theorem noLa_map {i : Instr} {f : Unit → Instr} : (f <$> noLa w : Dec Instr) = .ok i ↔ fLa w = 0 ∧ f () = i := by
  rw [noLa, need_map, beq_iff_eq]

@[simp] theorem cx0_iff : cx0 w = true ↔ fC w = 0 ∧ fX w = 0 := by
  rw [cx0, Bool.and_eq_true, beq_iff_eq, beq_iff_eq]

@[simp] theorem needTy_eq_ok {l : List Ty} {t : Ty} : needTy w l = .ok t ↔ fTy w = tyCode t ∧ l.contains t = true := by
  rw [← tyOf_eq_iff, needTy]
  cases tyOf (fTy w) with
  | none => exact ⟨nofun, nofun⟩
  | some u =>
    by_cases hu : l.contains u = true
    · simp only [hu, ↓reduceIte, Except.ok.injEq, Option.some.injEq]
      exact ⟨fun h => ⟨h, h ▸ hu⟩, And.left⟩
    · simp only [hu, Bool.false_eq_true, ↓reduceIte, reduceCtorEq, Option.some.injEq, false_iff, not_and]
      rintro rfl
      exact hu

@[simp] theorem needU_eq_ok {u : Bool} : needU w = .ok u ↔ fTy w = uTy u := by
  unfold needU uTy
  by_cases h0 : fTy w = 0
  · cases u <;> simp [h0]
  · by_cases h5 : fTy w = 5 <;> cases u <;> simp_all

@[simp] theorem needMem_eq_ok {l : List Ord4} {s : Scope} {o : Ord4} :
    needMem w l = .ok (s, o) ↔ fTop w = scopeCode s ∧ ordOf (fOrd w) = o ∧ l.contains o = true := by
  rw [← scopeOf_eq_iff, needMem, needScope]
  cases scopeOf (fTop w) with
  | none => exact ⟨nofun, nofun⟩
  | some t =>
    refine need_bind.trans ?_
    rw [Option.some.injEq]
    refine ⟨fun ⟨hl, h⟩ => ?_, fun ⟨ht, ho, hl⟩ => ⟨ho ▸ hl, ht ▸ ho ▸ rfl⟩⟩
    obtain ⟨rfl, rfl⟩ := Prod.mk.inj (Except.ok.inj h)
    exact ⟨rfl, rfl, hl⟩

@[simp] theorem needTy_bind {l : List Ty} {i : Instr} {f : Ty → Dec Instr} :
    (needTy w l >>= f) = .ok i ↔ ∃ t, fTy w = tyCode t ∧ l.contains t = true ∧ f t = .ok i := by
  simp only [Dec_bind, needTy_eq_ok, and_assoc]

@[simp] theorem needU_bind {i : Instr} {f : Bool → Dec Instr} :
    (needU w >>= f) = .ok i ↔ ∃ u, fTy w = uTy u ∧ f u = .ok i := by
  simp only [Dec_bind, needU_eq_ok]

@[simp] theorem needMem_bind {l : List Ord4} {i : Instr} {f : Scope × Ord4 → Dec Instr} :
    (needMem w l >>= f) = .ok i ↔
      ∃ s, fTop w = scopeCode s ∧ l.contains (ordOf (fOrd w)) = true ∧ f (s, ordOf (fOrd w)) = .ok i := by
  simp only [Dec_bind, Prod.exists, needMem_eq_ok, and_assoc, ↓existsAndEq, true_and]
end

@[simp] theorem inClass_bind {cls : Eng} {l : List Eng} {i : Instr} {f : Unit → Dec Instr} :
    (inClass cls l >>= f) = .ok i ↔ inClass cls l = .ok () ∧ f () = .ok i := by
  rw [inClass, need_bind, need]
  split <;> simp_all

end Sys2Proof.Machine.ExecModel
end

section
/-! SUPPORT. What each shape of decoder reads: the words of one format whose operands its instruction admits, and no others. -/

namespace Sys2Proof.Machine.ExecModel

/-- The numbers of a kind of register fit the byte of a register field. -/
def FitsByte (k : Nat → Bool) : Prop := ∀ n, k n = true → n % 256 = n

theorem isS_fits : FitsByte isS := fun _ => mod_of_isS
theorem isM_fits : FitsByte isM := fun _ => mod_of_isM
theorem isV_fits : FitsByte isV := fun _ => mod_of_isV
theorem isTile_fits : FitsByte isTile := fun _ => mod_of_isTile
theorem isBar_fits : FitsByte isBar := fun _ => mod_of_isS

section
variable {op : Nat} {w : Word} {i : Instr} (hop : fOp w = op)
include hop

theorem decNone_iff {j : Instr} : decNone j w = .ok i ↔ encR op 0 0 0 0 0 0 0 0 = w ∧ j = i := by
  subst hop
  simp [decNone, encR_eq_iff]
  grind

theorem decSS_iff {k : Nat → Nat → Instr} :
    decSS k w = .ok i ↔ ∃ d a, (isS d && isS a) = true ∧
      encR op 0 0 0 d a 0 0 0 = w ∧ k d a = i := by
  subst hop
  constructor
  · intro h
    simp [decSS] at h
    exact ⟨fD w, fA w, by simp [encR_eq_iff, h]⟩
  · rintro ⟨d, a, hr, hw, rfl⟩
    simp_all [decSS, encR_eq_iff, mod_of_isS]

theorem decSImm_iff {k : Nat → BitVec 32 → Instr} :
    decSImm k w = .ok i ↔ ∃ d imm, isS d = true ∧
      encL op d imm = w ∧ k d imm = i := by
  subst hop
  constructor
  · intro h
    simp [decSImm] at h
    exact ⟨fD w, fImm32 w, by simp [encL_eq_iff, h]⟩
  · rintro ⟨d, imm, hr, hw, rfl⟩
    simp_all [decSImm, encL_eq_iff, mod_of_isS]

theorem decSSat_iff {k : Bool → Bool → Nat → Nat → Nat → Instr} :
    decSSat k w = .ok i ↔ ∃ u s d a b, ((!s || u) && isS d && isS a && isS b) = true ∧
      encR op 0 (uTy u) (mArith s .rn 0) d a b 0 0 = w ∧ k u s d a b = i := by
  subst hop
  constructor
  · intro h
    simp [decSSat, -Bool.exists_bool] at h
    obtain ⟨u, h⟩ := h
    exact ⟨u, fSat w, fD w, fA w, fB w, by simp [encR_eq_iff, fMod_eq_mArith, rndOf_eq_iff, rndCode, h]⟩
  · rintro ⟨u, s, d, a, b, hr, hw, rfl⟩
    simp_all [decSSat, -Bool.exists_bool, encR_eq_iff, fMod_eq_mArith, rndOf_eq_iff, rndCode, mod_of_isS]

theorem decSU_iff {k : Bool → Nat → Nat → Nat → Instr} :
    decSU k w = .ok i ↔ ∃ u d a b, (isS d && isS a && isS b) = true ∧
      encR op 0 (uTy u) 0 d a b 0 0 = w ∧ k u d a b = i := by
  subst hop
  constructor
  · intro h
    simp [decSU, -Bool.exists_bool] at h
    obtain ⟨u, h⟩ := h
    exact ⟨u, fD w, fA w, fB w, by simp [encR_eq_iff, h]⟩
  · rintro ⟨u, d, a, b, hr, hw, rfl⟩
    simp_all [decSU, -Bool.exists_bool, encR_eq_iff, mod_of_isS]

theorem decSSS_iff {k : Nat → Nat → Nat → Instr} :
    decSSS k w = .ok i ↔ ∃ d a b, (isS d && isS a && isS b) = true ∧
      encR op 0 0 0 d a b 0 0 = w ∧ k d a b = i := by
  subst hop
  constructor
  · intro h
    simp [decSSS] at h
    exact ⟨fD w, fA w, fB w, by simp [encR_eq_iff, h]⟩
  · rintro ⟨d, a, b, hr, hw, rfl⟩
    simp_all [decSSS, encR_eq_iff, mod_of_isS]

theorem decSSSS_iff {k : Nat → Nat → Nat → Nat → Instr} :
    decSSSS k w = .ok i ↔ ∃ d a b c, (isS d && isS a && isS b && isS c) = true ∧
      encR op 0 0 0 d a b c 0 = w ∧ k d a b c = i := by
  subst hop
  constructor
  · intro h
    simp [decSSSS] at h
    exact ⟨fD w, fA w, fB w, fC w, by simp [encR_eq_iff, h]⟩
  · rintro ⟨d, a, b, c, hr, hw, rfl⟩
    simp_all [decSSSS, encR_eq_iff, mod_of_isS]

theorem decABC_iff {kd ka kb : Nat → Bool} (hd : FitsByte kd) (ha : FitsByte ka) (hb : FitsByte kb)
    {k : Nat → Nat → Nat → Instr} :
    decABC kd ka kb k w = .ok i ↔ ∃ d a b, (kd d && ka a && kb b) = true ∧
      encR op 0 0 0 d a b 0 0 = w ∧ k d a b = i := by
  subst hop
  constructor
  · intro h
    simp [decABC] at h
    exact ⟨fD w, fA w, fB w, by simp [encR_eq_iff, h]⟩
  · rintro ⟨d, a, b, hr, hw, rfl⟩
    simp_all [decABC, encR_eq_iff, hd d, ha a, hb b]

theorem decDA_iff {kd ka : Nat → Bool} (hd : FitsByte kd) (ha : FitsByte ka) {k : Nat → Nat → Instr} :
    decDA kd ka k w = .ok i ↔ ∃ d a, (kd d && ka a) = true ∧
      encR op 0 0 0 d a 0 0 0 = w ∧ k d a = i := by
  subst hop
  constructor
  · intro h
    simp [decDA] at h
    exact ⟨fD w, fA w, by simp [encR_eq_iff, h]⟩
  · rintro ⟨d, a, hr, hw, rfl⟩
    simp_all [decDA, encR_eq_iff, hd d, ha a]

theorem decD_iff {kd : Nat → Bool} (hd : FitsByte kd) {k : Nat → Instr} :
    decD kd k w = .ok i ↔ ∃ d, kd d = true ∧
      encR op 0 0 0 d 0 0 0 0 = w ∧ k d = i := by
  subst hop
  constructor
  · intro h
    simp [decD] at h
    exact ⟨fD w, by simp [encR_eq_iff, h]⟩
  · rintro ⟨d, hr, hw, rfl⟩
    simp_all [decD, encR_eq_iff, hd d]

theorem decA_iff {ka : Nat → Bool} (ha : FitsByte ka) {k : Nat → Instr} :
    decA ka k w = .ok i ↔ ∃ a, ka a = true ∧
      encR op 0 0 0 0 a 0 0 0 = w ∧ k a = i := by
  subst hop
  constructor
  · intro h
    simp [decA] at h
    exact ⟨fA w, by simp [encR_eq_iff, h]⟩
  · rintro ⟨a, hr, hw, rfl⟩
    simp_all [decA, encR_eq_iff, ha a]

theorem decAB_iff {k : Nat → Nat → Instr} :
    decAB k w = .ok i ↔ ∃ a b, (isS a && isS b) = true ∧
      encR op 0 0 0 0 a b 0 0 = w ∧ k a b = i := by
  subst hop
  constructor
  · intro h
    simp [decAB] at h
    exact ⟨fA w, fB w, by simp [encR_eq_iff, h]⟩
  · rintro ⟨a, b, hr, hw, rfl⟩
    simp_all [decAB, encR_eq_iff, mod_of_isS]

theorem decVSat_iff {k : Ty → Bool → Nat → Nat → Nat → Instr} :
    decVSat k w = .ok i ↔ ∃ t s d a b, (intTys.contains t && isV d && isV a && isV b) = true ∧
      encR op 0 (tyCode t) (mArith s .rn 0) d a b 0 0 = w ∧ k t s d a b = i := by
  subst hop
  constructor
  · intro h
    simp [decVSat] at h
    obtain ⟨t, h⟩ := h
    exact ⟨t, fSat w, fD w, fA w, fB w, by simp [encR_eq_iff, intTys, fMod_eq_mArith, rndOf_eq_iff, rndCode, h]⟩
  · rintro ⟨t, s, d, a, b, hr, hw, rfl⟩
    simp_all [decVSat, encR_eq_iff, intTys, fMod_eq_mArith, rndOf_eq_iff, rndCode, mod_of_isV]

theorem decVT_iff {tys : List Ty} {k : Ty → Nat → Nat → Nat → Instr} :
    decVT tys k w = .ok i ↔ ∃ t d a b, (tys.contains t && isV d && isV a && isV b) = true ∧
      encR op 0 (tyCode t) 0 d a b 0 0 = w ∧ k t d a b = i := by
  subst hop
  constructor
  · intro h
    simp [decVT] at h
    obtain ⟨t, h⟩ := h
    exact ⟨t, fD w, fA w, fB w, by simp [encR_eq_iff, h]⟩
  · rintro ⟨t, d, a, b, hr, hw, rfl⟩
    simp_all [decVT, encR_eq_iff, mod_of_isV]

theorem decVT2_iff {tys : List Ty} {k : Ty → Nat → Nat → Instr} :
    decVT2 tys k w = .ok i ↔ ∃ t d a, (tys.contains t && isV d && isV a) = true ∧
      encR op 0 (tyCode t) 0 d a 0 0 0 = w ∧ k t d a = i := by
  subst hop
  constructor
  · intro h
    simp [decVT2] at h
    obtain ⟨t, h⟩ := h
    exact ⟨t, fD w, fA w, by simp [encR_eq_iff, h]⟩
  · rintro ⟨t, d, a, hr, hw, rfl⟩
    simp_all [decVT2, encR_eq_iff, mod_of_isV]

theorem decVSat2_iff {k : Ty → Bool → Nat → Nat → Instr} :
    decVSat2 k w = .ok i ↔ ∃ t s d a, ([Ty.i32, .i16].contains t && isV d && isV a) = true ∧
      encR op 0 (tyCode t) (mArith s .rn 0) d a 0 0 0 = w ∧ k t s d a = i := by
  subst hop
  constructor
  · intro h
    simp [decVSat2] at h
    obtain ⟨t, h⟩ := h
    exact ⟨t, fSat w, fD w, fA w, by simp [encR_eq_iff, fMod_eq_mArith, rndOf_eq_iff, rndCode, h]⟩
  · rintro ⟨t, s, d, a, hr, hw, rfl⟩
    simp_all [decVSat2, encR_eq_iff, fMod_eq_mArith, rndOf_eq_iff, rndCode, mod_of_isV]

theorem decV4_iff {kc : Nat → Bool} (hc : FitsByte kc) {k : Nat → Nat → Nat → Nat → Instr} :
    decV4 kc k w = .ok i ↔ ∃ d a b c, (isV d && isV a && isV b && kc c) = true ∧
      encR op 0 0 0 d a b c 0 = w ∧ k d a b c = i := by
  subst hop
  constructor
  · intro h
    simp [decV4] at h
    exact ⟨fD w, fA w, fB w, fC w, by simp [encR_eq_iff, h]⟩
  · rintro ⟨d, a, b, c, hr, hw, rfl⟩
    simp_all [decV4, encR_eq_iff, hc c, mod_of_isV]

theorem decVF_iff {k : Ty → Rnd → Nat → Nat → Nat → Instr} :
    decVF k w = .ok i ↔ ∃ t r d a b, (floatTys.contains t && isV d && isV a && isV b) = true ∧
      encR op 0 (tyCode t) (mArith false r 0) d a b 0 0 = w ∧ k t r d a b = i := by
  subst hop
  constructor
  · intro h
    simp [decVF] at h
    obtain ⟨t, h⟩ := h
    exact ⟨t, rndOf (fRnd w), fD w, fA w, fB w, by simp [encR_eq_iff, fMod_eq_mArith, h]⟩
  · rintro ⟨t, r, d, a, b, hr, hw, rfl⟩
    simp_all [decVF, encR_eq_iff, fMod_eq_mArith, mod_of_isV]

theorem decVFn_iff {k : Nat → Rnd → Nat → Nat → Instr} :
    decVFn k w = .ok i ↔ ∃ la r d a, (laWf la && isV d && isV a) = true ∧
      encR op la 6 (mArith false r 0) d a 0 0 0 = w ∧ k la r d a = i := by
  subst hop
  constructor
  · intro h
    simp [decVFn, tyCode] at h
    exact ⟨fLa w, rndOf (fRnd w), fD w, fA w, by simp [encR_eq_iff, fMod_eq_mArith, h]⟩
  · rintro ⟨la, r, d, a, hr, hw, rfl⟩
    simp_all [decVFn, tyCode, encR_eq_iff, fMod_eq_mArith, mod_of_isV, mod_of_laWf]

theorem decMS_iff {tys : List Ty} {os : List Ord4}
    {k : Nat → Ty → Scope → Ord4 → Nat → Nat → Nat → BitVec 18 → Instr} :
    decMS tys os true k w = .ok i ↔ ∃ la t s o d a b ofs, (laWf la && tys.contains t && os.contains o && isS d && isS a && isS b) = true ∧
      encM op la (tyCode t) (mMem s o false) d a b ofs = w ∧ k la t s o d a b ofs = i := by
  subst hop
  constructor
  · intro h
    simp [decMS] at h
    obtain ⟨t, ht, htys, s, hs, h⟩ := h
    exact ⟨fLa w, t, s, ordOf (fOrd w), fD w, fA w, fB w, fOfs18 w, by simp [encM_eq_iff, fMod_eq_mMem, *]⟩
  · rintro ⟨la, t, s, o, d, a, b, ofs, hr, hw, rfl⟩
    simp_all [decMS, encM_eq_iff, fMod_eq_mMem, mod_of_isS, mod_of_laWf]

theorem decMX_iff {tys : List Ty} {os : List Ord4}
    {k : Nat → Ty → Scope → Ord4 → Nat → Nat → BitVec 18 → Instr} :
    decMX tys os true k w = .ok i ↔ ∃ la t s o d a ofs, (laWf la && tys.contains t && os.contains o && isV d && isV a && isEven a) = true ∧
      encM op la (tyCode t) (mMem s o false) d a 0 ofs = w ∧ k la t s o d a ofs = i := by
  subst hop
  constructor
  · intro h
    simp [decMX] at h
    obtain ⟨t, ht, htys, s, hs, h⟩ := h
    exact ⟨fLa w, t, s, ordOf (fOrd w), fD w, fA w, fOfs18 w, by simp [encM_eq_iff, fMod_eq_mMem, *]⟩
  · rintro ⟨la, t, s, o, d, a, ofs, hr, hw, rfl⟩
    simp_all [decMX, encM_eq_iff, fMod_eq_mMem, mod_of_isV, mod_of_laWf]

theorem decMSNoLa_iff {tys : List Ty} {os : List Ord4}
    {k : Ty → Scope → Ord4 → Nat → Nat → Nat → BitVec 18 → Instr} :
    decMS tys os false (fun _ => k) w = .ok i ↔ ∃ t s o d a b ofs, (tys.contains t && os.contains o && isS d && isS a && isS b) = true ∧
      encM op 0 (tyCode t) (mMem s o false) d a b ofs = w ∧ k t s o d a b ofs = i := by
  subst hop
  constructor
  · intro h
    simp [decMS] at h
    obtain ⟨t, ht, htys, s, hs, h⟩ := h
    exact ⟨t, s, ordOf (fOrd w), fD w, fA w, fB w, fOfs18 w, by simp [encM_eq_iff, fMod_eq_mMem, *]⟩
  · rintro ⟨t, s, o, d, a, b, ofs, hr, hw, rfl⟩
    simp_all [decMS, encM_eq_iff, fMod_eq_mMem, mod_of_isS]

theorem decMXNoLa_iff {tys : List Ty} {os : List Ord4}
    {k : Ty → Scope → Ord4 → Nat → Nat → BitVec 18 → Instr} :
    decMX tys os false (fun _ => k) w = .ok i ↔ ∃ t s o d a ofs, (tys.contains t && os.contains o && isV d && isV a && isEven a) = true ∧
      encM op 0 (tyCode t) (mMem s o false) d a 0 ofs = w ∧ k t s o d a ofs = i := by
  subst hop
  constructor
  · intro h
    simp [decMX] at h
    obtain ⟨t, ht, htys, s, hs, h⟩ := h
    exact ⟨t, s, ordOf (fOrd w), fD w, fA w, fOfs18 w, by simp [encM_eq_iff, fMod_eq_mMem, *]⟩
  · rintro ⟨t, s, o, d, a, ofs, hr, hw, rfl⟩
    simp_all [decMX, encM_eq_iff, fMod_eq_mMem, mod_of_isV]
end

end Sys2Proof.Machine.ExecModel
end

section
/-! SUPPORT. The rows of the opcode map (R101 to R159): a word that a row reads, and the instruction that it stands for. -/

namespace Sys2Proof.Machine.ExecModel

theorem mod_of_lt63 {n : Nat} (h : n < 63) : n % 256 = n := Nat.mod_eq_of_lt (h.trans (by decide))
theorem mod_of_le60 {n : Nat} (h : n ≤ 60) : n % 256 = n := Nat.mod_eq_of_lt (h.trans_lt (by decide))
theorem mod_of_sysKnown {n : Nat} (h : sysKnown n = true) : n % 1024 = n := by
  simp [sysKnown] at h
  omega
theorem condOf_ordered {c : BitVec 3} : c.toNat < 6 ↔ condOf c ≠ .un ∧ condOf c ≠ .ord := by
  revert c
  decide
theorem ord_ne_rlx {o : Ord4} : (o = .acq ∨ o = .rel ∨ o = .ar) ↔ o ≠ .rlx := by
  cases o <;> decide

section
variable {w : Word} {i : Instr} {cls : Eng}

theorem bra_iff (hop : fOp w = 0x01) : decode0 cls 0x1 w = .ok i ↔ inClass cls cAll = .ok () ∧
    ∃ t, encJ 0x01 0 0 t 0 = w ∧ .bra t = i := by
  constructor
  · intro h
    simp [decode0] at h
    obtain ⟨hcls, h⟩ := h
    exact ⟨hcls, fTgt w, by simp [encJ_eq_iff, *]⟩
  · rintro ⟨hcls, t, hw, rfl⟩
    simp_all [decode0, encJ_eq_iff]

theorem call_iff (hop : fOp w = 0x04) : decode0 cls 0x4 w = .ok i ↔ inClass cls cAll = .ok () ∧
    ∃ t, encJ 0x04 0 0 t 0 = w ∧ .call t = i := by
  constructor
  · intro h
    simp [decode0] at h
    obtain ⟨hcls, h⟩ := h
    exact ⟨hcls, fTgt w, by simp [encJ_eq_iff, *]⟩
  · rintro ⟨hcls, t, hw, rfl⟩
    simp_all [decode0, encJ_eq_iff]

theorem brv_iff (hop : fOp w = 0x03) : decode0 cls 0x3 w = .ok i ↔ inClass cls cTeam = .ok () ∧
    ∃ m t j, (isM m && j != 0) = true ∧ encJ 0x03 5 m t j = w ∧ .brv m t j = i := by
  constructor
  · intro h
    simp [decode0] at h
    obtain ⟨hcls, h⟩ := h
    exact ⟨hcls, fD w, fTgt w, fJoin w, by simp [encJ_eq_iff, *]⟩
  · rintro ⟨hcls, m, t, j, hr, hw, rfl⟩
    simp_all [decode0, encJ_eq_iff, mod_of_isM]

theorem loop_iff (hop : fOp w = 0x08) : decode0 cls 0x8 w = .ok i ↔ inClass cls cAll = .ok () ∧
    ∃ a t j, (decide (a < 63)) = true ∧ encJ 0x08 1 a t j = w ∧ .loop a t j = i := by
  constructor
  · intro h
    simp [decode0] at h
    obtain ⟨hcls, h⟩ := h
    exact ⟨hcls, fD w, fTgt w, fJoin w, by simp [encJ_eq_iff, *]⟩
  · rintro ⟨hcls, a, t, j, hr, hw, rfl⟩
    simp_all [decode0, encJ_eq_iff, mod_of_lt63]

theorem trap_iff (hop : fOp w = 0x0A) : decode0 cls 0xA w = .ok i ↔ inClass cls cAll = .ok () ∧
    ∃ n, encI 0x0A 0 0 0 0 ((0 : BitVec 1) ++ n) = w ∧ .trap n = i := by
  constructor
  · intro h
    simp [decode0] at h
    obtain ⟨hcls, h⟩ := h
    exact ⟨hcls, w.extractLsb' 0 25, by simp [encI_eq_iff, fImm26_eq_zero_append, *]⟩
  · rintro ⟨hcls, n, hw, rfl⟩
    simp_all [decode0, encI_eq_iff, fImm26_eq_zero_append]

theorem bkpt_iff (hop : fOp w = 0x0C) : decode0 cls 0xC w = .ok i ↔ inClass cls cAll = .ok () ∧
    ∃ n, encI 0x0C 0 0 0 0 ((0 : BitVec 1) ++ n) = w ∧ .bkpt n = i := by
  constructor
  · intro h
    simp [decode0] at h
    obtain ⟨hcls, h⟩ := h
    exact ⟨hcls, w.extractLsb' 0 25, by simp [encI_eq_iff, fImm26_eq_zero_append, *]⟩
  · rintro ⟨hcls, n, hw, rfl⟩
    simp_all [decode0, encI_eq_iff, fImm26_eq_zero_append]

theorem scmp_iff (hop : fOp w = 0x1F) : decode1 cls 0xF w = .ok i ↔ inClass cls cAll = .ok () ∧
    ∃ u c d a b, (c != .un && c != .ord && isS d && isS a && isS b) = true ∧ encR 0x1F 0 (uTy u) (mCmp c) d a b 0 0 = w ∧ .scmp u c d a b = i := by
  constructor
  · intro h
    simp [decode1, condOf_ordered, -Bool.exists_bool] at h
    obtain ⟨hcls, u, h⟩ := h
    exact ⟨hcls, u, condOf (fTop w), fD w, fA w, fB w, by simp [encR_eq_iff, fMod_eq_mCmp, *]⟩
  · rintro ⟨hcls, u, c, d, a, b, hr, hw, rfl⟩
    simp_all [decode1, condOf_ordered, -Bool.exists_bool, encR_eq_iff, fMod_eq_mCmp, mod_of_isS]

theorem saddi_iff (hop : fOp w = 0x21) : decode2 cls 0x1 w = .ok i ↔ inClass cls cAll = .ok () ∧
    ∃ u s d a imm, ((!s || u) && isS d && isS a) = true ∧ encI 0x21 (uTy u) (mArith s .rn 0) d a imm = w ∧ .saddi u s d a imm = i := by
  constructor
  · intro h
    simp [decode2, -Bool.exists_bool] at h
    obtain ⟨hcls, u, h⟩ := h
    exact ⟨hcls, u, fSat w, fD w, fA w, fImm26 w, by simp [encI_eq_iff, fMod_eq_mArith, rndOf_eq_iff, rndCode, *]⟩
  · rintro ⟨hcls, u, s, d, a, imm, hr, hw, rfl⟩
    simp_all [decode2, -Bool.exists_bool, encI_eq_iff, fMod_eq_mArith, rndOf_eq_iff, rndCode, mod_of_isS]

theorem mcmp_iff (hop : fOp w = 0x33) : decode3 cls 0x3 w = .ok i ↔ inClass cls cTeam = .ok () ∧
    ∃ t c d a b, ([Ty.b32, .i32, .n32, .i16, .n16].contains t && c != .un && c != .ord && (t != .b32 || c == .eq || c == .ne) &&
      isM d && isV a && isV b) = true ∧ encR 0x33 0 (tyCode t) (mCmp c) d a b 0 0 = w ∧ .mcmp t c d a b = i := by
  constructor
  · intro h
    simp [decode3, decCmp] at h
    obtain ⟨hcls, t, h⟩ := h
    exact ⟨hcls, t, condOf (fTop w), fD w, fA w, fB w, by simp [encR_eq_iff, fMod_eq_mCmp, *]⟩
  · rintro ⟨hcls, t, c, d, a, b, hr, hw, rfl⟩
    simp_all [decode3, decCmp, encR_eq_iff, fMod_eq_mCmp, mod_of_isM, mod_of_isV]

theorem mfcmp_iff (hop : fOp w = 0x34) : decode3 cls 0x4 w = .ok i ↔ inClass cls cTeam = .ok () ∧
    ∃ t c d a b, (floatTys.contains t && isM d && isV a && isV b) = true ∧ encR 0x34 0 (tyCode t) (mCmp c) d a b 0 0 = w ∧ .mfcmp t c d a b = i := by
  constructor
  · intro h
    simp [decode3, decCmp] at h
    obtain ⟨hcls, t, h⟩ := h
    exact ⟨hcls, t, condOf (fTop w), fD w, fA w, fB w, by simp [encR_eq_iff, fMod_eq_mCmp, *]⟩
  · rintro ⟨hcls, t, c, d, a, b, hr, hw, rfl⟩
    simp_all [decode3, decCmp, encR_eq_iff, fMod_eq_mCmp, mod_of_isM, mod_of_isV]

theorem vmovi_iff (hop : fOp w = 0x41) : decode4 cls 0x1 w = .ok i ↔ inClass cls cTeam = .ok () ∧
    ∃ d imm, isV d = true ∧ encL 0x41 d imm = w ∧ .vmovi d imm = i := by
  constructor
  · intro h
    simp [decode4] at h
    obtain ⟨hcls, h⟩ := h
    exact ⟨hcls, fD w, fImm32 w, by simp [encL_eq_iff, *]⟩
  · rintro ⟨hcls, d, imm, hr, hw, rfl⟩
    simp_all [decode4, encL_eq_iff, mod_of_isV]

theorem vmad_iff (hop : fOp w = 0x46) : decode4 cls 0x6 w = .ok i ↔ inClass cls cTeam = .ok () ∧
    ∃ t s d a b c, (intTys.contains t && isV d && isV a && isV b && isV c) = true ∧ encR 0x46 0 (tyCode t) (mArith s .rn 0) d a b c 0 = w ∧ .vmad t s d a b c = i := by
  constructor
  · intro h
    simp [decode4] at h
    obtain ⟨hcls, t, h⟩ := h
    exact ⟨hcls, t, fSat w, fD w, fA w, fB w, fC w, by simp [encR_eq_iff, intTys, fMod_eq_mArith, rndOf_eq_iff, rndCode, *]⟩
  · rintro ⟨hcls, t, s, d, a, b, c, hr, hw, rfl⟩
    simp_all [decode4, encR_eq_iff, intTys, fMod_eq_mArith, rndOf_eq_iff, rndCode, mod_of_isV]

theorem vaddi_iff (hop : fOp w = 0x58) : decode5 cls 0x8 w = .ok i ↔ inClass cls cTeam = .ok () ∧
    ∃ t s d a imm, (intTys.contains t && isV d && isV a) = true ∧ encI 0x58 (tyCode t) (mArith s .rn 0) d a imm = w ∧ .vaddi t s d a imm = i := by
  constructor
  · intro h
    simp [decode5] at h
    obtain ⟨hcls, t, h⟩ := h
    exact ⟨hcls, t, fSat w, fD w, fA w, fImm26 w, by simp [encI_eq_iff, intTys, fMod_eq_mArith, rndOf_eq_iff, rndCode, *]⟩
  · rintro ⟨hcls, t, s, d, a, imm, hr, hw, rfl⟩
    simp_all [decode5, encI_eq_iff, intTys, fMod_eq_mArith, rndOf_eq_iff, rndCode, mod_of_isV]

theorem vfma_iff (hop : fOp w = 0x63) : decode6 cls 0x3 w = .ok i ↔ inClass cls cTeam = .ok () ∧
    ∃ t r d a b c, (floatTys.contains t && isV d && isV a && isV b && isV c) = true ∧ encR 0x63 0 (tyCode t) (mArith false r 0) d a b c 0 = w ∧ .vfma t r d a b c = i := by
  constructor
  · intro h
    simp [decode6] at h
    obtain ⟨hcls, t, h⟩ := h
    exact ⟨hcls, t, rndOf (fRnd w), fD w, fA w, fB w, fC w, by simp [encR_eq_iff, fMod_eq_mArith, *]⟩
  · rintro ⟨hcls, t, r, d, a, b, c, hr, hw, rfl⟩
    simp_all [decode6, encR_eq_iff, fMod_eq_mArith, mod_of_isV]

theorem vpack_iff (hop : fOp w = 0x6D) : decode6 cls 0xD w = .ok i ↔ inClass cls cTeam = .ok () ∧
    ∃ t s r d a b, (packTys.contains t && cvtModOk t (packSrc t) s r && isV d && isV a && isV b) = true ∧ encR 0x6D 0 (tyCode t) (mArith s r 0) d a b 0 0 = w ∧ .vpack t s r d a b = i := by
  constructor
  · intro h
    simp [decode6] at h
    obtain ⟨hcls, t, h⟩ := h
    exact ⟨hcls, t, fSat w, rndOf (fRnd w), fD w, fA w, fB w, by simp [encR_eq_iff, fMod_eq_mArith, *]⟩
  · rintro ⟨hcls, t, s, r, d, a, b, hr, hw, rfl⟩
    simp_all [decode6, encR_eq_iff, fMod_eq_mArith, mod_of_isV]

theorem vunpk_iff (hop : fOp w = 0x6E) : decode6 cls 0xE w = .ok i ↔ inClass cls cTeam = .ok () ∧
    ∃ t h d a, (packTys.contains t && isV d && isV a) = true ∧ encR 0x6E 0 (tyCode t) (mMem .core .rlx h) d a 0 0 0 = w ∧ .vunpk t h d a = i := by
  constructor
  · intro h
    simp [decode6] at h
    obtain ⟨hcls, t, h⟩ := h
    exact ⟨hcls, t, fLow w, fD w, fA w, by simp [encR_eq_iff, fMod_eq_low, *]⟩
  · rintro ⟨hcls, t, h, d, a, hr, hw, rfl⟩
    simp_all [decode6, encR_eq_iff, fMod_eq_low, mod_of_isV]

theorem spwait_iff (hop : fOp w = 0x7F) : decode7 cls 0xF w = .ok i ↔ inClass cls cTeam = .ok () ∧
    ∃ a b ofs, (isS a && isS b) = true ∧ encM 0x7F 0 0 0 0 a b ofs = w ∧ .spwait a b ofs = i := by
  constructor
  · intro h
    simp [decode7] at h
    obtain ⟨hcls, h⟩ := h
    exact ⟨hcls, fA w, fB w, fOfs18 w, by simp [encM_eq_iff, *]⟩
  · rintro ⟨hcls, a, b, ofs, hr, hw, rfl⟩
    simp_all [decode7, encM_eq_iff, mod_of_isS]

theorem fence_iff (hop : fOp w = 0x90) : decode9 cls 0x0 w = .ok i ↔ inClass cls cAll = .ok () ∧
    ∃ sc o, (o != .rlx) = true ∧ encR 0x90 0 0 (mMem sc o false) 0 0 0 0 0 = w ∧ .fence sc o = i := by
  constructor
  · intro h
    simp [decode9, ord_ne_rlx] at h
    obtain ⟨hcls, hty, sc, hsc, h⟩ := h
    exact ⟨hcls, sc, ordOf (fOrd w), by simp [encR_eq_iff, fMod_eq_mMem, *]⟩
  · rintro ⟨hcls, sc, o, hr, hw, rfl⟩
    simp_all [decode9, ord_ne_rlx, encR_eq_iff, fMod_eq_mMem]

theorem fencex_iff (hop : fOp w = 0x91) : decode9 cls 0x1 w = .ok i ↔ inClass cls cTC = .ok () ∧
    ∃ sc o p, (o != .rlx && p != 0) = true ∧ encR 0x91 0 0 (mMem sc o false) 0 0 0 0 ((0 : BitVec 4) ++ p) = w ∧ .fencex sc o p = i := by
  constructor
  · intro h
    simp [decode9, ord_ne_rlx] at h
    obtain ⟨hcls, hty, sc, hsc, h⟩ := h
    exact ⟨hcls, sc, ordOf (fOrd w), (fX w).extractLsb' 0 6, by simp [encR_eq_iff, fMod_eq_mMem, fX_eq_paths, *]⟩
  · rintro ⟨hcls, sc, o, p, hr, hw, rfl⟩
    simp_all [decode9, ord_ne_rlx, encR_eq_iff, fMod_eq_mMem, fX_eq_paths]

theorem wbara_iff (hop : fOp w = 0x96) : decode9 cls 0x6 w = .ok i ↔ inClass cls cAll = .ok () ∧
    ∃ sc a b ofs, (isS a && isS b) = true ∧ encM 0x96 0 0 (mMem sc .rel false) 0 a b ofs = w ∧ .wbara sc a b ofs = i := by
  constructor
  · intro h
    simp [decode9, decWb, isZero] at h
    obtain ⟨hcls, hty, sc, hsc, h⟩ := h
    exact ⟨hcls, sc, fA w, fB w, fOfs18 w, by simp [encM_eq_iff, fMod_eq_mMem, *]⟩
  · rintro ⟨hcls, sc, a, b, ofs, hr, hw, rfl⟩
    simp_all [decode9, decWb, isZero, encM_eq_iff, fMod_eq_mMem, mod_of_isS]

theorem wbarw_iff (hop : fOp w = 0x97) : decode9 cls 0x7 w = .ok i ↔ inClass cls cAll = .ok () ∧
    ∃ sc p d a b ofs, (isS d && isS a && isS b) = true ∧ encM 0x97 0 0 (mMem sc .acq p) d a b ofs = w ∧ .wbarw sc p d a b ofs = i := by
  constructor
  · intro h
    simp [decode9, decWb] at h
    obtain ⟨hcls, hty, sc, hsc, h⟩ := h
    exact ⟨hcls, sc, fLow w, fD w, fA w, fB w, fOfs18 w, by simp [encM_eq_iff, fMod_eq_mMem, *]⟩
  · rintro ⟨hcls, sc, p, d, a, b, ofs, hr, hw, rfl⟩
    simp_all [decode9, decWb, encM_eq_iff, fMod_eq_mMem, mod_of_isS]

theorem wbari_iff (hop : fOp w = 0x98) : decode9 cls 0x8 w = .ok i ↔ inClass cls cAll = .ok () ∧
    ∃ sc d a b ofs, (isS d && isS a && isS b) = true ∧ encM 0x98 0 0 (mMem sc .rlx false) d a b ofs = w ∧ .wbari sc d a b ofs = i := by
  constructor
  · intro h
    simp [decode9, decWb] at h
    obtain ⟨hcls, hty, sc, hsc, h⟩ := h
    exact ⟨hcls, sc, fD w, fA w, fB w, fOfs18 w, by simp [encM_eq_iff, fMod_eq_mMem, *]⟩
  · rintro ⟨hcls, sc, d, a, b, ofs, hr, hw, rfl⟩
    simp_all [decode9, decWb, encM_eq_iff, fMod_eq_mMem, mod_of_isS]

theorem clmq_iff (hop : fOp w = 0xA3) : decodeA cls 0x3 w = .ok i ↔ inClass cls cTeam = .ok () ∧
    ∃ la d, (laWf la && isS d) = true ∧ encR 0xA3 la 0 0 d 0 0 0 0 = w ∧ .clmq la d = i := by
  constructor
  · intro h
    simp [decodeA] at h
    obtain ⟨hcls, h⟩ := h
    exact ⟨hcls, fLa w, fD w, by simp [encR_eq_iff, *]⟩
  · rintro ⟨hcls, la, d, hr, hw, rfl⟩
    simp_all [decodeA, encR_eq_iff, mod_of_isS, mod_of_laWf]

theorem lraise_iff (hop : fOp w = 0xA9) : decodeA cls 0x9 w = .ok i ↔ inClass cls cTeam = .ok () ∧
    ∃ d a b ofs, (isS d && isS a && isS b) = true ∧ encM 0xA9 0 0 0 d a b ofs = w ∧ .lraise d a b ofs = i := by
  constructor
  · intro h
    simp [decodeA] at h
    obtain ⟨hcls, h⟩ := h
    exact ⟨hcls, fD w, fA w, fB w, fOfs18 w, by simp [encM_eq_iff, *]⟩
  · rintro ⟨hcls, d, a, b, ofs, hr, hw, rfl⟩
    simp_all [decodeA, encM_eq_iff, mod_of_isS]

theorem decl_iff (hop : fOp w = 0xAA) : decodeA cls 0xA w = .ok i ↔ inClass cls cTeam = .ok () ∧
    ∃ d a site tgt, (isV d && isV a) = true ∧ encI 0xAA 0 0 d a ((0 : BitVec 2) ++ tgt ++ site) = w ∧ .decl d a site tgt = i := by
  constructor
  · intro h
    simp [decodeA] at h
    obtain ⟨hcls, h⟩ := h
    exact ⟨hcls, fD w, fA w, w.extractLsb' 0 16, w.extractLsb' 16 8, by simp [encI_eq_iff, fImm26_eq_decl, *]⟩
  · rintro ⟨hcls, d, a, site, tgt, hr, hw, rfl⟩
    simp_all [decodeA, encI_eq_iff, fImm26_eq_decl, mod_of_isV]

theorem endorse_iff (hop : fOp w = 0xAB) : decodeA cls 0xB w = .ok i ↔ inClass cls cTeam = .ok () ∧
    ∃ site n, (n != 0) = true ∧ encI 0xAB 0 0 0 0 (n ++ site) = w ∧ .endorse site n = i := by
  constructor
  · intro h
    simp [decodeA] at h
    obtain ⟨hcls, h⟩ := h
    exact ⟨hcls, w.extractLsb' 0 16, w.extractLsb' 16 10, by simp [encI_eq_iff, fImm26_eq_endorse, *]⟩
  · rintro ⟨hcls, site, n, hr, hw, rfl⟩
    simp_all [decodeA, encI_eq_iff, fImm26_eq_endorse]

theorem rgrow_iff (hop : fOp w = 0xB2) : decodeB cls 0x2 w = .ok i ↔ inClass cls cTeam = .ok () ∧
    ∃ n, (decide (1 ≤ n) && decide (n ≤ 8192)) = true ∧ encI 0xB2 0 0 0 0 ((0 : BitVec 12) ++ BitVec.ofNat 14 n) = w ∧ .rgrow n = i := by
  constructor
  · intro h
    simp [decodeB] at h
    obtain ⟨hcls, h⟩ := h
    exact ⟨hcls, (w.extractLsb' 0 14).toNat, by simp [encI_eq_iff, fImm26_eq_words, *]⟩
  · rintro ⟨hcls, n, hr, hw, rfl⟩
    simp_all [decodeB, encI_eq_iff, fImm26_eq_words]
    omega

theorem rshrink_iff (hop : fOp w = 0xB3) : decodeB cls 0x3 w = .ok i ↔ inClass cls cTeam = .ok () ∧
    ∃ n, (decide (1 ≤ n) && decide (n ≤ 8192)) = true ∧ encI 0xB3 0 0 0 0 ((0 : BitVec 12) ++ BitVec.ofNat 14 n) = w ∧ .rshrink n = i := by
  constructor
  · intro h
    simp [decodeB] at h
    obtain ⟨hcls, h⟩ := h
    exact ⟨hcls, (w.extractLsb' 0 14).toNat, by simp [encI_eq_iff, fImm26_eq_words, *]⟩
  · rintro ⟨hcls, n, hr, hw, rfl⟩
    simp_all [decodeB, encI_eq_iff, fImm26_eq_words]
    omega

theorem fork_iff (hop : fOp w = 0xB8) : decodeB cls 0x8 w = .ok i ↔ inClass cls cTeam = .ok () ∧
    ∃ a b c, (isS a && isS b && isS c) = true ∧ encR 0xB8 0 0 0 0 a b c 0 = w ∧ .fork a b c = i := by
  constructor
  · intro h
    simp [decodeB] at h
    obtain ⟨hcls, h⟩ := h
    exact ⟨hcls, fA w, fB w, fC w, by simp [encR_eq_iff, *]⟩
  · rintro ⟨hcls, a, b, c, hr, hw, rfl⟩
    simp_all [decodeB, encR_eq_iff, mod_of_isS]

theorem tcopy_iff (hop : fOp w = 0xBA) : decodeB cls 0xA w = .ok i ↔ inClass cls cTC = .ok () ∧
    ∃ sh co ct, cmd sh co ct = true ∧ encM 0xBA 0 0 0 sh co ct 0 = w ∧ .tcopy sh co ct = i := by
  constructor
  · intro h
    simp [decodeB, decE] at h
    obtain ⟨hcls, h⟩ := h
    exact ⟨hcls, fD w, fA w, fB w, by simp [encM_eq_iff, fOfs18_eq_zero, cmd, *]⟩
  · rintro ⟨hcls, sh, co, ct, hr, hw, rfl⟩
    simp_all [decodeB, decE, encM_eq_iff, fOfs18_eq_zero, cmd, mod_of_isS, mod_of_le60]

theorem xfer_iff (hop : fOp w = 0xBB) : decodeB cls 0xB w = .ok i ↔ inClass cls cTC = .ok () ∧
    ∃ red sh co ct, cmd sh co ct = true ∧ encM 0xBB 0 0 0 sh co ct ((0 : BitVec 17) ++ bit red) = w ∧ .xfer red sh co ct = i := by
  constructor
  · intro h
    simp [decodeB, decE] at h
    obtain ⟨hcls, h⟩ := h
    exact ⟨hcls, w.getLsbD 0, fD w, fA w, fB w, by simp [encM_eq_iff, fOfs18_eq_flag, cmd, *]⟩
  · rintro ⟨hcls, red, sh, co, ct, hr, hw, rfl⟩
    simp_all [decodeB, decE, encM_eq_iff, fOfs18_eq_flag, cmd, mod_of_isS, mod_of_le60]

theorem mma_iff (hop : fOp w = 0xBC) : decodeB cls 0xC w = .ok i ↔ inClass cls [.matrix] = .ok () ∧
    ∃ t x tile sh co ct, ([Ty.mk8, .sm8, .sm4, .bf16, .f16].contains t && (!x || t == .sm8 || t == .sm4) && isTile tile && cmd sh co ct) = true ∧ encM 0xBC 0 (tyCode t) (mMem .core .rlx x) sh co ct (BitVec.ofNat 18 tile) = w ∧ .mma t x tile sh co ct = i := by
  constructor
  · intro h
    simp [decodeB] at h
    obtain ⟨hcls, t, h⟩ := h
    exact ⟨hcls, t, fLow w, (fOfs18 w).toNat, fD w, fA w, fB w, by simp [encM_eq_iff, fMod_eq_low, cmd, isTile, *]⟩
  · rintro ⟨hcls, t, x, tile, sh, co, ct, hr, hw, rfl⟩
    simp_all [decodeB, encM_eq_iff, fMod_eq_low, fOfs18_eq_ofNat, cmd, isTile, mod_of_isS, mod_of_le60]
    omega

theorem mdrain_iff (hop : fOp w = 0xBE) : decodeB cls 0xE w = .ok i ↔ inClass cls cTeam = .ok () ∧
    ∃ la t r d tile b, (laWf la && floatTys.contains t && isV d && isTile tile && isS b) = true ∧ encR 0xBE la (tyCode t) (mArith false r 0) d tile b 0 0 = w ∧ .mdrain la t r d tile b = i := by
  constructor
  · intro h
    simp [decodeB] at h
    obtain ⟨hcls, t, h⟩ := h
    exact ⟨hcls, fLa w, t, rndOf (fRnd w), fD w, fA w, fB w, by simp [encR_eq_iff, fMod_eq_mArith, *]⟩
  · rintro ⟨hcls, la, t, r, d, tile, b, hr, hw, rfl⟩
    simp_all [decodeB, encR_eq_iff, fMod_eq_mArith, mod_of_isS, mod_of_isV, mod_of_isTile, mod_of_laWf]

theorem mfill_iff (hop : fOp w = 0xBF) : decodeB cls 0xF w = .ok i ↔ inClass cls cTeam = .ok () ∧
    ∃ t tile a b, (floatTys.contains t && isTile tile && isV a && isS b) = true ∧ encR 0xBF 0 (tyCode t) 0 tile a b 0 0 = w ∧ .mfill t tile a b = i := by
  constructor
  · intro h
    simp [decodeB] at h
    obtain ⟨hcls, t, h⟩ := h
    exact ⟨hcls, t, fD w, fA w, fB w, by simp [encR_eq_iff, *]⟩
  · rintro ⟨hcls, t, tile, a, b, hr, hw, rfl⟩
    simp_all [decodeB, encR_eq_iff, mod_of_isS, mod_of_isV, mod_of_isTile]

theorem qput_iff (hop : fOp w = 0xC2) : decodeC cls 0x2 w = .ok i ↔ inClass cls cTC = .ok () ∧
    ∃ a b ofs, (isS a && isS b) = true ∧ encM 0xC2 0 0 0 0 a b ofs = w ∧ .qput a b ofs = i := by
  constructor
  · intro h
    simp [decodeC] at h
    obtain ⟨hcls, h⟩ := h
    exact ⟨hcls, fA w, fB w, fOfs18 w, by simp [encM_eq_iff, *]⟩
  · rintro ⟨hcls, a, b, ofs, hr, hw, rfl⟩
    simp_all [decodeC, encM_eq_iff, mod_of_isS]

theorem sysr_iff (hop : fOp w = 0xD0) : decodeD cls 0x0 w = .ok i ↔ inClass cls cTeam = .ok () ∧
    ∃ d reg, (isS d && sysKnown reg) = true ∧ encR 0xD0 0 0 0 d 0 0 0 (BitVec.ofNat 10 reg) = w ∧ .sysr d reg = i := by
  constructor
  · intro h
    simp [decodeD] at h
    obtain ⟨hcls, h⟩ := h
    exact ⟨hcls, fD w, (fX w).toNat, by simp [encR_eq_iff, *]⟩
  · rintro ⟨hcls, d, reg, hr, hw, rfl⟩
    simp_all [decodeD, encR_eq_iff, fX_eq_ofNat, mod_of_isS, mod_of_sysKnown]

theorem sysw_iff (hop : fOp w = 0xD1) : decodeD cls 0x1 w = .ok i ↔ inClass cls [] = .ok () ∧
    ∃ reg a, (sysKnown reg && !sysReadOnly reg && isS a) = true ∧ encR 0xD1 0 0 0 0 a 0 0 (BitVec.ofNat 10 reg) = w ∧ .sysw reg a = i := by
  constructor
  · intro h
    simp [decodeD] at h
    obtain ⟨hcls, h⟩ := h
    exact ⟨hcls, (fX w).toNat, fA w, by simp [encR_eq_iff, *]⟩
  · rintro ⟨hcls, reg, a, hr, hw, rfl⟩
    simp_all [decodeD, encR_eq_iff, fX_eq_ofNat, mod_of_isS, mod_of_sysKnown]

theorem vld_iff (hop : fOp w = 0x78) : decode7 cls 0x8 w = .ok i ↔ inClass cls cTeam = .ok () ∧
    ∃ la t sc o s d a x ofs, (laWf la && loadTys.contains t && [Ord4.rlx, .acq].contains o && idxWf s t x && isV d && isS a) = true ∧ encM 0x78 la (tyCode t) (mMem sc o s) d a (x.getD 0) (nxOfs x ofs) = w ∧ .vld la t sc o s d a x ofs = i := by
  constructor
  · intro h
    simp [decode7] at h
    obtain ⟨hcls, t, ht, htys, sc, hsc, ho, hs, h⟩ := h
    rw [← idxWf_fIdx] at hs
    exact ⟨hcls, fLa w, t, sc, ordOf (fOrd w), fLow w, fD w, fA w, fIdx w, fOfs17 w, by simp [encM_index_iff hs, fMod_eq_mMem, *]⟩
  · rintro ⟨hcls, la, t, sc, o, s, d, a, x, ofs, hr, hw, rfl⟩
    simp only [Bool.and_eq_true] at hr
    obtain ⟨⟨⟨⟨⟨hla, htys⟩, ho⟩, hx⟩, hd⟩, ha⟩ := hr
    rw [encM_index_iff hx] at hw
    simp_all [decode7, fMod_eq_mMem, ← idxWf_fIdx, mod_of_laWf, mod_of_isS, mod_of_isV]

theorem vst_iff (hop : fOp w = 0x79) : decode7 cls 0x9 w = .ok i ↔ inClass cls cTeam = .ok () ∧
    ∃ t sc o s d a x ofs, (storeTys.contains t && [Ord4.rlx, .rel].contains o && idxWf s t x && isV d && isS a) = true ∧ encM 0x79 0 (tyCode t) (mMem sc o s) d a (x.getD 0) (nxOfs x ofs) = w ∧ .vst t sc o s d a x ofs = i := by
  constructor
  · intro h
    simp [decode7] at h
    obtain ⟨hcls, t, ht, htys, sc, hsc, ho, hs, h⟩ := h
    rw [← idxWf_fIdx] at hs
    exact ⟨hcls, t, sc, ordOf (fOrd w), fLow w, fD w, fA w, fIdx w, fOfs17 w, by simp [encM_index_iff hs, fMod_eq_mMem, *]⟩
  · rintro ⟨hcls, t, sc, o, s, d, a, x, ofs, hr, hw, rfl⟩
    simp only [Bool.and_eq_true] at hr
    obtain ⟨⟨⟨⟨htys, ho⟩, hx⟩, hd⟩, ha⟩ := hr
    rw [encM_index_iff hx] at hw
    simp_all [decode7, fMod_eq_mMem, ← idxWf_fIdx, mod_of_isS, mod_of_isV]

theorem vlds_iff (hop : fOp w = 0x7C) : decode7 cls 0xC w = .ok i ↔ inClass cls cTeam = .ok () ∧
    ∃ la t s d a x ofs, (laWf la && loadTys.contains t && idxWf s t x && isV d && isS a) = true ∧ encM 0x7C la (tyCode t) (mMem .core .rlx s) d a (x.getD 0) (nxOfs x ofs) = w ∧ .vlds la t s d a x ofs = i := by
  constructor
  · intro h
    simp [decode7] at h
    obtain ⟨hcls, t, ht, htys, ⟨hm, hs⟩, h⟩ := h
    rw [← idxWf_fIdx] at hs
    exact ⟨hcls, fLa w, t, fLow w, fD w, fA w, fIdx w, fOfs17 w, by simp [encM_index_iff hs, fMod_eq_low, *]⟩
  · rintro ⟨hcls, la, t, s, d, a, x, ofs, hr, hw, rfl⟩
    simp only [Bool.and_eq_true] at hr
    obtain ⟨⟨⟨⟨hla, htys⟩, hx⟩, hd⟩, ha⟩ := hr
    rw [encM_index_iff hx] at hw
    simp_all [decode7, fMod_eq_low, ← idxWf_fIdx, mod_of_laWf, mod_of_isS, mod_of_isV]

theorem vsts_iff (hop : fOp w = 0x7D) : decode7 cls 0xD w = .ok i ↔ inClass cls cTeam = .ok () ∧
    ∃ t s d a x ofs, (storeTys.contains t && idxWf s t x && isV d && isS a) = true ∧ encM 0x7D 0 (tyCode t) (mMem .core .rlx s) d a (x.getD 0) (nxOfs x ofs) = w ∧ .vsts t s d a x ofs = i := by
  constructor
  · intro h
    simp [decode7] at h
    obtain ⟨hcls, t, ht, htys, ⟨hm, hs⟩, h⟩ := h
    rw [← idxWf_fIdx] at hs
    exact ⟨hcls, t, fLow w, fD w, fA w, fIdx w, fOfs17 w, by simp [encM_index_iff hs, fMod_eq_low, *]⟩
  · rintro ⟨hcls, t, s, d, a, x, ofs, hr, hw, rfl⟩
    simp only [Bool.and_eq_true] at hr
    obtain ⟨⟨⟨htys, hx⟩, hd⟩, ha⟩ := hr
    rw [encM_index_iff hx] at hw
    simp_all [decode7, fMod_eq_low, ← idxWf_fIdx, mod_of_isS, mod_of_isV]

theorem vpref_iff (hop : fOp w = 0x7E) : decode7 cls 0xE w = .ok i ↔ inClass cls cTeam = .ok () ∧
    ∃ s a x ofs, (idxWf s .b32 x && isS a) = true ∧ encM 0x7E 0 0 (mMem .core .rlx s) 0 a (x.getD 0) (nxOfs x ofs) = w ∧ .vpref s a x ofs = i := by
  constructor
  · intro h
    simp [decode7] at h
    obtain ⟨hcls, hty, ⟨hm, hs⟩, h⟩ := h
    rw [← idxWf_fIdx] at hs
    exact ⟨hcls, fLow w, fA w, fIdx w, fOfs17 w, by simp [encM_index_iff hs, fMod_eq_low, *]⟩
  · rintro ⟨hcls, s, a, x, ofs, hr, hw, rfl⟩
    simp only [Bool.and_eq_true] at hr
    obtain ⟨hx, ha⟩ := hr
    rw [encM_index_iff hx] at hw
    simp_all [decode7, fMod_eq_low, ← idxWf_fIdx, mod_of_isS]

theorem clm_iff (hop : fOp w = 0xA0) : decodeA cls 0x0 w = .ok i ↔ inClass cls cTeam = .ok () ∧
    ∃ s a x ofs, (idxWf s .b32 x && isS a) = true ∧ encM 0xA0 0 0 (mMem .core .rlx s) 0 a (x.getD 0) (nxOfs x ofs) = w ∧ .clm s a x ofs = i := by
  constructor
  · intro h
    simp [decodeA] at h
    obtain ⟨hcls, hty, ⟨hm, hs⟩, h⟩ := h
    rw [← idxWf_fIdx] at hs
    exact ⟨hcls, fLow w, fA w, fIdx w, fOfs17 w, by simp [encM_index_iff hs, fMod_eq_low, *]⟩
  · rintro ⟨hcls, s, a, x, ofs, hr, hw, rfl⟩
    simp only [Bool.and_eq_true] at hr
    obtain ⟨hx, ha⟩ := hr
    rw [encM_index_iff hx] at hw
    simp_all [decodeA, fMod_eq_low, ← idxWf_fIdx, mod_of_isS]
end

end Sys2Proof.Machine.ExecModel
end

section
/-! SUPPORT. The rows of the opcode map whose checks depend on the instruction's variant: branches, atomics, stashes, system. -/

namespace Sys2Proof.Machine.ExecModel

@[simp] theorem tyOf_tyCode (t : Ty) : tyOf (tyCode t) = some t := tyOf_eq_iff.mpr rfl
@[simp] theorem mopOf_mopCode (op : MOp) : mopOf (mopCode op) = some op := mopOf_eq_iff.mpr rfl
@[simp] theorem shufOf_shufCode (m : ShufMode) : shufOf (shufCode m) = some m := shufOf_eq_iff.mpr rfl
@[simp] theorem brKindOf_brKindCode (k : BrKind) : brKindOf (brKindCode k) = some k := brKindOf_eq_iff.mpr rfl
@[simp] theorem aopOf_aopCode (op : AOp) : aopOf (aopCode op).toNat = some op := aopOf_eq_iff.mpr rfl
@[simp] theorem aopOf_aopSel (op : AOp) : aopOf (aopSel op).toNat = some op := aopOf_sel_eq_iff.mpr rfl
@[simp] theorem faultFieldOf_faultFieldCode (f : FaultField) : faultFieldOf (faultFieldCode f) = f := faultFieldOf_eq_iff.mpr rfl

section
variable {w : Word} {i : Instr} {cls : Eng}

theorem ord_cases (o : Ord4) : o = .rlx ∨ o = .acq ∨ o = .rel ∨ o = .ar := by
  cases o <;> decide

/-- What BRC's operand names: a uniform register or a mask (R79). -/
def brcOperand (k : BrKind) (a : Nat) : Bool := match k with | .nz | .z => isS a | .any | .all => isM a

theorem brcOperand_iff {k : BrKind} {a : Nat} :
    (if k = .nz ∨ k = .z then isS a = true else isM a = true) ↔ brcOperand k a = true := by
  cases k <;> simp [brcOperand]

theorem mod_of_brcOperand {k : BrKind} {a : Nat} (h : brcOperand k a = true) : a % 256 = a := by
  cases k with
  | nz | z => exact mod_of_isS h
  | any | all => exact mod_of_isM h

theorem brc_iff (hop : fOp w = 0x02) : decode0 cls 0x2 w = .ok i ↔ inClass cls cAll = .ok () ∧
    ∃ k a t j, brcOperand k a = true ∧ encJ 0x02 (brKindCode k) a t j = w ∧ .brc k a t j = i := by
  constructor
  · intro h
    simp [decode0] at h
    obtain ⟨hcls, h⟩ := h
    split at h
    · cases h
    · next k hk =>
      rw [brKindOf_eq_iff] at hk
      simp [brcOperand_iff] at h
      exact ⟨hcls, k, fD w, fTgt w, fJoin w, by simp [encJ_eq_iff, *]⟩
  · rintro ⟨hcls, k, a, t, j, hr, hw, rfl⟩
    simp_all [decode0, encJ_eq_iff, brcOperand_iff, mod_of_brcOperand hr]

theorem tret_iff (hop : fOp w = 0x0B) : decode0 cls 0xB w = .ok i ↔ inClass cls [] = .ok () ∧
    ∃ skip, encR 0x0B 0 0 (mMem .core .rlx skip) 0 0 0 0 0 = w ∧ (if skip then .tretSkip else .tretRetry) = i := by
  constructor
  · intro h
    simp [decode0] at h
    obtain ⟨hcls, h⟩ := h
    exact ⟨hcls, fLow w, by simp [encR_eq_iff, fMod_eq_low, *]⟩
  · rintro ⟨hcls, skip, hw, rfl⟩
    simp_all [decode0, encR_eq_iff, fMod_eq_low]

theorem mlog_iff (hop : fOp w = 0x31) : decode3 cls 0x1 w = .ok i ↔ inClass cls cTeam = .ok () ∧
    ∃ op d a b, (isM d && isM a && isM b) = true ∧ encR 0x31 0 0 (mSel (mopCode op)) d a b 0 0 = w ∧ .mlog op d a b = i := by
  constructor
  · intro h
    simp [decode3] at h
    obtain ⟨hcls, hty, htop, h⟩ := h
    split at h
    · cases h
    · next op hsel =>
      rw [mopOf_eq_iff] at hsel
      simp at h
      exact ⟨hcls, op, fD w, fA w, fB w, by simp [encR_eq_iff, fMod_eq_mSel, *]⟩
  · rintro ⟨hcls, op, d, a, b, hr, hw, rfl⟩
    simp_all [decode3, encR_eq_iff, fMod_eq_mSel, mod_of_isM]

theorem vshuf_iff (hop : fOp w = 0x70) : decode7 cls 0x0 w = .ok i ↔ inClass cls cTeam = .ok () ∧
    ∃ m d a b, (isV d && isV a && isV b) = true ∧ encR 0x70 0 0 (mSel (shufCode m)) d a b 0 0 = w ∧ .vshuf m d a b = i := by
  constructor
  · intro h
    simp [decode7] at h
    obtain ⟨hcls, hty, htop, h⟩ := h
    split at h
    · cases h
    · next m hsel =>
      rw [shufOf_eq_iff] at hsel
      simp at h
      exact ⟨hcls, m, fD w, fA w, fB w, by simp [encR_eq_iff, fMod_eq_mSel, *]⟩
  · rintro ⟨hcls, m, d, a, b, hr, hw, rfl⟩
    simp_all [decode7, encR_eq_iff, fMod_eq_mSel, mod_of_isV]

theorem vcvt_iff (hop : fOp w = 0x6C) : decode6 cls 0xC w = .ok i ↔ inClass cls cTeam = .ok () ∧
    ∃ dt st s r d a, (cvtTys.contains dt && cvtTys.contains st && cvtModOk dt st s r && isV d && isV a) = true ∧
      encR 0x6C 0 (tyCode dt) (mArith s r 0) d a 0 0 ((0 : BitVec 6) ++ tyCode st) = w ∧ .vcvt dt st s r d a = i := by
  constructor
  · intro h
    simp [decode6] at h
    obtain ⟨hcls, dt, hty, hdt, h⟩ := h
    split at h
    · cases h
    · next st hst =>
      rw [tyOf_eq_iff] at hst
      simp at h
      exact ⟨hcls, dt, st, fSat w, rndOf (fRnd w), fD w, fA w, by simp [encR_eq_iff, fMod_eq_mArith, fX_eq_ty, *]⟩
  · rintro ⟨hcls, dt, st, s, r, d, a, hr, hw, rfl⟩
    simp_all [decode6, encR_eq_iff, fMod_eq_mArith, fX_eq_ty, mod_of_isV]

theorem vred_iff (hop : fOp w = 0x72) : decode7 cls 0x2 w = .ok i ↔ inClass cls cTeam = .ok () ∧
    ∃ la t s r op d a, (laWf la && [Ty.i32, .n32, .f32].contains t && redModOk t s r op && isS d && isV a) = true ∧
      encR 0x72 la (tyCode t) (mArith s r (aopSel op)) d a 0 0 0 = w ∧ .vred la t s r op d a = i := by
  constructor
  · intro h
    simp [decode7, decRed] at h
    obtain ⟨hcls, t, hty, ht, h⟩ := h
    split at h
    · cases h
    · next op hsel =>
      rw [aopOf_sel_eq_iff] at hsel
      simp at h
      exact ⟨hcls, fLa w, t, fSat w, rndOf (fRnd w), op, fD w, fA w, by simp [encR_eq_iff, fMod_eq_mArith, fX_eq_zero, *]⟩
  · rintro ⟨hcls, la, t, s, r, op, d, a, hr, hw, rfl⟩
    simp_all [decode7, decRed, encR_eq_iff, fMod_eq_mArith, mod_of_isS, mod_of_isV, mod_of_laWf]

theorem vscan_iff (hop : fOp w = 0x73) : decode7 cls 0x3 w = .ok i ↔ inClass cls cTeam = .ok () ∧
    ∃ la t s r op e d a, (laWf la && [Ty.i32, .n32, .f32].contains t && redModOk t s r op && isV d && isV a) = true ∧
      encR 0x73 la (tyCode t) (mArith s r (aopSel op)) d a 0 0 ((0 : BitVec 9) ++ bit e) = w ∧ .vscan la t s r op e d a = i := by
  constructor
  · intro h
    simp [decode7, decRed] at h
    obtain ⟨hcls, t, hty, ht, h⟩ := h
    split at h
    · cases h
    · next op hsel =>
      rw [aopOf_sel_eq_iff] at hsel
      simp at h
      exact ⟨hcls, fLa w, t, fSat w, rndOf (fRnd w), op, (fX w).getLsbD 0, fD w, fA w,
        by simp [encR_eq_iff, fMod_eq_mArith, fX_eq_flag, *]⟩
  · rintro ⟨hcls, la, t, s, r, op, e, d, a, hr, hw, rfl⟩
    simp_all [decode7, decRed, encR_eq_iff, fMod_eq_mArith, fX_eq_flag, mod_of_isV, mod_of_laWf]

theorem atom_iff (hop : fOp w = 0x80) : decode8 cls 0x0 w = .ok i ↔ inClass cls cTeam = .ok () ∧
    ∃ la t sc o p op d a b ofs, (laWf la && [Ty.b32, .i32, .n32, .f32].contains t && aopTyOk op t && isV d && pairWf p a && isV b) = true ∧
      encM 0x80 la (tyCode t) (mMem sc o (pbBit p)) d a b (aOfs op ofs) = w ∧ .atom la t sc o p op d a b ofs = i := by
  constructor
  · intro h
    simp [decode8] at h
    obtain ⟨hcls, t, hty, ht, h⟩ := h
    split at h
    · cases h
    · next op hsel =>
      rw [aopOf_eq_iff] at hsel
      simp at h
      obtain ⟨hop, sc, hsc, h⟩ := h
      exact ⟨hcls, fLa w, t, sc, ordOf (fOrd w), abaseOf w, op, fD w, fA w, fB w, fOfs14 w,
        by simp [encM_eq_iff, fMod_eq_mMem, fLow_eq_pbBit, fOfs18_eq_aOfs, pairWf_abaseOf, *]⟩
  · rintro ⟨hcls, la, t, sc, o, p, op, d, a, b, ofs, hr, hw, rfl⟩
    have hpair := pairWf_abaseOf (w := w)
    simp_all [decode8, encM_eq_iff, fMod_eq_mMem, fLow_eq_pbBit, fOfs18_eq_aOfs, ord_cases, mod_of_pairWf (p := p), mod_of_isV, mod_of_laWf]

theorem atomc_iff (hop : fOp w = 0x81) : decode8 cls 0x1 w = .ok i ↔ inClass cls cTeam = .ok () ∧
    ∃ la sc o p d a b ofs, (laWf la && isV d && pairWf p a && isV b) = true ∧
      encM 0x81 la 0 (mMem sc o (pbBit p)) d a b (aOfs .add ofs) = w ∧ .atomc la sc o p d a b ofs = i := by
  constructor
  · intro h
    simp [decode8] at h
    obtain ⟨hcls, hty, sc, hsc, h⟩ := h
    exact ⟨hcls, fLa w, sc, ordOf (fOrd w), abaseOf w, fD w, fA w, fB w, fOfs14 w,
      by simp [encM_eq_iff, fMod_eq_mMem, fLow_eq_pbBit, fOfs18_eq_aOfs, pairWf_abaseOf, aopCode, *]⟩
  · rintro ⟨hcls, la, sc, o, p, d, a, b, ofs, hr, hw, rfl⟩
    have hpair := pairWf_abaseOf (w := w)
    simp_all [decode8, encM_eq_iff, fMod_eq_mMem, fLow_eq_pbBit, fOfs18_eq_aOfs, aopCode, ord_cases, mod_of_pairWf (p := p), mod_of_isV,
      mod_of_laWf]

theorem red_iff (hop : fOp w = 0x82) : decode8 cls 0x2 w = .ok i ↔ inClass cls cTeam = .ok () ∧
    ∃ t sc o p op a b ofs, ([Ty.b32, .i32, .n32, .f32].contains t && aopTyOk op t && [Ord4.rlx, .rel].contains o && op != .exch &&
        pairWf p a && isV b) = true ∧
      encM 0x82 0 (tyCode t) (mMem sc o (pbBit p)) 0 a b (aOfs op ofs) = w ∧ .red t sc o p op a b ofs = i := by
  constructor
  · intro h
    simp [decode8] at h
    obtain ⟨hcls, t, hty, ht, h⟩ := h
    split at h
    · cases h
    · next op hsel =>
      rw [aopOf_eq_iff] at hsel
      simp at h
      obtain ⟨hop, sc, hsc, h⟩ := h
      exact ⟨hcls, t, sc, ordOf (fOrd w), abaseOf w, op, fA w, fB w, fOfs14 w,
        by simp [encM_eq_iff, fMod_eq_mMem, fLow_eq_pbBit, fOfs18_eq_aOfs, pairWf_abaseOf, *]⟩
  · rintro ⟨hcls, t, sc, o, p, op, a, b, ofs, hr, hw, rfl⟩
    have hpair := pairWf_abaseOf (w := w)
    simp_all [decode8, encM_eq_iff, fMod_eq_mMem, fLow_eq_pbBit, fOfs18_eq_aOfs, mod_of_pairWf (p := p), mod_of_isV]

theorem satom_iff (hop : fOp w = 0x83) : decode8 cls 0x3 w = .ok i ↔ inClass cls cTeam = .ok () ∧
    ∃ la u sc o op d a b ofs, (laWf la && (!u || op == .add || op == .min || op == .max) && isS d && isS a && isS b) = true ∧
      encM 0x83 la (uTy u) (mMem sc o false) d a b (aOfs op ofs) = w ∧ .satom la u sc o op d a b ofs = i := by
  constructor
  · intro h
    simp [decode8, -Bool.exists_bool] at h
    obtain ⟨hcls, u, hty, h⟩ := h
    split at h
    · cases h
    · next op hsel =>
      rw [aopOf_eq_iff] at hsel
      simp at h
      obtain ⟨hop, sc, hsc, h⟩ := h
      exact ⟨hcls, fLa w, u, sc, ordOf (fOrd w), op, fD w, fA w, fB w, fOfs14 w,
        by simp [encM_eq_iff, fMod_eq_mMem, fOfs18_eq_aOfs, *]⟩
  · rintro ⟨hcls, la, u, sc, o, op, d, a, b, ofs, hr, hw, rfl⟩
    simp_all [decode8, -Bool.exists_bool, encM_eq_iff, fMod_eq_mMem, fOfs18_eq_aOfs, ord_cases, mod_of_isS, mod_of_laWf]

/-- The three forms of STASH, by bits [44:42]. -/
def stashOf (k : BitVec 3) (d a b : Nat) (ofs : BitVec 18) : Instr :=
  match k.toNat with | 0 => .stashMap d a b ofs | 1 => .stashFlush d a b ofs | _ => .stashUnmap d a b ofs

theorem stash_iff (hop : fOp w = 0x84) : decode8 cls 0x4 w = .ok i ↔ inClass cls cTeam = .ok () ∧
    ∃ k d a b ofs, (decide (k.toNat < 3) && isS d && isS a && isS b) = true ∧
      encM 0x84 0 0 (mSel k) d a b ofs = w ∧ stashOf k d a b ofs = i := by
  constructor
  · intro h
    simp [decode8] at h
    obtain ⟨hcls, hty, hsel, hregs, hla, rfl⟩ := h
    exact ⟨hcls, fSel w, fD w, fA w, fB w, fOfs18 w, by simp [*], by simp [encM_eq_iff, fMod_eq_mSel, *], rfl⟩
  · rintro ⟨hcls, k, d, a, b, ofs, hr, hw, rfl⟩
    simp_all [decode8, encM_eq_iff, fMod_eq_mSel, stashOf, mod_of_isS] <;> rfl

/-- The three forms of TLBINV, by bits [44:42]. -/
def tlbinvOf (k : BitVec 3) (a : Nat) : Instr :=
  match k.toNat with | 0 => .tlbinvPage a | 1 => .tlbinvCtx a | _ => .tlbinvAll a

theorem tlbinv_iff (hop : fOp w = 0xD3) : decodeD cls 0x3 w = .ok i ↔ inClass cls [] = .ok () ∧
    ∃ k a, (decide (k.toNat < 3) && isS a) = true ∧ encR 0xD3 0 0 (mSel k) 0 a 0 0 0 = w ∧ tlbinvOf k a = i := by
  constructor
  · intro h
    simp [decodeD] at h
    obtain ⟨hcls, hty, hsel, hregs, hla, rfl⟩ := h
    exact ⟨hcls, fSel w, fA w, by simp [*], by simp [encR_eq_iff, fMod_eq_mSel, *], rfl⟩
  · rintro ⟨hcls, k, a, hr, hw, rfl⟩
    simp_all [decodeD, encR_eq_iff, fMod_eq_mSel, tlbinvOf, mod_of_isS] <;> rfl

theorem lspan_iff (hop : fOp w = 0xAD) : decodeA cls 0xD w = .ok i ↔ inClass cls cTeam = .ok () ∧
    ∃ d n a, (isV d && decide (d + n ≤ 256) && (n != 0 || d == 0) && isS a) = true ∧
      encR 0xAD 0 0 0 d a 0 0 (BitVec.ofNat 10 n) = w ∧ .lspan d n a = i := by
  constructor
  · intro h
    simp [decodeA] at h
    obtain ⟨hcls, h⟩ := h
    exact ⟨hcls, fD w, w.toNat % 512, fA w, by simp [encR_eq_iff, fX_eq_count (Nat.mod_lt _ (by decide : 0 < 512)), *]⟩
  · rintro ⟨hcls, d, n, a, hr, hw, rfl⟩
    have hn : n < 512 := by
      simp at hr
      omega
    simp_all [decodeA, encR_eq_iff, fX_eq_count hn, mod_of_isS, mod_of_isV]

theorem scopeo_iff (hop : fOp w = 0xB0) : decodeB cls 0x0 w = .ok i ↔ inClass cls cTeam = .ok () ∧
    ∃ n base, (decide (1 ≤ n) && decide (base + n ≤ 256)) = true ∧
      encI 0xB0 0 0 0 0 ((0 : BitVec 9) ++ BitVec.ofNat 8 base ++ BitVec.ofNat 9 n) = w ∧ .scopeo n base = i := by
  constructor
  · intro h
    simp [decodeB] at h
    obtain ⟨hcls, h⟩ := h
    exact ⟨hcls, _, _, by simp [h], by simp [encI_eq_iff, fImm26_eq_scopeo, *], h.2.2.2.2.2⟩
  · rintro ⟨hcls, n, base, hr, hw, rfl⟩
    simp_all [decodeB, encI_eq_iff, fImm26_eq_scopeo]
    omega

/-- The kind of register that FAULTR writes (R111). -/
def faultrOperand (f : FaultField) (d : Nat) : Bool := match f with | .addr => isV d && isEven d | .mask => isM d | _ => isS d

theorem mod_of_faultrOperand {f : FaultField} {d : Nat} (h : faultrOperand f d = true) : d % 256 = d := by
  cases f with
  | addr => exact mod_of_isV (Bool.and_eq_true_iff.mp h).1
  | mask => exact mod_of_isM h
  | _ => exact mod_of_isS h

theorem faultr_iff (hop : fOp w = 0xD5) : decodeD cls 0x5 w = .ok i ↔ inClass cls cTeam = .ok () ∧
    ∃ f d, faultrOperand f d = true ∧ encR 0xD5 0 0 (mSel (faultFieldCode f)) d 0 0 0 0 = w ∧ .faultr f d = i := by
  constructor
  · intro h
    simp [decodeD] at h
    obtain ⟨hcls, hty, htop, ⟨⟨⟨hd, ha⟩, hb⟩, hcx⟩, hla, hpair, rfl⟩ := h
    refine ⟨hcls, faultFieldOf (fSel w), fD w, ?_, ?_, rfl⟩
    · cases hf : faultFieldOf (fSel w) <;> simp_all [faultrOperand]
    · simp [encR_eq_iff, fMod_eq_mSel, ← faultFieldOf_eq_iff, *]
  · rintro ⟨hcls, f, d, hr, hw, rfl⟩
    have hd := encR_eq_iff.mp hw
    rw [mod_of_faultrOperand hr, fMod_eq_mSel] at hd
    cases f <;> simp_all [decodeD, faultrOperand]

end
end Sys2Proof.Machine.ExecModel
end

section
/-! PROOF. A word that decodes in some class is the word of one well-formed instruction: O41. -/

namespace Sys2Proof.Machine.ExecModel

/-! ### A word and its instruction -/

/-- A word is the word of a well-formed instruction. -/
def WordOf (w : Word) (i : Instr) : Prop := wf i = true ∧ encode i = some w

theorem WordOf.intro {w v : Word} {i j : Instr} {b : Bool} (h : b = true ∧ v = w ∧ j = i) (hwf : wf j = b)
    (henc : encode j = some v) : WordOf w i := by
  obtain ⟨rfl, rfl, rfl⟩ := h
  exact ⟨hwf, henc⟩

/-- The rest of a decoder whose first check has passed. -/
theorem need_then {α : Type} {e : Illegal} {b : Bool} {f : Unit → Dec α} {a : α} (h : (need e b >>= f) = .ok a) : f () = .ok a :=
  (need_bind.mp h).2

section
variable {w : Word} {i : Instr} {cls : Eng}

theorem vunpk_word (t : Ty) (h : Bool) (d a : Nat) :
    encode (.vunpk t h d a) = some (encR 0x6E 0 (tyCode t) (mMem .core .rlx h) d a 0 0 0) := by
  rw [← low_eq_mMem]
  rfl

theorem mma_word (t : Ty) (x : Bool) (tile sh co ct : Nat) : encode (.mma t x tile sh co ct) =
    some (encM 0xBC 0 (tyCode t) (mMem .core .rlx x) sh co ct (BitVec.ofNat 18 tile)) := by
  rw [← low_eq_mMem]
  rfl

theorem tret_wordOf (hop : fOp w = 0x0B) (h : decode0 cls 0xB w = .ok i) : WordOf w i := by
  obtain ⟨-, skip, hw, rfl⟩ := (tret_iff hop).mp h
  cases skip <;> exact ⟨rfl, congrArg some hw⟩

theorem lt_three {k : BitVec 3} (h : k.toNat < 3) : k = 0 ∨ k = 1 ∨ k = 2 := by
  revert k
  decide

theorem stash_wordOf (hop : fOp w = 0x84) (h : decode8 cls 0x4 w = .ok i) : WordOf w i := by
  obtain ⟨-, k, d, a, b, ofs, hr, hw, rfl⟩ := (stash_iff hop).mp h
  have hk : k.toNat < 3 := by
    simp only [Bool.and_eq_true, decide_eq_true_eq] at hr
    exact hr.1.1.1
  obtain rfl | rfl | rfl := lt_three hk <;> exact ⟨hr, congrArg some hw⟩

theorem tlbinv_wordOf (hop : fOp w = 0xD3) (h : decodeD cls 0x3 w = .ok i) : WordOf w i := by
  obtain ⟨-, k, a, hr, hw, rfl⟩ := (tlbinv_iff hop).mp h
  have hk : k.toNat < 3 := of_decide_eq_true (Bool.and_eq_true_iff.mp hr).1
  obtain rfl | rfl | rfl := lt_three hk <;> exact ⟨hr, congrArg some hw⟩

theorem mrscl_wordOf (hop : fOp w = 0xC3) (h : decodeC cls 0x3 w = .ok i) : WordOf w i := by
  have h := need_then h
  split at h
  · obtain ⟨d, a, h⟩ := (decDA_iff hop isTile_fits isS_fits).mp h
    exact .intro h rfl rfl
  · obtain ⟨d, a, h⟩ := (decDA_iff hop isTile_fits isV_fits).mp h
    exact .intro h rfl rfl

theorem decode0_wordOf {lo : Nat} (hlo : lo < 16) (hop : fOp w = 0x00 + lo) (h : decode0 cls lo w = .ok i) : WordOf w i :=
  match lo, hlo, hop, h with
  | 0x0, _, hop, h => .intro ⟨rfl, (decNone_iff hop).mp h⟩ rfl rfl
  | 0x1, _, hop, h => let ⟨_, h⟩ := ((bra_iff hop).mp h).2; .intro ⟨rfl, h⟩ rfl rfl
  | 0x2, _, hop, h => let ⟨_, _, _, _, h⟩ := ((brc_iff hop).mp h).2; .intro h rfl rfl
  | 0x3, _, hop, h => let ⟨_, _, _, h⟩ := ((brv_iff hop).mp h).2; .intro h rfl rfl
  | 0x4, _, hop, h => let ⟨_, h⟩ := ((call_iff hop).mp h).2; .intro ⟨rfl, h⟩ rfl rfl
  | 0x5, _, hop, h | 0x6, _, hop, h | 0x7, _, hop, h | 0xD, _, hop, h =>
    .intro ⟨rfl, (decNone_iff hop).mp (need_then h)⟩ rfl rfl
  | 0x8, _, hop, h => let ⟨_, _, _, h⟩ := ((loop_iff hop).mp h).2; .intro h rfl rfl
  | 0x9, _, hop, h => let ⟨_, h⟩ := (decA_iff hop isS_fits).mp (need_then h); .intro h rfl rfl
  | 0xA, _, hop, h => let ⟨_, h⟩ := ((trap_iff hop).mp h).2; .intro ⟨rfl, h⟩ rfl rfl
  | 0xB, _, hop, h => tret_wordOf hop h
  | 0xC, _, hop, h => let ⟨_, h⟩ := ((bkpt_iff hop).mp h).2; .intro ⟨rfl, h⟩ rfl rfl
  | 0xE, _, _, h | 0xF, _, _, h => nomatch h
  | n + 16, hlo, _, _ => absurd hlo (by omega)

theorem decode1_wordOf {lo : Nat} (hlo : lo < 16) (hop : fOp w = 0x10 + lo) (h : decode1 cls lo w = .ok i) : WordOf w i :=
  match lo, hlo, hop, h with
  | 0x0, _, hop, h => let ⟨_, _, h⟩ := (decSS_iff hop).mp (need_then h); .intro h rfl rfl
  | 0x1, _, hop, h | 0x2, _, hop, h =>
    let ⟨_, _, h⟩ := (decSImm_iff hop).mp (need_then h); .intro h rfl rfl
  | 0x3, _, hop, h | 0x4, _, hop, h | 0x5, _, hop, h =>
    let ⟨_, _, _, _, _, h⟩ := (decSSat_iff hop).mp (need_then h); .intro h rfl rfl
  | 0x6, _, hop, h | 0xD, _, hop, h | 0xE, _, hop, h =>
    let ⟨_, _, _, _, h⟩ := (decSU_iff hop).mp (need_then h); .intro h rfl rfl
  | 0x7, _, hop, h | 0x8, _, hop, h | 0x9, _, hop, h | 0xA, _, hop, h | 0xB, _, hop, h
  | 0xC, _, hop, h =>
    let ⟨_, _, _, h⟩ := (decSSS_iff hop).mp (need_then h); .intro h rfl rfl
  | 0xF, _, hop, h => let ⟨_, _, _, _, _, h⟩ := ((scmp_iff hop).mp h).2; .intro h rfl rfl
  | n + 16, hlo, _, _ => absurd hlo (by omega)

theorem decode2_wordOf {lo : Nat} (hlo : lo < 16) (hop : fOp w = 0x20 + lo) (h : decode2 cls lo w = .ok i) : WordOf w i :=
  match lo, hlo, hop, h with
  | 0x0, _, hop, h | 0x6, _, hop, h =>
    let ⟨_, _, _, _, h⟩ := (decSSSS_iff hop).mp (need_then h); .intro h rfl rfl
  | 0x1, _, hop, h => let ⟨_, _, _, _, _, h⟩ := ((saddi_iff hop).mp h).2; .intro h rfl rfl
  | 0x2, _, hop, h => let ⟨_, _, _, _, _, _, _, _, h⟩ := (decMS_iff hop).mp (need_then h); .intro h rfl rfl
  | 0x3, _, hop, h => let ⟨_, _, _, _, _, _, _, h⟩ := (decMSNoLa_iff hop).mp (need_then h); .intro h rfl rfl
  | 0x4, _, hop, h | 0x5, _, hop, h =>
    let ⟨_, _, h⟩ := (decSS_iff hop).mp (need_then h); .intro h rfl rfl
  | 0x7, _, hop, h => let ⟨_, _, _, h⟩ := (decABC_iff hop isS_fits isV_fits isS_fits).mp (need_then h); .intro h rfl rfl
  | 0x8, _, _, h | 0x9, _, _, h | 0xA, _, _, h | 0xB, _, _, h | 0xC, _, _, h
  | 0xD, _, _, h | 0xE, _, _, h | 0xF, _, _, h => nomatch h
  | n + 16, hlo, _, _ => absurd hlo (by omega)

theorem decode3_wordOf {lo : Nat} (hlo : lo < 16) (hop : fOp w = 0x30 + lo) (h : decode3 cls lo w = .ok i) : WordOf w i :=
  match lo, hlo, hop, h with
  | 0x0, _, hop, h => let ⟨_, _, _, h⟩ := (decABC_iff hop isM_fits isS_fits isS_fits).mp (need_then h); .intro h rfl rfl
  | 0x1, _, hop, h => let ⟨_, _, _, _, h⟩ := ((mlog_iff hop).mp h).2; .intro h rfl rfl
  | 0x2, _, hop, h | 0x8, _, hop, h =>
    let ⟨_, _, h⟩ := (decDA_iff hop isM_fits isM_fits).mp (need_then h); .intro h rfl rfl
  | 0x3, _, hop, h => let ⟨_, _, _, _, _, h⟩ := ((mcmp_iff hop).mp h).2; .intro h rfl rfl
  | 0x4, _, hop, h => let ⟨_, _, _, _, _, h⟩ := ((mfcmp_iff hop).mp h).2; .intro h rfl rfl
  | 0x5, _, hop, h => let ⟨_, _, h⟩ := (decDA_iff hop isV_fits isM_fits).mp (need_then h); .intro h rfl rfl
  | 0x6, _, hop, h => let ⟨_, _, h⟩ := (decDA_iff hop isM_fits isV_fits).mp (need_then h); .intro h rfl rfl
  | 0x7, _, hop, h => let ⟨_, _, h⟩ := (decDA_iff hop isS_fits isM_fits).mp (need_then h); .intro h rfl rfl
  | 0x9, _, hop, h => let ⟨_, _, _, h⟩ := (decABC_iff hop isS_fits isM_fits isS_fits).mp (need_then h); .intro h rfl rfl
  | 0xA, _, hop, h => let ⟨_, h⟩ := (decA_iff hop isM_fits).mp (need_then h); .intro h rfl rfl
  | 0xB, _, hop, h => let ⟨_, h⟩ := (decD_iff hop isM_fits).mp (need_then h); .intro h rfl rfl
  | 0xC, _, _, h | 0xD, _, _, h | 0xE, _, _, h | 0xF, _, _, h => nomatch h
  | n + 16, hlo, _, _ => absurd hlo (by omega)

theorem decode4_wordOf {lo : Nat} (hlo : lo < 16) (hop : fOp w = 0x40 + lo) (h : decode4 cls lo w = .ok i) : WordOf w i :=
  match lo, hlo, hop, h with
  | 0x0, _, hop, h | 0xA, _, hop, h =>
    let ⟨_, _, h⟩ := (decDA_iff hop isV_fits isV_fits).mp (need_then h); .intro h rfl rfl
  | 0x1, _, hop, h => let ⟨_, _, h⟩ := ((vmovi_iff hop).mp h).2; .intro h rfl rfl
  | 0x2, _, hop, h | 0x3, _, hop, h | 0x4, _, hop, h =>
    let ⟨_, _, _, _, _, h⟩ := (decVSat_iff hop).mp (need_then h); .intro h rfl rfl
  | 0x5, _, hop, h | 0xE, _, hop, h | 0xF, _, hop, h =>
    let ⟨_, _, _, _, h⟩ := (decVT_iff hop).mp (need_then h); .intro h rfl rfl
  | 0x6, _, hop, h => let ⟨_, _, _, _, _, _, h⟩ := ((vmad_iff hop).mp h).2; .intro h rfl rfl
  | 0x7, _, hop, h | 0x8, _, hop, h | 0x9, _, hop, h | 0xB, _, hop, h | 0xC, _, hop, h
  | 0xD, _, hop, h =>
    let ⟨_, _, _, h⟩ := (decABC_iff hop isV_fits isV_fits isV_fits).mp (need_then h); .intro h rfl rfl
  | n + 16, hlo, _, _ => absurd hlo (by omega)

theorem decode5_wordOf {lo : Nat} (hlo : lo < 16) (hop : fOp w = 0x50 + lo) (h : decode5 cls lo w = .ok i) : WordOf w i :=
  match lo, hlo, hop, h with
  | 0x0, _, hop, h | 0x1, _, hop, h =>
    let ⟨_, _, _, _, h⟩ := (decVSat2_iff hop).mp (need_then (need_then h)); .intro h rfl rfl
  | 0x2, _, hop, h => let ⟨_, _, _, _, h⟩ := (decV4_iff hop isM_fits).mp (need_then (need_then h)); .intro h rfl rfl
  | 0x3, _, hop, h | 0x4, _, hop, h =>
    let ⟨_, _, h⟩ := (decDA_iff hop isV_fits isV_fits).mp (need_then (need_then h)); .intro h rfl rfl
  | 0x5, _, hop, h | 0x6, _, hop, h =>
    let ⟨_, _, _, _, h⟩ := (decV4_iff hop isV_fits).mp (need_then (need_then h)); .intro h rfl rfl
  | 0x7, _, hop, h => let ⟨_, _, _, h⟩ := (decVT2_iff hop).mp (need_then (need_then h)); .intro h rfl rfl
  | 0x8, _, hop, h => let ⟨_, _, _, _, _, h⟩ := ((vaddi_iff hop).mp h).2; .intro h rfl rfl
  | 0x9, _, hop, h | 0xA, _, hop, h =>
    let ⟨_, _, h⟩ := (decDA_iff hop isV_fits isS_fits).mp (need_then (need_then h)); .intro h rfl rfl
  | 0xB, _, _, h | 0xC, _, _, h | 0xD, _, _, h | 0xE, _, _, h | 0xF, _, _, h => nomatch h
  | n + 16, hlo, _, _ => absurd hlo (by omega)

theorem decode6_wordOf {lo : Nat} (hlo : lo < 16) (hop : fOp w = 0x60 + lo) (h : decode6 cls lo w = .ok i) : WordOf w i :=
  match lo, hlo, hop, h with
  | 0x0, _, hop, h | 0x1, _, hop, h | 0x2, _, hop, h =>
    let ⟨_, _, _, _, _, h⟩ := (decVF_iff hop).mp (need_then (need_then h)); .intro h rfl rfl
  | 0x3, _, hop, h => let ⟨_, _, _, _, _, _, h⟩ := ((vfma_iff hop).mp h).2; .intro h rfl rfl
  | 0x4, _, hop, h | 0x5, _, hop, h =>
    let ⟨_, _, _, _, h⟩ := (decVT_iff hop).mp (need_then (need_then h)); .intro h rfl rfl
  | 0x6, _, hop, h | 0x7, _, hop, h | 0x8, _, hop, h | 0x9, _, hop, h =>
    let ⟨_, _, _, _, h⟩ := (decVFn_iff hop).mp (need_then (need_then h)); .intro h rfl rfl
  | 0xA, _, hop, h | 0xB, _, hop, h =>
    let ⟨_, _, _, h⟩ := (decVT2_iff hop).mp (need_then (need_then h)); .intro h rfl rfl
  | 0xC, _, hop, h => let ⟨_, _, _, _, _, _, h⟩ := ((vcvt_iff hop).mp h).2; .intro h rfl rfl
  | 0xD, _, hop, h => let ⟨_, _, _, _, _, _, h⟩ := ((vpack_iff hop).mp h).2; .intro h rfl rfl
  | 0xE, _, hop, h => let ⟨_, _, _, _, h⟩ := ((vunpk_iff hop).mp h).2; .intro h rfl (vunpk_word ..)
  | 0xF, _, _, h => nomatch h
  | n + 16, hlo, _, _ => absurd hlo (by omega)

theorem decode7_wordOf {lo : Nat} (hlo : lo < 16) (hop : fOp w = 0x70 + lo) (h : decode7 cls lo w = .ok i) : WordOf w i :=
  match lo, hlo, hop, h with
  | 0x0, _, hop, h => let ⟨_, _, _, _, h⟩ := ((vshuf_iff hop).mp h).2; .intro h rfl rfl
  | 0x1, _, hop, h =>
    let ⟨_, _, _, h⟩ := (decABC_iff hop isV_fits isV_fits isS_fits).mp (need_then (need_then h)); .intro h rfl rfl
  | 0x2, _, hop, h => let ⟨_, _, _, _, _, _, _, h⟩ := ((vred_iff hop).mp h).2; .intro h rfl rfl
  | 0x3, _, hop, h => let ⟨_, _, _, _, _, _, _, _, h⟩ := ((vscan_iff hop).mp h).2; .intro h rfl rfl
  | 0x8, _, hop, h => let ⟨_, _, _, _, _, _, _, _, _, h⟩ := ((vld_iff hop).mp h).2; .intro h rfl rfl
  | 0x9, _, hop, h => let ⟨_, _, _, _, _, _, _, _, h⟩ := ((vst_iff hop).mp h).2; .intro h rfl rfl
  | 0xA, _, hop, h => let ⟨_, _, _, _, _, _, _, h⟩ := (decMX_iff hop).mp (need_then (need_then h)); .intro h rfl rfl
  | 0xB, _, hop, h => let ⟨_, _, _, _, _, _, h⟩ := (decMXNoLa_iff hop).mp (need_then (need_then h)); .intro h rfl rfl
  | 0xC, _, hop, h => let ⟨_, _, _, _, _, _, _, h⟩ := ((vlds_iff hop).mp h).2; .intro h rfl rfl
  | 0xD, _, hop, h => let ⟨_, _, _, _, _, _, h⟩ := ((vsts_iff hop).mp h).2; .intro h rfl rfl
  | 0xE, _, hop, h => let ⟨_, _, _, _, h⟩ := ((vpref_iff hop).mp h).2; .intro h rfl rfl
  | 0xF, _, hop, h => let ⟨_, _, _, h⟩ := ((spwait_iff hop).mp h).2; .intro h rfl rfl
  | 0x4, _, _, h | 0x5, _, _, h | 0x6, _, _, h | 0x7, _, _, h => nomatch h
  | n + 16, hlo, _, _ => absurd hlo (by omega)

theorem decode8_wordOf {lo : Nat} (hlo : lo < 16) (hop : fOp w = 0x80 + lo) (h : decode8 cls lo w = .ok i) : WordOf w i :=
  match lo, hlo, hop, h with
  | 0x0, _, hop, h => let ⟨_, _, _, _, _, _, _, _, _, _, h⟩ := ((atom_iff hop).mp h).2; .intro h rfl rfl
  | 0x1, _, hop, h => let ⟨_, _, _, _, _, _, _, _, h⟩ := ((atomc_iff hop).mp h).2; .intro h rfl rfl
  | 0x2, _, hop, h => let ⟨_, _, _, _, _, _, _, _, h⟩ := ((red_iff hop).mp h).2; .intro h rfl rfl
  | 0x3, _, hop, h => let ⟨_, _, _, _, _, _, _, _, _, h⟩ := ((satom_iff hop).mp h).2; .intro h rfl rfl
  | 0x4, _, hop, h => stash_wordOf hop h
  | 0x5, _, _, h | 0x6, _, _, h | 0x7, _, _, h | 0x8, _, _, h | 0x9, _, _, h
  | 0xA, _, _, h | 0xB, _, _, h | 0xC, _, _, h | 0xD, _, _, h | 0xE, _, _, h
  | 0xF, _, _, h => nomatch h
  | n + 16, hlo, _, _ => absurd hlo (by omega)

theorem decode9_wordOf {lo : Nat} (hlo : lo < 16) (hop : fOp w = 0x90 + lo) (h : decode9 cls lo w = .ok i) : WordOf w i :=
  match lo, hlo, hop, h with
  | 0x0, _, hop, h => let ⟨_, _, h⟩ := ((fence_iff hop).mp h).2; .intro h rfl rfl
  | 0x1, _, hop, h => let ⟨_, _, _, h⟩ := ((fencex_iff hop).mp h).2; .intro h rfl rfl
  | 0x2, _, hop, h | 0x3, _, hop, h | 0x4, _, hop, h =>
    let ⟨_, h⟩ := (decD_iff hop isBar_fits).mp (need_then h); .intro h rfl rfl
  | 0x5, _, hop, h => let ⟨_, _, h⟩ := (decDA_iff hop isBar_fits isS_fits).mp (need_then h); .intro h rfl rfl
  | 0x6, _, hop, h => let ⟨_, _, _, _, h⟩ := ((wbara_iff hop).mp h).2; .intro h rfl rfl
  | 0x7, _, hop, h => let ⟨_, _, _, _, _, _, h⟩ := ((wbarw_iff hop).mp h).2; .intro h rfl rfl
  | 0x8, _, hop, h => let ⟨_, _, _, _, _, h⟩ := ((wbari_iff hop).mp h).2; .intro h rfl rfl
  | 0x9, _, hop, h => .intro ⟨rfl, (decNone_iff hop).mp (need_then h)⟩ rfl rfl
  | 0xA, _, _, h | 0xB, _, _, h | 0xC, _, _, h | 0xD, _, _, h | 0xE, _, _, h
  | 0xF, _, _, h => nomatch h
  | n + 16, hlo, _, _ => absurd hlo (by omega)

theorem decodeA_wordOf {lo : Nat} (hlo : lo < 16) (hop : fOp w = 0xA0 + lo) (h : decodeA cls lo w = .ok i) : WordOf w i :=
  match lo, hlo, hop, h with
  | 0x0, _, hop, h => let ⟨_, _, _, _, h⟩ := ((clm_iff hop).mp h).2; .intro h rfl rfl
  | 0x1, _, hop, h | 0x2, _, hop, h =>
    .intro ⟨rfl, (decNone_iff hop).mp (need_then (need_then h))⟩ rfl rfl
  | 0x3, _, hop, h => let ⟨_, _, h⟩ := ((clmq_iff hop).mp h).2; .intro h rfl rfl
  | 0x8, _, hop, h => let ⟨_, _, h⟩ := (decDA_iff hop isS_fits isV_fits).mp (need_then (need_then h)); .intro h rfl rfl
  | 0x9, _, hop, h => let ⟨_, _, _, _, h⟩ := ((lraise_iff hop).mp h).2; .intro h rfl rfl
  | 0xA, _, hop, h => let ⟨_, _, _, _, h⟩ := ((decl_iff hop).mp h).2; .intro h rfl rfl
  | 0xB, _, hop, h => let ⟨_, _, h⟩ := ((endorse_iff hop).mp h).2; .intro h rfl rfl
  | 0xC, _, hop, h =>
    let ⟨_, _, _, h⟩ := (decABC_iff hop isS_fits isV_fits isS_fits).mp (need_then (need_then h)); .intro h rfl rfl
  | 0xD, _, hop, h => let ⟨_, _, _, h⟩ := ((lspan_iff hop).mp h).2; .intro h rfl rfl
  | 0x4, _, _, h | 0x5, _, _, h | 0x6, _, _, h | 0x7, _, _, h | 0xE, _, _, h
  | 0xF, _, _, h => nomatch h
  | n + 16, hlo, _, _ => absurd hlo (by omega)

theorem decodeB_wordOf {lo : Nat} (hlo : lo < 16) (hop : fOp w = 0xB0 + lo) (h : decodeB cls lo w = .ok i) : WordOf w i :=
  match lo, hlo, hop, h with
  | 0x0, _, hop, h => let ⟨_, _, h⟩ := ((scopeo_iff hop).mp h).2; .intro h rfl rfl
  | 0x1, _, hop, h | 0x9, _, hop, h =>
    .intro ⟨rfl, (decNone_iff hop).mp (need_then h)⟩ rfl rfl
  | 0x2, _, hop, h => let ⟨_, h⟩ := ((rgrow_iff hop).mp h).2; .intro h rfl rfl
  | 0x3, _, hop, h => let ⟨_, h⟩ := ((rshrink_iff hop).mp h).2; .intro h rfl rfl
  | 0x8, _, hop, h => let ⟨_, _, _, h⟩ := ((fork_iff hop).mp h).2; .intro h rfl rfl
  | 0xA, _, hop, h => let ⟨_, _, _, h⟩ := ((tcopy_iff hop).mp h).2; .intro h rfl rfl
  | 0xB, _, hop, h => let ⟨_, _, _, _, h⟩ := ((xfer_iff hop).mp h).2; .intro h rfl rfl
  | 0xC, _, hop, h => let ⟨_, _, _, _, _, _, h⟩ := ((mma_iff hop).mp h).2; .intro h rfl (mma_word ..)
  | 0xD, _, hop, h => let ⟨_, h⟩ := (decD_iff hop isTile_fits).mp (need_then h); .intro h rfl rfl
  | 0xE, _, hop, h => let ⟨_, _, _, _, _, _, h⟩ := ((mdrain_iff hop).mp h).2; .intro h rfl rfl
  | 0xF, _, hop, h => let ⟨_, _, _, _, h⟩ := ((mfill_iff hop).mp h).2; .intro h rfl rfl
  | 0x4, _, _, h | 0x5, _, _, h | 0x6, _, _, h | 0x7, _, _, h => nomatch h
  | n + 16, hlo, _, _ => absurd hlo (by omega)

theorem decodeC_wordOf {lo : Nat} (hlo : lo < 16) (hop : fOp w = 0xC0 + lo) (h : decodeC cls lo w = .ok i) : WordOf w i :=
  match lo, hlo, hop, h with
  | 0x0, _, hop, h => let ⟨_, _, h⟩ := (decSS_iff hop).mp (need_then h); .intro h rfl rfl
  | 0x1, _, hop, h => let ⟨_, h⟩ := (decA_iff hop isS_fits).mp (need_then h); .intro h rfl rfl
  | 0x2, _, hop, h => let ⟨_, _, _, h⟩ := ((qput_iff hop).mp h).2; .intro h rfl rfl
  | 0x3, _, hop, h => mrscl_wordOf hop h
  | 0x4, _, _, h | 0x5, _, _, h | 0x6, _, _, h | 0x7, _, _, h | 0x8, _, _, h
  | 0x9, _, _, h | 0xA, _, _, h | 0xB, _, _, h | 0xC, _, _, h | 0xD, _, _, h
  | 0xE, _, _, h | 0xF, _, _, h => nomatch h
  | n + 16, hlo, _, _ => absurd hlo (by omega)

theorem decodeD_wordOf {lo : Nat} (hlo : lo < 16) (hop : fOp w = 0xD0 + lo) (h : decodeD cls lo w = .ok i) : WordOf w i :=
  match lo, hlo, hop, h with
  | 0x0, _, hop, h => let ⟨_, _, h⟩ := ((sysr_iff hop).mp h).2; .intro h rfl rfl
  | 0x1, _, hop, h => let ⟨_, _, h⟩ := ((sysw_iff hop).mp h).2; .intro h rfl rfl
  | 0x2, _, hop, h | 0x6, _, hop, h =>
    let ⟨_, h⟩ := (decA_iff hop isS_fits).mp (need_then h); .intro h rfl rfl
  | 0x3, _, hop, h => tlbinv_wordOf hop h
  | 0x4, _, hop, h => let ⟨_, _, h⟩ := (decAB_iff hop).mp (need_then h); .intro h rfl rfl
  | 0x5, _, hop, h => let ⟨_, _, h⟩ := ((faultr_iff hop).mp h).2; .intro h rfl rfl
  | 0x7, _, _, h | 0x8, _, _, h | 0x9, _, _, h | 0xA, _, _, h | 0xB, _, _, h
  | 0xC, _, _, h | 0xD, _, _, h | 0xE, _, _, h | 0xF, _, _, h => nomatch h
  | n + 16, hlo, _, _ => absurd hlo (by omega)
end

/-- The decoder answers an instruction for its word alone, every bit of it (R83, R84). -/
theorem wordOf_of_decode {e : Eng} {w : Word} {i : Instr} (h : decode e w = .ok i) : WordOf w i := by
  have hlo : fOp w % 16 < 16 := Nat.mod_lt _ (by decide)
  have hop (n : Nat) (hn : fOp w / 16 = n) : fOp w = 16 * n + fOp w % 16 := by rw [← hn, Nat.div_add_mod]
  unfold decode at h
  split at h
  · next hn => exact decode0_wordOf hlo (hop _ hn) h
  · next hn => exact decode1_wordOf hlo (hop _ hn) h
  · next hn => exact decode2_wordOf hlo (hop _ hn) h
  · next hn => exact decode3_wordOf hlo (hop _ hn) h
  · next hn => exact decode4_wordOf hlo (hop _ hn) h
  · next hn => exact decode5_wordOf hlo (hop _ hn) h
  · next hn => exact decode6_wordOf hlo (hop _ hn) h
  · next hn => exact decode7_wordOf hlo (hop _ hn) h
  · next hn => exact decode8_wordOf hlo (hop _ hn) h
  · next hn => exact decode9_wordOf hlo (hop _ hn) h
  · next hn => exact decodeA_wordOf hlo (hop _ hn) h
  · next hn => exact decodeB_wordOf hlo (hop _ hn) h
  · next hn => exact decodeC_wordOf hlo (hop _ hn) h
  · next hn => exact decodeD_wordOf hlo (hop _ hn) h
  · cases h
  · cases h

/-- Settles O41: a word is decoded by the row of its opcode, and each row reads the words of its well-formed instructions alone. -/
theorem decodeExact : Obligations.DecodeExact := by
  unfold Obligations.DecodeExact
  exact fun _ _ _ h => wordOf_of_decode h

end Sys2Proof.Machine.ExecModel
end

section
/-! PROOF. The decoder reads back what the encoder writes, from the word and from its bytes: O40. -/

namespace Sys2Proof.Machine.ExecModel

/-- The opcode map, with the opcode apart from the word (R82). -/
def decodeAt (cls : Eng) (op : Nat) (w : Word) : Dec Instr :=
  match op / 16 with
  | 0x0 => decode0 cls (op % 16) w
  | 0x1 => decode1 cls (op % 16) w
  | 0x2 => decode2 cls (op % 16) w
  | 0x3 => decode3 cls (op % 16) w
  | 0x4 => decode4 cls (op % 16) w
  | 0x5 => decode5 cls (op % 16) w
  | 0x6 => decode6 cls (op % 16) w
  | 0x7 => decode7 cls (op % 16) w
  | 0x8 => decode8 cls (op % 16) w
  | 0x9 => decode9 cls (op % 16) w
  | 0xA => decodeA cls (op % 16) w
  | 0xB => decodeB cls (op % 16) w
  | 0xC => decodeC cls (op % 16) w
  | 0xD => decodeD cls (op % 16) w
  | 0xF => .error .headerKey
  | _ => .error .reservedOpcode

theorem decode_eq_decodeAt (cls : Eng) (w : Word) : decode cls w = decodeAt cls (fOp w) w := rfl

section
variable {cls : Eng} {op la d a b c : Nat} {ty : BitVec 4} {md : BitVec 6} {w : Word} {i : Instr}

theorem decode_of_fOp (hop : fOp w = op % 256) (h8 : op < 256) (h : fOp w = op → decodeAt cls op w = .ok i) :
    decode cls w = .ok i := by
  rw [Nat.mod_eq_of_lt h8] at hop
  rw [decode_eq_decodeAt, hop]
  exact h hop

theorem decode_encR {x : BitVec 10} (he : some (encR op la ty md d a b c x) = some w) (h8 : op < 256)
    (h : fOp w = op → decodeAt cls op w = .ok i) : decode cls w = .ok i :=
  decode_of_fOp (encR_eq_iff.mp (Option.some.inj he)).1 h8 h

theorem decode_encM {ofs : BitVec 18} (he : some (encM op la ty md d a b ofs) = some w) (h8 : op < 256)
    (h : fOp w = op → decodeAt cls op w = .ok i) : decode cls w = .ok i :=
  decode_of_fOp (encM_eq_iff.mp (Option.some.inj he)).1 h8 h

theorem decode_encI {imm : BitVec 26} (he : some (encI op ty md d a imm) = some w) (h8 : op < 256)
    (h : fOp w = op → decodeAt cls op w = .ok i) : decode cls w = .ok i :=
  decode_of_fOp (encI_eq_iff.mp (Option.some.inj he)).1 h8 h

theorem decode_encL {imm : BitVec 32} (he : some (encL op d imm) = some w) (h8 : op < 256)
    (h : fOp w = op → decodeAt cls op w = .ok i) : decode cls w = .ok i :=
  decode_of_fOp (encL_eq_iff.mp (Option.some.inj he)).1 h8 h

theorem decode_encJ {tgt join : BitVec 17} (he : some (encJ op ty a tgt join) = some w) (h8 : op < 256)
    (h : fOp w = op → decodeAt cls op w = .ok i) : decode cls w = .ok i :=
  decode_of_fOp (encJ_eq_iff.mp (Option.some.inj he)).1 h8 h
end

/-- The decoder reads the word of a well-formed instruction back, in a class that may hold it (R77 to R84). -/
theorem decode_of_wordOf {w : Word} {i : Instr} (h : WordOf w i) : decode (homeClass i) w = .ok i := by
  obtain ⟨hr, he⟩ := h
  cases i with
  | nop =>
    obtain rfl := Option.some.inj he
    rfl
  | ret | exit | yield | halt | ckpt | clmseal | clmdone | scopec | rdv =>
    exact decode_encR he (by decide) fun hop => (decNone_iff hop).mpr ⟨Option.some.inj he, rfl⟩
  | bra t =>
    exact decode_encJ he (by decide) fun hop => (bra_iff hop).mpr ⟨rfl, t, Option.some.inj he, rfl⟩
  | call t =>
    exact decode_encJ he (by decide) fun hop => (call_iff hop).mpr ⟨rfl, t, Option.some.inj he, rfl⟩
  | brc k a t j =>
    exact decode_encJ he (by decide) fun hop => (brc_iff hop).mpr ⟨rfl, k, a, t, j, hr, Option.some.inj he, rfl⟩
  | brv m t j =>
    exact decode_encJ he (by decide) fun hop => (brv_iff hop).mpr ⟨rfl, m, t, j, hr, Option.some.inj he, rfl⟩
  | loop a t j =>
    exact decode_encJ he (by decide) fun hop => (loop_iff hop).mpr ⟨rfl, a, t, j, hr, Option.some.inj he, rfl⟩
  | trap n =>
    exact decode_encI he (by decide) fun hop => (trap_iff hop).mpr ⟨rfl, n, Option.some.inj he, rfl⟩
  | bkpt n =>
    exact decode_encI he (by decide) fun hop => (bkpt_iff hop).mpr ⟨rfl, n, Option.some.inj he, rfl⟩
  | tretRetry =>
    exact decode_encR he (by decide) fun hop => (tret_iff hop).mpr ⟨rfl, false, Option.some.inj he, rfl⟩
  | tretSkip =>
    exact decode_encR he (by decide) fun hop => (tret_iff hop).mpr ⟨rfl, true, Option.some.inj he, rfl⟩
  | smov d a | sclz d a | spopc d a | shape d a =>
    exact decode_encR he (by decide) fun hop => (decSS_iff hop).mpr ⟨d, a, hr, Option.some.inj he, rfl⟩
  | smovi d imm | smovh d imm =>
    exact decode_encL he (by decide) fun hop => (decSImm_iff hop).mpr ⟨d, imm, hr, Option.some.inj he, rfl⟩
  | sadd u s d a b | ssub u s d a b | smul u s d a b =>
    exact decode_encR he (by decide) fun hop => (decSSat_iff hop).mpr ⟨u, s, d, a, b, hr, Option.some.inj he, rfl⟩
  | smulh u d a b | smin u d a b | smax u d a b =>
    exact decode_encR he (by decide) fun hop => (decSU_iff hop).mpr ⟨u, d, a, b, hr, Option.some.inj he, rfl⟩
  | sand d a b | sor d a b | sxor d a b | sshl d a b | sshr d a b | ssar d a b =>
    exact decode_encR he (by decide) fun hop => (decSSS_iff hop).mpr ⟨d, a, b, hr, Option.some.inj he, rfl⟩
  | scmp u c d a b =>
    exact decode_encR he (by decide) fun hop => (scmp_iff hop).mpr ⟨rfl, u, c, d, a, b, hr, Option.some.inj he, rfl⟩
  | ssel d a b c | sbfe d a b c =>
    exact decode_encR he (by decide) fun hop => (decSSSS_iff hop).mpr ⟨d, a, b, c, hr, Option.some.inj he, rfl⟩
  | saddi u s d a imm =>
    exact decode_encI he (by decide) fun hop => (saddi_iff hop).mpr ⟨rfl, u, s, d, a, imm, hr, Option.some.inj he, rfl⟩
  | sld la t sc o d a b ofs =>
    exact decode_encM he (by decide) fun hop => (decMS_iff hop).mpr ⟨la, t, sc, o, d, a, b, ofs, hr, Option.some.inj he, rfl⟩
  | sst t sc o d a b ofs =>
    exact decode_encM he (by decide) fun hop => (decMSNoLa_iff hop).mpr ⟨t, sc, o, d, a, b, ofs, hr, Option.some.inj he, rfl⟩
  | slane d a b | lchk d a b =>
    exact decode_encR he (by decide) fun hop => (decABC_iff hop isS_fits isV_fits isS_fits).mpr ⟨d, a, b, hr, Option.some.inj he, rfl⟩
  | mset d a b =>
    exact decode_encR he (by decide) fun hop => (decABC_iff hop isM_fits isS_fits isS_fits).mpr ⟨d, a, b, hr, Option.some.inj he, rfl⟩
  | mtest d a b =>
    exact decode_encR he (by decide) fun hop => (decABC_iff hop isS_fits isM_fits isS_fits).mpr ⟨d, a, b, hr, Option.some.inj he, rfl⟩
  | vand d a b | vor d a b | vxor d a b | vshl d a b | vshr d a b | vsar d a b =>
    exact decode_encR he (by decide) fun hop => (decABC_iff hop isV_fits isV_fits isV_fits).mpr ⟨d, a, b, hr, Option.some.inj he, rfl⟩
  | vbcast d a b =>
    exact decode_encR he (by decide) fun hop => (decABC_iff hop isV_fits isV_fits isS_fits).mpr ⟨d, a, b, hr, Option.some.inj he, rfl⟩
  | mnot d a | melect d a =>
    exact decode_encR he (by decide) fun hop => (decDA_iff hop isM_fits isM_fits).mpr ⟨d, a, hr, Option.some.inj he, rfl⟩
  | msave d a =>
    exact decode_encR he (by decide) fun hop => (decDA_iff hop isV_fits isM_fits).mpr ⟨d, a, hr, Option.some.inj he, rfl⟩
  | mrest d a =>
    exact decode_encR he (by decide) fun hop => (decDA_iff hop isM_fits isV_fits).mpr ⟨d, a, hr, Option.some.inj he, rfl⟩
  | mpopc d a =>
    exact decode_encR he (by decide) fun hop => (decDA_iff hop isS_fits isM_fits).mpr ⟨d, a, hr, Option.some.inj he, rfl⟩
  | vmov d a | vnot d a | vclz d a | vpopc d a =>
    exact decode_encR he (by decide) fun hop => (decDA_iff hop isV_fits isV_fits).mpr ⟨d, a, hr, Option.some.inj he, rfl⟩
  | vlane d a | vfroms d a =>
    exact decode_encR he (by decide) fun hop => (decDA_iff hop isV_fits isS_fits).mpr ⟨d, a, hr, Option.some.inj he, rfl⟩
  | lget d a =>
    exact decode_encR he (by decide) fun hop => (decDA_iff hop isS_fits isV_fits).mpr ⟨d, a, hr, Option.some.inj he, rfl⟩
  | bari d a =>
    exact decode_encR he (by decide) fun hop => (decDA_iff hop isBar_fits isS_fits).mpr ⟨d, a, hr, Option.some.inj he, rfl⟩
  | mrsclVector d a =>
    exact decode_encR he (by decide) fun hop => (decDA_iff hop isTile_fits isV_fits).mpr ⟨d, a, hr, Option.some.inj he, rfl⟩
  | mrsclUniform d a =>
    exact decode_encR he (by decide) fun hop => (decDA_iff hop isTile_fits isS_fits).mpr ⟨d, a, hr, Option.some.inj he, rfl⟩
  | brx a | cast a | pkeyw a | pgmap a =>
    exact decode_encR he (by decide) fun hop => (decA_iff hop isS_fits).mpr ⟨a, hr, Option.some.inj he, rfl⟩
  | exmw a =>
    exact decode_encR he (by decide) fun hop => (decA_iff hop isM_fits).mpr ⟨a, hr, Option.some.inj he, rfl⟩
  | exmr d =>
    exact decode_encR he (by decide) fun hop => (decD_iff hop isM_fits).mpr ⟨d, hr, Option.some.inj he, rfl⟩
  | bara n | barw n | baraw n =>
    exact decode_encR he (by decide) fun hop => (decD_iff hop isBar_fits).mpr ⟨n, hr, Option.some.inj he, rfl⟩
  | mzero tile =>
    exact decode_encR he (by decide) fun hop => (decD_iff hop isTile_fits).mpr ⟨tile, hr, Option.some.inj he, rfl⟩
  | frinv a b =>
    exact decode_encR he (by decide) fun hop => (decAB_iff hop).mpr ⟨a, b, hr, Option.some.inj he, rfl⟩
  | mlog op d a b =>
    exact decode_encR he (by decide) fun hop => (mlog_iff hop).mpr ⟨rfl, op, d, a, b, hr, Option.some.inj he, rfl⟩
  | mcmp t c d a b =>
    exact decode_encR he (by decide) fun hop => (mcmp_iff hop).mpr ⟨rfl, t, c, d, a, b, hr, Option.some.inj he, rfl⟩
  | mfcmp t c d a b =>
    exact decode_encR he (by decide) fun hop => (mfcmp_iff hop).mpr ⟨rfl, t, c, d, a, b, hr, Option.some.inj he, rfl⟩
  | vmovi d imm =>
    exact decode_encL he (by decide) fun hop => (vmovi_iff hop).mpr ⟨rfl, d, imm, hr, Option.some.inj he, rfl⟩
  | vadd t s d a b | vsub t s d a b | vmul t s d a b =>
    exact decode_encR he (by decide) fun hop => (decVSat_iff hop).mpr ⟨t, s, d, a, b, hr, Option.some.inj he, rfl⟩
  | vmulh t d a b | vmin t d a b | vmax t d a b | vfmin t d a b | vfmax t d a b =>
    exact decode_encR he (by decide) fun hop => (decVT_iff hop).mpr ⟨t, d, a, b, hr, Option.some.inj he, rfl⟩
  | vmad t s d a b c =>
    exact decode_encR he (by decide) fun hop => (vmad_iff hop).mpr ⟨rfl, t, s, d, a, b, c, hr, Option.some.inj he, rfl⟩
  | vabs t s d a | vneg t s d a =>
    exact decode_encR he (by decide) fun hop => (decVSat2_iff hop).mpr ⟨t, s, d, a, hr, Option.some.inj he, rfl⟩
  | vsel d a b c =>
    exact decode_encR he (by decide) fun hop => (decV4_iff hop isM_fits).mpr ⟨d, a, b, c, hr, Option.some.inj he, rfl⟩
  | vbfe d a b c | vbfi d a b c =>
    exact decode_encR he (by decide) fun hop => (decV4_iff hop isV_fits).mpr ⟨d, a, b, c, hr, Option.some.inj he, rfl⟩
  | vsat t d a | vfabs t d a | vfneg t d a =>
    exact decode_encR he (by decide) fun hop => (decVT2_iff hop).mpr ⟨t, d, a, hr, Option.some.inj he, rfl⟩
  | vaddi t s d a imm =>
    exact decode_encI he (by decide) fun hop => (vaddi_iff hop).mpr ⟨rfl, t, s, d, a, imm, hr, Option.some.inj he, rfl⟩
  | vfadd t r d a b | vfsub t r d a b | vfmul t r d a b =>
    exact decode_encR he (by decide) fun hop => (decVF_iff hop).mpr ⟨t, r, d, a, b, hr, Option.some.inj he, rfl⟩
  | vfma t r d a b c =>
    exact decode_encR he (by decide) fun hop => (vfma_iff hop).mpr ⟨rfl, t, r, d, a, b, c, hr, Option.some.inj he, rfl⟩
  | vfrcp la r d a | vfrsq la r d a | vfexp2 la r d a | vflog2 la r d a =>
    exact decode_encR he (by decide) fun hop => (decVFn_iff hop).mpr ⟨la, r, d, a, hr, Option.some.inj he, rfl⟩
  | vcvt dt st s r d a =>
    exact decode_encR he (by decide) fun hop => (vcvt_iff hop).mpr ⟨rfl, dt, st, s, r, d, a, hr, Option.some.inj he, rfl⟩
  | vpack t s r d a b =>
    exact decode_encR he (by decide) fun hop => (vpack_iff hop).mpr ⟨rfl, t, s, r, d, a, b, hr, Option.some.inj he, rfl⟩
  | vunpk t h d a =>
    rw [vunpk_word] at he
    exact decode_encR he (by decide) fun hop => (vunpk_iff hop).mpr ⟨rfl, t, h, d, a, hr, Option.some.inj he, rfl⟩
  | vshuf m d a b =>
    exact decode_encR he (by decide) fun hop => (vshuf_iff hop).mpr ⟨rfl, m, d, a, b, hr, Option.some.inj he, rfl⟩
  | vred la t s r op d a =>
    exact decode_encR he (by decide) fun hop => (vred_iff hop).mpr ⟨rfl, la, t, s, r, op, d, a, hr, Option.some.inj he, rfl⟩
  | vscan la t s r op e d a =>
    exact decode_encR he (by decide) fun hop => (vscan_iff hop).mpr ⟨rfl, la, t, s, r, op, e, d, a, hr, Option.some.inj he, rfl⟩
  | vld la t sc o s d a x ofs =>
    exact decode_encM he (by decide) fun hop => (vld_iff hop).mpr ⟨rfl, la, t, sc, o, s, d, a, x, ofs, hr, Option.some.inj he, rfl⟩
  | vst t sc o s d a x ofs =>
    exact decode_encM he (by decide) fun hop => (vst_iff hop).mpr ⟨rfl, t, sc, o, s, d, a, x, ofs, hr, Option.some.inj he, rfl⟩
  | vldx la t sc o d a ofs =>
    exact decode_encM he (by decide) fun hop => (decMX_iff hop).mpr ⟨la, t, sc, o, d, a, ofs, hr, Option.some.inj he, rfl⟩
  | vstx t sc o d a ofs =>
    exact decode_encM he (by decide) fun hop => (decMXNoLa_iff hop).mpr ⟨t, sc, o, d, a, ofs, hr, Option.some.inj he, rfl⟩
  | vlds la t s d a x ofs =>
    exact decode_encM he (by decide) fun hop => (vlds_iff hop).mpr ⟨rfl, la, t, s, d, a, x, ofs, hr, Option.some.inj he, rfl⟩
  | vsts t s d a x ofs =>
    exact decode_encM he (by decide) fun hop => (vsts_iff hop).mpr ⟨rfl, t, s, d, a, x, ofs, hr, Option.some.inj he, rfl⟩
  | vpref s a x ofs =>
    exact decode_encM he (by decide) fun hop => (vpref_iff hop).mpr ⟨rfl, s, a, x, ofs, hr, Option.some.inj he, rfl⟩
  | clm s a x ofs =>
    exact decode_encM he (by decide) fun hop => (clm_iff hop).mpr ⟨rfl, s, a, x, ofs, hr, Option.some.inj he, rfl⟩
  | spwait a b ofs =>
    exact decode_encM he (by decide) fun hop => (spwait_iff hop).mpr ⟨rfl, a, b, ofs, hr, Option.some.inj he, rfl⟩
  | atom la t sc o p op d a b ofs =>
    exact decode_encM he (by decide) fun hop => (atom_iff hop).mpr ⟨rfl, la, t, sc, o, p, op, d, a, b, ofs, hr, Option.some.inj he, rfl⟩
  | atomc la sc o p d a b ofs =>
    exact decode_encM he (by decide) fun hop => (atomc_iff hop).mpr ⟨rfl, la, sc, o, p, d, a, b, ofs, hr, Option.some.inj he, rfl⟩
  | red t sc o p op a b ofs =>
    exact decode_encM he (by decide) fun hop => (red_iff hop).mpr ⟨rfl, t, sc, o, p, op, a, b, ofs, hr, Option.some.inj he, rfl⟩
  | satom la u sc o op d a b ofs =>
    exact decode_encM he (by decide) fun hop => (satom_iff hop).mpr ⟨rfl, la, u, sc, o, op, d, a, b, ofs, hr, Option.some.inj he, rfl⟩
  | stashMap d a b ofs =>
    exact decode_encM he (by decide) fun hop => (stash_iff hop).mpr ⟨rfl, 0, d, a, b, ofs, hr, Option.some.inj he, rfl⟩
  | stashFlush d a b ofs =>
    exact decode_encM he (by decide) fun hop => (stash_iff hop).mpr ⟨rfl, 1, d, a, b, ofs, hr, Option.some.inj he, rfl⟩
  | stashUnmap d a b ofs =>
    exact decode_encM he (by decide) fun hop => (stash_iff hop).mpr ⟨rfl, 2, d, a, b, ofs, hr, Option.some.inj he, rfl⟩
  | tlbinvPage a =>
    exact decode_encR he (by decide) fun hop => (tlbinv_iff hop).mpr ⟨rfl, 0, a, hr, Option.some.inj he, rfl⟩
  | tlbinvCtx a =>
    exact decode_encR he (by decide) fun hop => (tlbinv_iff hop).mpr ⟨rfl, 1, a, hr, Option.some.inj he, rfl⟩
  | tlbinvAll a =>
    exact decode_encR he (by decide) fun hop => (tlbinv_iff hop).mpr ⟨rfl, 2, a, hr, Option.some.inj he, rfl⟩
  | fence sc o =>
    exact decode_encR he (by decide) fun hop => (fence_iff hop).mpr ⟨rfl, sc, o, hr, Option.some.inj he, rfl⟩
  | fencex sc o p =>
    exact decode_encR he (by decide) fun hop => (fencex_iff hop).mpr ⟨rfl, sc, o, p, hr, Option.some.inj he, rfl⟩
  | wbara sc a b ofs =>
    exact decode_encM he (by decide) fun hop => (wbara_iff hop).mpr ⟨rfl, sc, a, b, ofs, hr, Option.some.inj he, rfl⟩
  | wbarw sc p d a b ofs =>
    exact decode_encM he (by decide) fun hop => (wbarw_iff hop).mpr ⟨rfl, sc, p, d, a, b, ofs, hr, Option.some.inj he, rfl⟩
  | wbari sc d a b ofs =>
    exact decode_encM he (by decide) fun hop => (wbari_iff hop).mpr ⟨rfl, sc, d, a, b, ofs, hr, Option.some.inj he, rfl⟩
  | clmq la d =>
    exact decode_encR he (by decide) fun hop => (clmq_iff hop).mpr ⟨rfl, la, d, hr, Option.some.inj he, rfl⟩
  | lraise d a b ofs =>
    exact decode_encM he (by decide) fun hop => (lraise_iff hop).mpr ⟨rfl, d, a, b, ofs, hr, Option.some.inj he, rfl⟩
  | decl d a site tgt =>
    exact decode_encI he (by decide) fun hop => (decl_iff hop).mpr ⟨rfl, d, a, site, tgt, hr, Option.some.inj he, rfl⟩
  | endorse site n =>
    exact decode_encI he (by decide) fun hop => (endorse_iff hop).mpr ⟨rfl, site, n, hr, Option.some.inj he, rfl⟩
  | lspan d n a =>
    exact decode_encR he (by decide) fun hop => (lspan_iff hop).mpr ⟨rfl, d, n, a, hr, Option.some.inj he, rfl⟩
  | scopeo n base =>
    exact decode_encI he (by decide) fun hop => (scopeo_iff hop).mpr ⟨rfl, n, base, hr, Option.some.inj he, rfl⟩
  | rgrow n =>
    exact decode_encI he (by decide) fun hop => (rgrow_iff hop).mpr ⟨rfl, n, hr, Option.some.inj he, rfl⟩
  | rshrink n =>
    exact decode_encI he (by decide) fun hop => (rshrink_iff hop).mpr ⟨rfl, n, hr, Option.some.inj he, rfl⟩
  | fork a b c =>
    exact decode_encR he (by decide) fun hop => (fork_iff hop).mpr ⟨rfl, a, b, c, hr, Option.some.inj he, rfl⟩
  | tcopy sh co ct =>
    exact decode_encM he (by decide) fun hop => (tcopy_iff hop).mpr ⟨rfl, sh, co, ct, hr, Option.some.inj he, rfl⟩
  | xfer x sh co ct =>
    exact decode_encM he (by decide) fun hop => (xfer_iff hop).mpr ⟨rfl, x, sh, co, ct, hr, Option.some.inj he, rfl⟩
  | mma t x tile sh co ct =>
    rw [mma_word] at he
    exact decode_encM he (by decide) fun hop => (mma_iff hop).mpr ⟨rfl, t, x, tile, sh, co, ct, hr, Option.some.inj he, rfl⟩
  | mdrain la t r d tile b =>
    exact decode_encR he (by decide) fun hop => (mdrain_iff hop).mpr ⟨rfl, la, t, r, d, tile, b, hr, Option.some.inj he, rfl⟩
  | mfill t tile a b =>
    exact decode_encR he (by decide) fun hop => (mfill_iff hop).mpr ⟨rfl, t, tile, a, b, hr, Option.some.inj he, rfl⟩
  | qput a b ofs =>
    exact decode_encM he (by decide) fun hop => (qput_iff hop).mpr ⟨rfl, a, b, ofs, hr, Option.some.inj he, rfl⟩
  | sysr d reg =>
    exact decode_encR he (by decide) fun hop => (sysr_iff hop).mpr ⟨rfl, d, reg, hr, Option.some.inj he, rfl⟩
  | sysw reg a =>
    exact decode_encR he (by decide) fun hop => (sysw_iff hop).mpr ⟨rfl, reg, a, hr, Option.some.inj he, rfl⟩
  | faultr f d =>
    exact decode_encR he (by decide) fun hop => (faultr_iff hop).mpr ⟨rfl, f, d, hr, Option.some.inj he, rfl⟩
  | _ => cases he

/-! ### Bytes (R9) -/

theorem leBytes_length (n v : Nat) : (leBytes n v).length = n := by
  induction n generalizing v with
  | zero => rfl
  | succ n ih => rw [leBytes, List.length_cons, ih]

theorem leNat_leBytes (n v : Nat) : leNat (leBytes n v) = v % 256 ^ n := by
  induction n generalizing v with
  | zero => rw [Nat.pow_zero, Nat.mod_one]; rfl
  | succ n ih =>
    rw [leBytes, leNat, ih, BitVec.toNat_ofNat, show 256 ^ (n + 1) = 256 * 256 ^ n from Nat.pow_succ']
    exact Nat.mod_mul.symm

theorem leWord_leBytes (w : Word) : leWord (leBytes 8 w.toNat) = w := by
  rw [leWord, leNat_leBytes, show (256 : Nat) ^ 8 = 2 ^ 64 from rfl, Nat.mod_eq_of_lt w.isLt, BitVec.ofNat_toNat,
    BitVec.setWidth_eq]

theorem decodeBytes_leBytes (cls : Eng) (w : Word) (bs : List Byte) :
    decodeBytes cls (leBytes 8 w.toNat ++ bs) = some ((decode cls w).map (fun i => (i, bs))) := by
  have hlen := leBytes_length 8 w.toNat
  rw [decodeBytes, if_neg (by rw [List.length_append, hlen]; omega), List.take_left' hlen, List.drop_left' hlen, leWord_leBytes]

/-- Settles O40: the word of a well-formed instruction goes to the row of its opcode, which reads every field back; eight bytes
are the bytes of their word. -/
theorem encodeDecode : Obligations.EncodeDecode := by
  unfold Obligations.EncodeDecode
  intro i w hwf henc
  have h := decode_of_wordOf ⟨hwf, henc⟩
  exact ⟨h, fun bs => by rw [decodeBytes_leBytes, h]; rfl⟩

end Sys2Proof.Machine.ExecModel
end

section
/-! PROOF. Words of the spec's own tables: O42. -/

namespace Sys2Proof.Machine.ExecModel

/-- Settles O42: each word is a number, on which the decoder evaluates; the refused ones fail the check of their sub-code. -/
theorem decodedWords : Obligations.DecodedWords := by
  unfold Obligations.DecodedWords
  exact ⟨rfl, rfl, rfl, rfl, rfl, rfl, rfl, rfl⟩

end Sys2Proof.Machine.ExecModel
end

section
/-! PROOF. Where a thread stands after an instruction (R75): O17. -/

namespace Sys2Proof.Machine.ExecModel

/-- What every way on keeps of a thread. -/
def SameBesidesPlace (u th : Thread) : Prop :=
  u.exm = th.exm ∧ u.f = th.f ∧ u.pcl = th.pcl ∧ u.priv = th.priv ∧ u.stack = th.stack ∧ u.armed = th.armed

theorem advance_keeps (ctl : Ctl) (n : Nat) (th : Thread) : SameBesidesPlace (advance ctl n th) th := by
  cases ctl with
  | next =>
    unfold advance
    dsimp only
    split <;> exact ⟨rfl, rfl, rfl, rfl, rfl, rfl⟩
  | jump pc => exact ⟨rfl, rfl, rfl, rfl, rfl, rfl⟩
  | stay => exact ⟨rfl, rfl, rfl, rfl, rfl, rfl⟩

theorem advance_next_inside {n : Nat} {th : Thread} (h : th.slot + 1 < th.clause.length) :
    (advance .next n th).pc = th.pc ∧ (advance .next n th).slot = th.slot + 1 ∧ (advance .next n th).clause = th.clause := by
  simp only [advance, h, ↓reduceIte, and_self]

theorem advance_next_last {n : Nat} {th : Thread} (h : ¬ th.slot + 1 < th.clause.length) :
    (advance .next n th).pc = th.pc + 8 * (th.clause.length + 1) ∧ (advance .next n th).slot = 0 ∧
      (advance .next n th).clause = [] := by
  simp only [advance, h, ↓reduceIte, and_self]

theorem advance_jump (pc n : Nat) (th : Thread) :
    (advance (.jump pc) n th).pc = pc ∧ (advance (.jump pc) n th).slot = 0 ∧ (advance (.jump pc) n th).clause = [] :=
  ⟨rfl, rfl, rfl⟩

section
variable {s u : State} {ag : Agent} {th : Thread} (h : s.thread? ag = some th) (hw : th.pend.any (fun p => p.held.isSome) = false)
include h hw

theorem mustHold_false (u : State) : s.mustHold u ag = false := by
  simp only [State.mustHold, h, Option.any_some, Thread.holding, hw, Bool.false_and]

theorem noteUndo_eq (u : State) (n : Nat) : s.noteUndo u ag n = u := by
  unfold State.noteUndo
  split
  · split
    · next h0 _ _ _ hs _ _ _ =>
      obtain rfl := Option.some.inj (h.symm.trans hs)
      rw [if_neg (by rw [Thread.holding, hw]; exact Bool.false_ne_true)]
    · rfl
  · rfl
end

theorem turn_claimRequests {s u : State} {ag b : Agent} {th : Thread} (h : u.Turn b th) : (s.claimRequests u ag).Turn b th := by
  unfold State.claimRequests
  split
  · exact h
  · split
    · exact h
    · exact h.congr rfl rfl rfl

/-- The turn ends where it must. -/
def turnEnded (s : State) (ag : Agent) : State :=
  match s.thread? ag with
  | some th => if turnEnds ag th then { s with cur := none } else s
  | none => { s with cur := none }

theorem thread_turnEnded (s : State) (ag b : Agent) : (turnEnded s ag).thread? b = s.thread? b := by
  unfold turnEnded
  split
  · split
    · exact State.thread_congr rfl rfl b
    · rfl
  · exact State.thread_congr rfl rfl b

/-- The end of an instruction that has no load held, is not performed behind a commit point and closes no window. -/
theorem finish_eq {s : State} {ag : Agent} {th : Thread} {ctl : Ctl} (h : s.thread? ag = some th)
    (hw : th.pend.any (fun p => p.held.isSome) = false) (u : State) (hctl : ctl ≠ .stay) : s.finish u ag { ctl := ctl } =
      turnEnded ((s.claimRequests u ag).modThread ag (advance ctl (s.claimRequests u ag).cyc)) ag := by
  unfold State.finish
  simp only [mustHold_false h hw, noteUndo_eq h hw, Bool.false_eq_true, ↓reduceIte, Bool.false_and]
  cases ctl with
  | stay => exact absurd rfl hctl
  | next | jump =>
    split
    · rfl
    · split <;> rfl

theorem thread_finish {s u : State} {ag : Agent} {th tu : Thread} {ctl : Ctl} (h : s.thread? ag = some th)
    (hw : th.pend.any (fun p => p.held.isSome) = false) (hu : u.Turn ag tu) (hctl : ctl ≠ .stay) :
    ∃ n, (s.finish u ag { ctl := ctl }).thread? ag = some (advance ctl n tu) := by
  have hclaimed : (s.claimRequests u ag).Turn ag tu := turn_claimRequests hu
  rw [finish_eq h hw u hctl, thread_turnEnded]
  exact ⟨_, (turn_modThread hclaimed _).2⟩

/-- Settles O17: the instruction's end moves its thread on, and each way on says where it then stands. -/
theorem programCounter : Obligations.ProgramCounter := by
  unfold Obligations.ProgramCounter
  intro s u cid t fn c tm th ctl hu hw h hctl
  obtain ⟨n, hth⟩ := thread_finish h hw hu.turn hctl
  refine ⟨advance ctl n th, hth, ?_, ?_, ?_, advance_keeps ctl n th⟩
  · rintro rfl hin
    exact advance_next_inside hin
  · rintro rfl hlast
    exact advance_next_last hlast
  · rintro pc rfl
    exact advance_jump pc n th

end Sys2Proof.Machine.ExecModel
end

section
/-! PROOF. The step and the instruction it runs: O43 fails in its last part. -/

namespace Sys2Proof.Machine.ExecModel

/-! ### A fragment that becomes unready while its crew is not listed in order -/

/-- A crew with one fragment, which waits at a join and has not been noted as unready. -/
def joinCrew : Crew :=
  { vf := 0, key := 0, index := 0, body := { teams := [(0, { lanes := 4, live := 0xF, frags := [(0, { park := .join })] })] } }
/-- It is listed behind a crew of a higher number; no context has a cast. -/
def joinState : State := { cyc := 1, crews := [(2, { vf := 0, key := 0, index := 1 }), (1, joinCrew)] }

/-- Refutes O43, in the clause on what a step's end leaves of the crews: the note that the fragment is unready writes its crew back at
the place of its number, so that a list of crews that is not in order grows by one entry, and not only by the times of a fragment. -/
theorem not_stepRunsDecoded : ¬ Obligations.StepRunsDecoded := by
  unfold Obligations.StepRunsDecoded
  rintro ⟨-, -, hafter⟩
  obtain ⟨hcrews, -⟩ := hafter {} joinState (by decide +kernel)
  have hlen := congrArg List.length hcrews
  rw [List.length_map, List.length_map] at hlen
  exact absurd hlen (by decide +kernel)

end Sys2Proof.Machine.ExecModel
end

section
/-! PROOF. Uniform results (R101) and masks (R49, R50, R112, R113): O1, O4 and O6. -/

namespace Sys2Proof.Machine.ExecModel

/-- Settles O1: every row of the table of R101 is a uniform instruction with its result. -/
theorem uniformResults : Obligations.UniformResults := by
  unfold Obligations.UniformResults
  intro i s ag th d srcs v l tab hres h hi hj
  obtain ⟨f, hexec, hv⟩ := uniform_of_uniResult hres
  exact exec_of_uniform hexec hv h hi hj

/-! ### Instructions whose result is a mask -/

section
variable {s : State} {cid t fn : Nat} {c : Crew} {tm : Team} {th : Thread} (h : s.AtFrag cid t fn c tm th)
include h

/-- Every row of the table of R112 and R113 is a mask operation with its labels and bits. -/
theorem maskOp_of_maskResult {i : Instr} {d : Nat} {rs : List RegName} {ls : List Lbl} {b : Mask}
    (hres : maskResult i s (.frag cid t fn) tm th = some (d, rs, ls, b)) :
    ∃ labs bits, exec i s = run (maskOp d rs labs bits) s ∧ labs s = .ok ls s ∧ bits s = .ok b s := by
  unfold maskResult at hres
  split at hres
  case h_8 => exact nomatch hres
  all_goals
    simp only [Option.some.injEq, Prod.mk.injEq] at hres
    obtain ⟨rfl, rfl, rfl, rfl⟩ := hres
    refine ⟨_, _, rfl, ?_, ?_⟩
  case h_1.refine_1 => simp only [M_bind, rdS_ok h.cur, M_pure]
  case h_1.refine_2 => simp only [M_bind, valS_ok h.cur, M_pure]
  case h_2.refine_1 | h_3.refine_1 | h_7.refine_1 => simp only [M_bind, maskLab_ok h, M_pure]
  case h_2.refine_2 | h_3.refine_2 => simp only [M_bind, maskBits_ok h, M_pure]
  case h_4.refine_1 | h_4.refine_2 | h_5.refine_1 | h_5.refine_2 | h_6.refine_1 | h_6.refine_2 =>
    simp only [M_bind, myTh_ok h.turn, myTeam_ok h, M_pure]
  case h_7.refine_2 d a =>
    simp only [M_bind, myTh_ok h.turn, maskBits_ok h]
    cases mlanes (th.exm &&& maskVal tm th a) with
    | nil => rfl
    | cons l rest => rfl

/-- One step of a mask instruction with an active lane. -/
theorem exec_of_maskResult {i : Instr} {d : Nat} {rs : List RegName} {ls : List Lbl} {b : Mask} {l : Lbl} {tab : List (BitVec 64)}
    (hres : maskResult i s (.frag cid t fn) tm th = some (d, rs, ls, b)) (hx : th.exm ≠ 0)
    (hi : s.mayIssue (.frag cid t fn) th rs [.m d] = true)
    (hl : s.maskLabel (.frag cid t fn) tm d th.exm (ls ++ [th.pcl]) = some (l, tab))
    (hd : d = 0 → ((s.setLabels c.vf tab).ctx c.vf).dominates th.pcl l = true) :
    exec i s = .next (s.finish ((s.setLabels c.vf tab).putMask cid t fn tm d th.exm b l) (.frag cid t fn) {}) := by
  obtain ⟨labs, bits, hexec, hlabs, hbits⟩ := maskOp_of_maskResult h hres
  rw [hexec, run_maskOp h hx hi hlabs hbits hl hd]
end

/-! ### A team after a write of a mask -/

/-- The bits of a mask after a write of some lanes, within the lanes that exist. -/
def mixMask (old lanes bits within : Mask) : Mask := ((old &&& ~~~lanes) ||| (bits &&& lanes)) &&& within

theorem getLsbD_mixMask (old lanes bits within : Mask) (k : Nat) : (mixMask old lanes bits within).getLsbD k =
    (within.getLsbD k && if lanes.getLsbD k then bits.getLsbD k else old.getLsbD k) := by
  have hout : ¬ k < 1024 → within.getLsbD k = false := fun hk => BitVec.getLsbD_of_ge _ _ (by omega)
  simp only [mixMask, BitVec.getLsbD_and, BitVec.getLsbD_or, BitVec.getLsbD_not]
  by_cases hk : k < 1024
  · cases lanes.getLsbD k <;> simp [hk, Bool.and_comm]
  · rw [hout hk, Bool.and_false, Bool.false_and]

/-- The active lanes of an exm take the bits of a mask. -/
theorem mixMask_self (x b within : Mask) : mixMask x x b within = x &&& b &&& within := by
  apply BitVec.eq_of_getLsbD_eq
  intro k _
  rw [getLsbD_mixMask, BitVec.getLsbD_and, BitVec.getLsbD_and]
  cases x.getLsbD k <;> simp [Bool.and_comm]

/-- A thread and a team after a write of some lanes of a mask: m0 is the thread's exm. -/
def maskedThread (th : Thread) (d : Nat) (lanes bits : Mask) : Thread :=
  if d = 0 then { th with exm := mixMask th.exm lanes bits th.f } else th
def maskedTeam (tm : Team) (fn d : Nat) (lanes bits : Mask) (l : Lbl) : Team :=
  if d = 0 then { tm with frags := kvModify tm.frags fn (fun th => { th with exm := mixMask th.exm lanes bits th.f }) }
  else { tm with m := kvPut {} tm.m d { bits := mixMask (kvGet {} tm.m d).bits lanes bits tm.live, lab := l } }

theorem maskedThread_keeps (th : Thread) (d : Nat) (lanes bits : Mask) : (maskedThread th d lanes bits).f = th.f ∧
    (maskedThread th d lanes bits).pcl = th.pcl ∧ (maskedThread th d lanes bits).stack = th.stack := by
  unfold maskedThread
  split
  · exact ⟨rfl, rfl, rfl⟩
  · exact ⟨rfl, rfl, rfl⟩

theorem maskedTeam_keeps (tm : Team) (fn d : Nat) (lanes bits : Mask) (l : Lbl) : (maskedTeam tm fn d lanes bits l).s = tm.s ∧
    (maskedTeam tm fn d lanes bits l).v = tm.v ∧
    ∀ k, k ≠ fn → kvFind (maskedTeam tm fn d lanes bits l).frags k = kvFind tm.frags k := by
  unfold maskedTeam
  split
  · exact ⟨rfl, rfl, fun k hk => kvFind_kvModify_ne _ _ _ _ hk⟩
  · exact ⟨rfl, rfl, fun _ _ => rfl⟩

/-- A mask that is not exm, after a write. -/
theorem masks_maskedTeam (tm : Team) (fn d r : Nat) (lanes bits : Mask) (l : Lbl) : kvGet {} (maskedTeam tm fn d lanes bits l).m r =
    if d ≠ 0 ∧ r = d then { bits := mixMask (kvGet {} tm.m d).bits lanes bits tm.live, lab := l } else kvGet {} tm.m r := by
  unfold maskedTeam
  by_cases hd : d = 0
  · rw [if_pos hd, if_neg fun h => h.1 hd]
  · simp only [hd, ↓reduceIte, not_false_eq_true, true_and, ne_eq, kvGet_kvPut]

theorem teamOnly_putMask (s : State) (cid t fn : Nat) (tm : Team) (d : Nat) (lanes bits : Mask) (l : Lbl) :
    TeamOnly s (s.putMask cid t fn tm d lanes bits l) cid t := by
  unfold State.putMask
  split
  · exact teamOnly_modTeam ..
  · exact teamOnly_modTeam ..

section
variable {s : State} {cid t fn : Nat} {c : Crew} {tm : Team} {th : Thread} (h : s.AtFrag cid t fn c tm th)
include h

theorem atFrag_putMask (d : Nat) (lanes bits : Mask) (l : Lbl) : ∃ c', (s.putMask cid t fn tm d lanes bits l).AtFrag cid t fn c'
    (maskedTeam tm fn d lanes bits l) (maskedThread th d lanes bits) := by
  unfold State.putMask maskedTeam maskedThread
  split
  · exact atFrag_modThread h _
  · exact ⟨_, atFrag_modTeam h (f := fun x => { x with
      m := kvPut {} x.m d (MReg.mk ((((kvGet {} tm.m d).bits &&& ~~~lanes) ||| (bits &&& lanes)) &&& x.live) l) }) h.2.2.2⟩

/-- A mask write by a fragment and the end of its instruction. -/
theorem mask_frame {vf d n : Nat} {tab : List (BitVec 64)} {lanes bits : Mask} {l : Lbl} {o : Option Agent} {u : State}
    (hu : u = { ((s.setLabels vf tab).putMask cid t fn tm d lanes bits l).modThread (.frag cid t fn) (advance .next n) with
      cur := o }) :
    TeamOnly (s.setLabels vf tab) u cid t ∧ u.team? cid t = some { maskedTeam tm fn d lanes bits l with
      frags := kvModify (maskedTeam tm fn d lanes bits l).frags fn (advance .next n) } ∧
    kvFind (kvModify (maskedTeam tm fn d lanes bits l).frags fn (advance .next n)) fn =
      some (advance .next n (maskedThread th d lanes bits)) := by
  obtain ⟨c1, h1⟩ := atFrag_putMask (h.setLabels vf tab) d lanes bits l
  obtain ⟨c2, h2⟩ := atFrag_modThread h1 (advance .next n)
  exact ⟨hu ▸ ((teamOnly_putMask ..).trans (teamOnly_modTeam ..)).trans (teamOnly_cur ..), hu ▸ h2.team, h2.2.2.2⟩
end

theorem putMask_queue (s : State) (cid t fn : Nat) (tm : Team) (d : Nat) (lanes bits : Mask) (l : Lbl) :
    (s.putMask cid t fn tm d lanes bits l).tbQueue = s.tbQueue := by
  unfold State.putMask
  split <;> rfl

/-- Settles O4: a mask instruction with no active lane passes its checks and does nothing; with one it writes its one mask. -/
theorem maskResults : Obligations.MaskResults := by
  unfold Obligations.MaskResults
  intro i s cid t fn c tm th d rs ls b hres h
  refine ⟨fun hx hi => ?_, fun l tab hx hi hl hd => exec_of_maskResult h hres hx hi hl hd⟩
  obtain ⟨labs, bits, hexec, -, -⟩ := maskOp_of_maskResult h hres
  rw [hexec, run_maskOp_idle h hx rfl hi]

/-- Settles O6: the instruction writes its one mask and moves its own thread on, which changes its team alone. -/
theorem maskFrame : Obligations.MaskFrame := by
  unfold Obligations.MaskFrame
  intro i s cid t fn c tm th d rs ls b l tab hres h hw hx hi hl hd
  obtain ⟨o, hfin⟩ := finish_plain (u := (s.setLabels c.vf tab).putMask cid t fn tm d th.exm b l) h.turn hw (putMask_queue ..)
  obtain ⟨honly, hteam, hthread⟩ := mask_frame h hfin
  obtain ⟨hs, hv, hfrags⟩ := maskedTeam_keeps tm fn d th.exm b l
  obtain ⟨hexm, hf, hpcl, -, hstack⟩ := advance_next_keeps ((s.setLabels c.vf tab).putMask cid t fn tm d th.exm b l).cyc
    (maskedThread th d th.exm b)
  obtain ⟨hf', hpcl', hstack'⟩ := maskedThread_keeps th d th.exm b
  have hmask := masks_maskedTeam tm fn d (lanes := th.exm) (bits := b) (l := l)
  refine ⟨_, _, _, exec_of_maskResult h hres hx hi hl hd, hteam, hthread, fun h0 k => ?_, fun h0 => ⟨?_, ?_⟩, fun h0 => ⟨?_, ?_⟩,
    fun r hr => ?_, hs, hv, hf.trans hf', hpcl.trans hpcl', hstack.trans hstack', fun k hk => ?_, honly.2.1,
    sameMachine_of_teamOnly honly, homeByte_of_teamOnly honly⟩
  · rw [hmask, if_pos ⟨h0, rfl⟩, getLsbD_mixMask]
  · rw [hmask, if_pos ⟨h0, rfl⟩]
  · rw [hexm, maskedThread, if_neg h0]
  · rw [maskedTeam, if_pos h0]
  · rw [hexm, maskedThread, if_pos h0, mixMask_self]
  · rw [hmask, if_neg fun hc => hr hc.2]
  · rw [kvFind_kvModify_ne _ _ _ _ hk, hfrags k hk]

end Sys2Proof.Machine.ExecModel
end

section
/-! PROOF. Moves to another header (R104, R107): O9. -/

namespace Sys2Proof.Machine.ExecModel

section
variable {s s1 : State} {ag : Agent} {th : Thread} (h : s.Turn ag th) (hw : th.heldFree = true)
include h hw

/-- An instruction that only ends its fragment's windows. -/
theorem closing_ok (hi : s.mayIssue ag th [] [] = true) :
    (do issue [] []; closeWindows; done : M Done) s = .ok {} (s.closed ag th) := by
  simp only [M_bind, issue_ok h hi, closeWindows_ok h hw, done, M_pure]

theorem bra_next {tgt : BitVec 17} (hi : s.mayIssue ag th [] [] = true) (hh : s.headersAt ag [targetOf th tgt] = some s1) :
    exec (.bra tgt) s = .next (s.finish (s1.closed ag th) ag { ctl := .jump (targetOf th tgt).toNat }) := by
  obtain ⟨hread, hsame⟩ := checkHeaders_ok (ls := []) h hh
  refine run_ok h.1 ?_
  simp only [M_bind, issue_ok h hi, myTh_ok h, hread, closeWindows_ok (h.same hsame) hw, goto, M_pure]

/-- CALL names lnk at its issue, and writes it once its windows have ended. -/
theorem call_next {tgt : BitVec 17} (hi : s.mayIssue ag th [] [.s 62] = true)
    (hh : s.headersAt ag [targetOf th tgt] = some s1) :
    exec (.call tgt) s = .next (s.finish ((s1.closed ag th).writeS ag 62
      { val := BitVec.ofNat 64 (th.pc + 8 * (th.clause.length + 1)), lab := th.pcl }) ag
      { ctl := .jump (targetOf th tgt).toNat }) := by
  have hreads : s.mayIssue ag th [.s 62] [] = true := mayIssue_mono hi (fun _ hr => hr) (fun _ hr => nomatch hr)
  obtain ⟨hread, hsame⟩ := checkHeaders_ok (ls := []) h hh
  have h1 := h.same hsame
  refine run_ok h.1 ?_
  simp only [M_bind, issue_ok h hreads, myTh_ok h, hread, declared_of_mayIssue hi h1, closeWindows_ok h1 hw,
    writeS_ok (turn_closed h1).1, nextHeader, goto, M_pure]

theorem ret_next (hi : s.mayIssue ag th [.s 62] [] = true)
    (hh : s.headersAt ag [((s.readS ag 62).val.toNat : Int)] = some s1)
    (hd : (s.ctx (s.ctxOf ag)).dominates th.pcl (s.readS ag 62).lab = true) :
    exec .ret s = .next (s.finish (s1.closed ag th) ag { ctl := .jump (s.readS ag 62).val.toNat }) := by
  obtain ⟨hread, hsame⟩ := checkHeaders_ok (ls := [(s.readS ag 62).lab]) h hh
  have h1 := h.same hsame
  refine run_ok h.1 ?_
  simp only [M_bind, issue_ok h hi, myTh_ok h, rdS_ok h.1, hread, dominates_ok h1, ctxOf_same hsame, dominates_same hsame, hd,
    ↓reduceIte, closeWindows_ok h1 hw, goto, M_pure]
end

/-- Settles O9: NOP and YIELD only end the windows; a jump reads its header, ends the windows and goes there. -/
theorem controlMoves : Obligations.ControlMoves := by
  unfold Obligations.ControlMoves
  refine ⟨fun s ag th h hi hw => ⟨run_ok h.1 (closing_ok h hw hi), run_ok h.1 (closing_ok h hw hi)⟩, ?_, ?_, ?_⟩
  · exact fun tgt s s1 ag th h hi hw hh => bra_next h hw hi hh
  · exact fun tgt s s1 ag th h hi hw hh => call_next h hw hi hh
  · exact fun s s1 ag th h hi hw hh hd => ret_next h hw hi hh hd

end Sys2Proof.Machine.ExecModel
end

section
/-! SUPPORT. What a fragment's crew and team keep as its lookahead windows end. -/

namespace Sys2Proof.Machine.ExecModel

theorem length_kvSet {β : Type} (m : KV β) (k : Nat) (v : β) : m.length ≤ (kvSet m k v).length := by
  induction m with
  | nil => exact Nat.zero_le _
  | cons e rest ih =>
    rw [kvSet]
    split
    · exact Nat.le_refl _
    · split
      · exact Nat.le_succ _
      · exact Nat.succ_le_succ ih

/-- A change of an entry leaves a table of one entry, and no other, with one entry: in a table whose keys are not in order it may add
one. -/
theorem length_kvModify_eq_one {β : Type} {m : KV β} {k : Nat} {v : β} (h : kvFind m k = some v) (f : β → β) :
    (kvModify m k f).length = 1 ↔ m.length = 1 := by
  rw [kvModify, h]
  cases m with
  | nil => exact nomatch h
  | cons e rest =>
    obtain ⟨a, w⟩ := e
    cases rest with
    | nil =>
      have hk : k = a := by
        by_contra hne
        rw [kvFind, if_neg hne] at h
        exact nomatch h
      simp only [kvSet, if_pos hk, List.length_cons]
    | cons e' rest =>
      have hle := length_kvSet ((a, w) :: e' :: rest) k (f v)
      simp only [List.length_cons] at hle ⊢
      omega

theorem closed_ctx (s : State) (ag : Agent) (th : Thread) (vf : Nat) : (s.closed ag th).ctx vf = s.ctx vf := by
  unfold State.closed
  split
  · rfl
  · cases ag <;> rfl

/-- The windows of a fragment end with its crew and team as they were, but for its thread. -/
theorem closed_frag {s : State} {cid t fn : Nat} {c : Crew} {tm : Team} {th : Thread} (h : s.AtFrag cid t fn c tm th) :
    ∃ c' tm', (s.closed (.frag cid t fn) th).AtFrag cid t fn c' tm' { th with pend := [] } ∧ c'.vf = c.vf ∧ c'.copy = c.copy ∧
      tm'.frame = tm.frame ∧ tm'.phase = tm.phase ∧ (tm'.frags.length = 1 ↔ tm.frags.length = 1) := by
  by_cases hp : th.pend = []
  · rw [closed_of_empty hp, ← hp]
    exact ⟨c, tm, h, rfl, rfl, rfl, rfl, Iff.rfl⟩
  · rw [State.closed, if_neg hp]
    exact ⟨_, _, atFrag_modTeam h (f := fun tm => { tm with frags := kvModify tm.frags fn (fun th => { th with pend := [] }) })
      (by rw [kvFind_kvModify_self, h.2.2.2, Option.map_some]), rfl, rfl, rfl, rfl, length_kvModify_eq_one h.2.2.2 _⟩

end Sys2Proof.Machine.ExecModel
end

section
/-! PROOF. TRAP, BKPT and HALT (R40, R104, R109, R110): O14. -/

namespace Sys2Proof.Machine.ExecModel

/-- What a fault's record is given does not touch its code. -/
theorem fullTrap_code (s : State) (ag : Agent) (th : Thread) (x : Trap) : (s.fullTrap ag th x).code = x.code := by
  unfold State.fullTrap
  split
  · rfl
  · split <;> rfl

section
variable {s : State} {cid t fn : Nat} {c : Crew} {tm : Team} {th : Thread} (h : s.AtFrag cid t fn c tm th)
include h

/-- A fault other than a page fault enters the handler, outside a handler, while the frame is free and no load is held. -/
theorem takeTrap_enters {x : Trap} (hx : x.code ≠ 0x07) (hb : x.code = 0x20 → (s.ctx c.vf).breakpoints = false)
    (hh : th.handler = false) (hf : tm.frame = none) (hw : th.heldFree = true) :
    s.takeTrap (.frag cid t fn) x = s.enterHandler cid t fn (s.fullTrap (.frag cid t fn) th x) := by
  have hpage : ((s.fullTrap (.frag cid t fn) th x).code == 0x07) = false := by
    rw [fullTrap_code]
    exact beq_eq_false_iff_ne.mpr hx
  have hbreak : ((s.fullTrap (.frag cid t fn) th x).code == 0x20 && (s.ctx c.vf).breakpoints) = false := by
    rw [fullTrap_code, Bool.and_eq_false_imp, beq_iff_eq]
    exact hb
  have hhold : th.holding = false := by simpa only [Thread.heldFree, Thread.holding, Bool.not_eq_true'] using hw
  simp only [State.takeTrap, State.takeFull, h.thread, h.crew, h.team, Option.bind_some, hf, hpage, hbreak, hh, hhold, Option.isSome_none,
    Bool.false_and, Bool.or_self, Bool.false_eq_true, ↓reduceIte]

/-- A breakpoint in a context that the debugger holds stops the fragment. -/
theorem takeTrap_debugger {x : Trap} (hx : x.code = 0x20) (hb : (s.ctx c.vf).breakpoints = true) :
    s.takeTrap (.frag cid t fn) x = s.parkThread (.frag cid t fn) .debugger := by
  simp only [State.takeTrap, State.takeFull, h.thread, h.crew, fullTrap_code, hx, hb, Nat.reduceBEq, beq_self_eq_true, Bool.and_self,
    Bool.false_and, Bool.false_eq_true, ↓reduceIte]

theorem trap_next (n : BitVec 25) (hi : s.mayIssue (.frag cid t fn) th [] [] = true) (hh : th.handler = false) (hf : tm.frame = none)
    (hw : th.heldFree = true) : exec (.trap n) s = .next (s.enterHandler cid t fn
      (s.fullTrap (.frag cid t fn) th { code := 0x21, lanes := th.exm, info := some (n.zeroExtend 64) })) := by
  rw [← takeTrap_enters h (show (0x21 : Nat) ≠ 0x07 by decide) (fun hx => absurd hx (show (0x21 : Nat) ≠ 0x20 by decide)) hh hf hw]
  refine run_trap h.cur ?_ rfl
  simp only [M_bind, issue_ok h.turn hi, trapU_info_error h.turn]

/-- BKPT ends the windows, and then takes its exception. -/
theorem exec_bkpt (n : BitVec 25) (hi : s.mayIssue (.frag cid t fn) th [] [] = true) (hw : th.heldFree = true) :
    exec (.bkpt n) s = .next ((s.closed (.frag cid t fn) th).takeTrap (.frag cid t fn)
      { code := 0x20, lanes := th.exm, info := some (n.zeroExtend 64) }) := by
  refine (run_eq_outcome h.cur _).trans ?_
  simp only [M_bind, issue_ok h.turn hi, closeWindows_ok h.turn hw, trapU_info_error (turn_closed h.turn)]
  exact outcome_trap rfl
end

/-! ### HALT -/

theorem keepPair_halted (p : Park) : keepPair p .halted = .halted := by
  cases p <;> rfl

theorem halt_stops {s : State} {k : Nat} {th : Thread} (h : s.Turn (.sup k) th) (hw : th.heldFree = true) :
    exec .halt s = .next ((s.closed (.sup k) th).parkThread (.sup k) .halted) := by
  refine (run_eq_outcome h.1 _).trans ?_
  simp only [M_bind, me_ok h.1, closeWindows_ok h hw, M_throw]
  rw [outcome_park h hw, keepPair_halted]

/-- Only a supervisor core may halt. -/
theorem halt_trap {s : State} {ag : Agent} {th : Thread} (h : s.Turn ag th) (hag : ∀ k, ag ≠ .sup k)
    (hi : s.mayIssue ag th [] [] = true) : exec .halt s = .next (s.takeTrap ag { code := 0x1C, lanes := th.exm }) := by
  refine run_trap h.1 ?_ rfl
  cases ag with
  | sup k => exact absurd rfl (hag k)
  | frag | seq => simp only [M_bind, me_ok h.1, issue_ok h hi, trapU_error h]

/-- Settles O14: TRAP stops at its exception, BKPT once its windows have ended; HALT stops a supervisor core, and any other agent at
its check. -/
theorem trapsAndHalt : Obligations.TrapsAndHalt := by
  unfold Obligations.TrapsAndHalt
  refine ⟨fun n s cid t fn c tm th h hi hh hf hw => ⟨trap_next h n hi hh hf hw, fun hb => ?_, fun hb => ?_⟩,
    fun s k th h hw => halt_stops h hw, fun s ag th h hag hi => halt_trap h hag hi⟩
  · obtain ⟨c1, tm1, h1, hvf, -, hframe, -⟩ := closed_frag h
    rw [exec_bkpt h n hi hw, takeTrap_enters h1 (show (0x20 : Nat) ≠ 0x07 by decide) (fun _ => by rw [closed_ctx, hvf, hb]) hh
      (hframe.trans hf) rfl]
  · obtain ⟨c1, tm1, h1, hvf, -⟩ := closed_frag h
    rw [exec_bkpt h n hi hw, takeTrap_debugger h1 rfl (by rw [closed_ctx, hvf, hb])]

end Sys2Proof.Machine.ExecModel
end

section
/-! PROOF. EXIT (R38, R106, R289): O13. -/

namespace Sys2Proof.Machine.ExecModel

section
variable {s : State} {cid t fn : Nat} {c : Crew} {tm : Team} {th : Thread} (h : s.AtFrag cid t fn c tm th)
  (hi : s.mayIssue (.frag cid t fn) th [] [] = true) (hw : th.heldFree = true)
include h hi hw

/-- A fragment with lanes left goes on with them. -/
theorem exit_goes_on (hrest : th.f &&& ~~~th.exm ≠ 0) :
    exec .exit s = .next (s.finish (((s.closed (.frag cid t fn) th).lanesGone cid t th.exm).modThread (.frag cid t fn)
      (fun x => { x with f := th.f &&& ~~~th.exm, exm := th.f &&& ~~~th.exm })) (.frag cid t fn) {}) := by
  obtain ⟨c1, tm1, h1, -⟩ := closed_frag h
  have hgone : ((s.closed (.frag cid t fn) th).lanesGone cid t th.exm).cur = some (.frag cid t fn) := h1.cur
  rw [State.lanesGone] at hgone ⊢
  refine run_ok h.cur ?_
  simp only [M_bind, issue_ok h.turn hi, closeWindows_ok h.turn hw, me_ok h1.cur, myTh_ok h1.turn, myTeam_ok h1, getCrew_ok h1.crew,
    hrest, decide_false, Bool.false_and, Bool.false_eq_true, ↓reduceIte, modTeam_ok h1.cur,
    modTh_ok hgone, done, M_pure]

/-- A fragment without lanes ends, and with its last one its crew may; here it is not the last of an item or of a pair's copy. -/
theorem exit_ends (hrest : th.f &&& ~~~th.exm = 0)
    (hlast : tm.frags.length ≠ 1 ∨ tm.phase ≠ .claim ∧ tm.phase ≠ .commit ∧ c.copy = .solo) :
    exec .exit s = .next (s.finish
      (({ ((s.closed (.frag cid t fn) th).lanesGone cid t th.exm).endFrag cid t fn with cur := none }.endGrant cid).retireCrew
        cid) (.frag cid t fn) { ctl := .stay }) := by
  obtain ⟨c1, tm1, h1, -, hcopy, -, hphase, hlen⟩ := closed_frag h
  have hitem : (tm1.frags.length == 1 && (tm1.phase == .claim || tm1.phase == .commit)) = false := by
    rcases hlast with hne | ⟨hclaim, hcommit, -⟩
    · rw [beq_eq_false_iff_ne.mpr (mt hlen.mp hne), Bool.false_and]
    · rw [hphase, beq_eq_false_iff_ne.mpr hclaim, beq_eq_false_iff_ne.mpr hcommit, Bool.or_self, Bool.and_false]
  have hpaired : ∀ b, (tm1.frags.length == 1 && b && c1.copy != .solo) = false := by
    intro b
    rcases hlast with hne | ⟨-, -, hsolo⟩
    · rw [beq_eq_false_iff_ne.mpr (mt hlen.mp hne), Bool.false_and, Bool.false_and]
    · rw [hcopy, hsolo, bne_self_eq_false, Bool.and_false]
  refine run_ok h.cur ?_
  simp only [M_bind, issue_ok h.turn hi, closeWindows_ok h.turn hw, me_ok h1.cur, myTh_ok h1.turn, myTeam_ok h1, getCrew_ok h1.crew,
    hrest, decide_true, Bool.true_and, hitem, hpaired, Bool.false_and, Bool.false_eq_true, ↓reduceIte, M_pure, modTeam_ok h1.cur, M_modify,
    State.lanesGone]
end

/-- A stream's EXIT ends it, and arrives for it at the rendezvous (R289). -/
theorem exit_stream {s : State} {cid x : Nat} {c : Crew} {q : SeqCtx} (h : s.AtSeq cid x c q)
    (hi : s.mayIssue (.seq cid x) q.th [] [] = true) (hw : q.th.heldFree = true) (hs : c.copy = .solo) :
    exec .exit s = .next (s.finish
      (({ (s.closed (.seq cid x) q.th).modCrew cid (fun c => c.modBody (fun b =>
          ({ b with seqs := kvModify b.seqs x (fun q => { q with ended := true, rdv := true }) } : Body).arriveRdv (.seq cid x)))
        with cur := none }.endGrant cid).retireCrew cid) (.seq cid x) { ctl := .stay }) := by
  have h1 := turn_closed h.turn
  obtain ⟨c1, hcrew, hcopy⟩ : ∃ c1, kvFind (s.closed (.seq cid x) q.th).crews cid = some c1 ∧ c1.copy = .solo := by
    unfold State.closed
    split
    · exact ⟨c, h.2.1, hs⟩
    · rw [State.modThread, State.crew_modCrew, if_pos rfl, h.2.1, Option.map_some]
      exact ⟨_, rfl, hs⟩
  refine run_ok h.1 ?_
  simp only [M_bind, issue_ok h.turn hi, closeWindows_ok h.turn hw, me_ok h1.1, getCrew_ok hcrew, hcopy, bne_self_eq_false,
    Bool.false_and, Bool.false_eq_true, ↓reduceIte, M_pure, modMyCrew_ok h1.1 (cid := cid) rfl, M_modify]

theorem exit_supervisor {s : State} {k : Nat} {th : Thread} (h : s.Turn (.sup k) th) (hi : s.mayIssue (.sup k) th [] [] = true)
    (hw : th.heldFree = true) : exec .exit s = .next (s.finish (s.closed (.sup k) th) (.sup k) {}) := by
  refine run_ok h.1 ?_
  simp only [M_bind, issue_ok h hi, closeWindows_ok h hw, me_ok (turn_closed h).1, done, M_pure]

/-- Settles O13: each kind of agent ends its windows first, and then goes as its clause says. -/
theorem exitResults : Obligations.ExitResults := by
  unfold Obligations.ExitResults
  refine ⟨fun s cid t fn c tm th h hi hw => ⟨exit_goes_on h hi hw, exit_ends h hi hw⟩, ?_, ?_⟩
  · exact fun s cid x c q h hi hw hs => exit_stream h hi hw hs
  · exact fun s k th h hi hw => exit_supervisor h hi hw

end Sys2Proof.Machine.ExecModel
end

section
/-! PROOF. SMOVH, SLANE and VRED (R102, R103, R144): O2. -/

namespace Sys2Proof.Machine.ExecModel

/-- SMOVH joins the label of the half that it keeps. -/
theorem smovh_next {s : State} {ag : Agent} {th : Thread} (h : s.Turn ag th) {d : Nat} {imm : BitVec 32} {l : Lbl}
    {tab : List (BitVec 64)} (hi : s.mayIssue ag th [.s d] [.s d] = true) (hj : s.joined ag [th.pcl, (s.readS ag d).lab] = some (l, tab)) :
    exec (.smovh d imm) s = .next (s.finish ((s.setLabels (s.ctxOf ag) tab).writeS ag d
      { val := imm ++ (s.readS ag d).val.extractLsb' 0 32, lab := l }) ag {}) := by
  refine run_ok h.1 ?_
  simp only [M_bind, issue_ok h hi, rdS_ok h.1, myPcl_ok h, joinAll_ok h hj, writeS_ok (h.setLabels (s.ctxOf ag) tab).1, done, M_pure]

section
variable {s : State} {cid t fn : Nat} {c : Crew} {tm : Team} {th : Thread} (h : s.AtFrag cid t fn c tm th)
include h

theorem slane_next {d a b : Nat} {l : Lbl} {tab : List (BitVec 64)}
    (hi : s.mayIssue (.frag cid t fn) th [.v a, .s b] [.s d] = true)
    (hj : s.joined (.frag cid t fn) ((mgroups th.exm).map (fun g => tm.vlab a g) ++
      [(s.readS (.frag cid t fn) b).lab, th.pcl]) = some (l, tab)) :
    exec (.slane d a b) s = .next (s.finish ((s.setLabels c.vf tab).writeS (.frag cid t fn) d
      { val := if (s.readS (.frag cid t fn) b).val.toNat < tm.lanes ∧
                  th.exm.getLsbD (s.readS (.frag cid t fn) b).val.toNat = true
               then (tm.lane a (s.readS (.frag cid t fn) b).val.toNat).zeroExtend 64 else 0
        lab := l }) (.frag cid t fn) {}) := by
  refine run_ok h.cur ?_
  simp only [M_bind, issue_ok h.turn hi, myTh_ok h.turn, myTeam_ok h, rdS_ok h.cur, Team.crossLab, joinAll_ok h.turn hj, h.ctx,
    writeS_ok (h.setLabels c.vf tab).cur, done, M_pure]
  rfl

section
variable {la : Nat} {ty : Ty} {sat : Bool} {r : Rnd} {op : AOp} {d a : Nat}

/-- VRED with no active lane opens its window, and writes nothing (log 66). -/
theorem vred_idle (hx : th.exm = 0) (hi : s.mayIssue (.frag cid t fn) th [.v a] [] = true) :
    exec (.vred la ty sat r op d a) s =
      .next (s.finish (s.opened (.frag cid t fn) [.s d] (some (la, classTr))) (.frag cid t fn) {}) := by
  refine run_ok h.cur ?_
  simp only [M_bind, myTh_ok h.turn, hx, ↓reduceIte, issue_ok h.turn hi, M_pure, openWindow_ok h.cur, done]

theorem vred_next {l : Lbl} {tab : List (BitVec 64)} (hx : th.exm ≠ 0) (hi : s.mayIssue (.frag cid t fn) th [.v a] [.s d] = true)
    (hj : s.joined (.frag cid t fn) ((mgroups th.exm).map (fun g => tm.vlab a g) ++ [th.pcl]) = some (l, tab)) :
    exec (.vred la ty sat r op d a) s = .next (s.finish (((s.setLabels c.vf tab).writeS (.frag cid t fn) d
      { val := if ty = .i32 then (foldLanes op ty sat r ((mlanes th.exm).map (fun k => tm.lane a k))).signExtend 64
               else (foldLanes op ty sat r ((mlanes th.exm).map (fun k => tm.lane a k))).zeroExtend 64
        lab := l }).opened (.frag cid t fn) [.s d] (some (la, classTr))) (.frag cid t fn) {}) := by
  have hcur := (h.setLabels c.vf tab).cur
  refine run_ok h.cur ?_
  simp only [M_bind, myTh_ok h.turn, hx, ↓reduceIte, issue_ok h.turn hi, myTeam_ok h, Team.crossLab, joinAll_ok h.turn hj, h.ctx,
    writeS_ok hcur, openWindow_ok ((writeS_cur ..).trans hcur), done, M_pure, beq_iff_eq]
end
end

/-- SLANE stands in team clauses alone: a sequencer's clause that holds its word is illegal (R103). -/
theorem slane_illegal {d a b : Nat} {w : Word} (hw : encode (.slane d a b) = some w) {e : Eng} (he : e = .matrix ∨ e = .copy) :
    ∃ x, decode e w = .error x := by
  have hop : fOp w = 0x27 := (encR_eq_iff.mp (Option.some.inj hw)).1
  rw [decode_eq_decodeAt, hop]
  rcases he with rfl | rfl
  · exact ⟨_, rfl⟩
  · exact ⟨_, rfl⟩

/-- Settles O2: each instruction passes its checks and writes its one register; the decoder admits SLANE in team clauses alone. -/
theorem uniformOtherResults : Obligations.UniformOtherResults := by
  unfold Obligations.UniformOtherResults
  refine ⟨?_, ⟨?_, ?_⟩, ?_⟩
  · exact fun d imm s ag th l tab h hi hj => smovh_next h hi hj
  · exact fun d a b s cid t fn c tm th l tab h hi hj => slane_next h hi hj
  · exact fun d a b w hw e he => slane_illegal hw he
  · exact fun la ty sat r op d a s cid t fn c tm th h => ⟨vred_idle h, fun l tab hx hi hj => vred_next h hx hi hj⟩

end Sys2Proof.Machine.ExecModel
end

section
/-! PROOF. The label instructions (R118, R119): O37 fails in the clause of LRAISE. -/

namespace Sys2Proof.Machine.ExecModel

/-! ### LRAISE to a label that its own join allocates -/

/-- A fragment with one active lane. -/
def laneThread : Thread := { pc := 0x110000, clause := [0, 0], exm := 1, f := 1 }
/-- s1 is the address of a granule, with label 1, and s2 a length of 128, with label 2; s3 names label 3. -/
def raiseTeam : Team :=
  { lanes := 1, live := 1, frags := [(0, laneThread)]
    s := [(1, { val := 0x100000, lab := 1 }), (2, { val := 128, lab := 2 }), (3, { val := 3 })] }
def raiseCrew : Crew := { vf := 0, key := 0, index := 0, body := { teams := [(0, raiseTeam)] } }
/-- Labels 0, 1 and 2 exist: of nobody, owner 0 and owner 1. One page lies at 0x100000, and one at the crew's block. -/
def raiseState : State :=
  { cur := some (.frag 1 0 0), ctxs := [(0, { labels := [0, 1, 2], ptb := 0x10000, carea := 0x400001 })], crews := [(1, raiseCrew)]
    hbm := wordsAt [(0x10000, 0x20001), (0x20000, 0x30001), (0x30080, 0x200005), (0x30200, 0x240005)] }

/-- The access of the instruction, its locations and the state after its checks. -/
def raiseAccess : Acc := { uni := true, size := 128, eas := granules 0x100000 128, alab := [1] }
def raiseCheckup : EStateM.Result Stop State (List Loc) := checkAcc .store raiseAccess raiseState
def raiseLocs : List Loc := match raiseCheckup with | .ok ls _ => ls | .error _ _ => []
def raiseChecked : State := match raiseCheckup with | .ok _ u => u | .error _ u => u
/-- The state after the join of the labels of s1 and s2, which allocates label 3. -/
def raiseJoined : State := raiseChecked.setLabels 0 [0, 1, 2, 3]

/-- What a meaning answers where it ends well, with the state that it leaves. -/
def answer {α : Type} (r : EStateM.Result Stop State α) : Option (α × State) :=
  match r with | .ok a u => some (a, u) | .error _ _ => none

theorem eq_ok_of_answer {α : Type} {r : EStateM.Result Stop State α} {a : α} {u : State} (h : answer r = some (a, u)) : r = .ok a u := by
  cases r with
  | ok b v =>
    obtain ⟨rfl, rfl⟩ := Prod.mk.inj (Option.some.inj h)
    rfl
  | error e v => exact nomatch h

/-- The outcome of a step leaves the granule at 0x200000 with label 3. -/
def raisesGranule (o : Host.Outcome State Fault Refusal) : Bool :=
  match o with | .next u => u.granLab (lineOf 0x200000) == 3 | _ => false

/-- Refutes O37, in the clause of LRAISE: the instruction looks its target up in the label table as it is before its own labels are
joined (R119), and s3 names the label that this join allocates. It raises 0x0A, while the statement, which looks in the table after the
join, has the granule's label raised. -/
theorem not_labelInstructions : ¬ Obligations.LabelInstructions := by
  unfold Obligations.LabelInstructions
  rintro ⟨-, hraise, -⟩
  obtain ⟨-, hok⟩ := hraise 3 1 2 0 raiseState (.frag 1 0 0) laneThread 0x100000 128 ⟨rfl, rfl⟩ (by decide +kernel)
    (by decide +kernel) (by decide) (by decide +kernel) (by decide)
  have hexec := hok 1 raiseCrew raiseLocs raiseChecked raiseJoined 3 [0, 1, 2, 3] raiseAccess (by decide) rfl rfl rfl
    (eq_ok_of_answer (by decide +kernel)) (eq_ok_of_answer (by decide +kernel)) (by decide +kernel) (by decide +kernel) rfl
    (by decide +kernel) (by decide +kernel) (by decide +kernel) (by decide +kernel) (by decide +kernel)
  have hstops : raisesGranule (exec (.lraise 3 1 2 0) raiseState) = false := by decide +kernel
  rw [hexec] at hstops
  exact absurd hstops (by decide +kernel)

end Sys2Proof.Machine.ExecModel
end

section
/-! PROOF. FAULTR and PGMAP (R111, R330, R358): O54 fails in the clause of PGMAP on a mapped page. -/

namespace Sys2Proof.Machine.ExecModel

/-! ### PGMAP on a mapped page, whose commit point ends the cast -/

/-- A fragment at context-supervisor privilege that stands at the word of an SLD. -/
def pageThread : Thread := { pc := 0x110000, clause := [0x2200000000000000], exm := 1, f := 1, priv := .ctxSup }
/-- s1 is the address of a mapped page. -/
def pageTeam : Team := { lanes := 1, live := 1, frags := [(0, pageThread)], s := [(1, { val := 0x100000 })] }
def pageCrew : Crew := { vf := 0, key := 0, index := 0, body := { teams := [(0, pageTeam)] } }
/-- Another crew of the cast, on another core, with a byte of a line uncommitted in its stash window; its block has no page. -/
def mateCrew : Crew :=
  { vf := 0, key := 0, index := 1, core := 1, block := 1
    body := { pad := { size := 1024, filled := [(0, lineOf 0x200000)], dirty := [0] } } }
/-- The first crew has committed a byte of that line, which waits in the L1 of its core; the context's bucket at the line's controller
is empty. -/
def pageState : State :=
  { cur := some (.frag 1 0 0), ctxs := [(0, { ptb := 0x10000, carea := 0x400001 })], crews := [(1, pageCrew), (2, mateCrew)]
    clusters := [(0, { l1s := [(0, { dirty := [(0x200000, 1)], writers := [(lineOf 0x200000, [1])] })] })]
    ctl := [(mcKey 0 0x2000, 0x8000000000000000)], tbLevel := [(0, 0)]
    hbm := wordsAt [(0x10000, 0x20001), (0x20000, 0x30001), (0x30080, 0x200005), (0x30200, 0x240005)] }

/-- The page that a walk finds mapped. -/
def isMapped (m : MapAt) : Bool := match m with | .valid => true | _ => false

theorem eq_valid_of_isMapped {m : MapAt} (h : isMapped m = true) : m = .valid := by
  cases m with
  | valid => rfl
  | _ => exact nomatch h

/-- The outcome of a step leaves a request that waits at a controller on an agent's behalf. -/
def requestCounted (o : Host.Outcome State Fault Refusal) : Bool :=
  match o with | .next u => u.tbQueue.any (fun r => r.who.isSome) | _ => false

/-- Refutes O54, in the clause of PGMAP on a mapped page: its commit point writes a line through that another crew of the cast holds
uncommitted in a stash window, which forces a commit point on that crew; the page of that crew's record is not there, so that the cast is
aborted and the instruction ends at once (R326, R391). The statement ends it like any other instruction, which counts the request that
the write-through has left waiting at the memory controller among the fragment's own, by the word at which it stands; the statement does
not ask that this be the PGMAP's, and here it is an SLD's. -/
theorem not_handlerInstructions : ¬ Obligations.HandlerInstructions := by
  unfold Obligations.HandlerInstructions
  rintro ⟨-, hpgmap⟩
  obtain ⟨-, -, hmapped⟩ := hpgmap 1 pageState (.frag 1 0 0) pageThread 1 pageCrew 0x100000 ⟨rfl, rfl⟩ rfl rfl (by decide +kernel)
    (by decide +kernel)
  obtain ⟨-, -, hvalid, -⟩ := hmapped (by decide) (by decide +kernel)
  have hstays : (pageState.commitNow 1).mapAt ((pageState.commitNow 1).ctx pageCrew.vf).root 0x100000 = .valid :=
    eq_valid_of_isMapped (by decide +kernel)
  have hexec := hvalid (eq_valid_of_isMapped (by decide +kernel)) (by decide +kernel) (fun n hn => nomatch hstays.symm.trans hn)
  have huncounted : requestCounted (exec (.pgmap 1) pageState) = false := by decide +kernel
  rw [hexec] at huncounted
  exact absurd huncounted (by decide +kernel)

end Sys2Proof.Machine.ExecModel
end
